-- ==== Sys2Proof/Word.lean ====
section
/-! DEFINITION. The words of the Filune F9: a scalar register is 64 bits (R68), a handle and a bundle 256 (R77, R295),
a beat 256 bytes (R81). Everything is little-endian (R4): a byte list's first byte is bits [7:0]. -/

namespace Sys2Proof

/-- A byte of memory. -/
abbrev Byte := BitVec 8

/-- A scalar register's value (R68). -/
abbrev Word := BitVec 64

/-- A handle image (R77). -/
abbrev Handle := BitVec 256

/-- A bundle (R295). -/
abbrev BundleBits := BitVec 256

/-- A beat of a stream port: 256 bytes (R81). -/
abbrev Beat := BitVec 2048

end Sys2Proof
end

