-- ==== Sys2Proof/Syntax.lean ====
section
/-! DEFINITION. The instructions of the Jorba instruction set and the other steps of the part: one constructor for each row of
spec/opcode_table.json. A slot instruction carries its guard code (R71) first; a vector or copy instruction the slot that
holds it. The rows that no encoding names (the engines', the host's and the firmware's steps) are constructors as well: they
are the entries of State.agenda. -/

namespace Sys2Proof

/-- A guard code: bit 5 is N, bits [4:0] the source (R71). -/
abbrev Guard := BitVec 6
/-- A scalar register number (R68). -/
abbrev SReg := BitVec 6
/-- A handle register number (R77). -/
abbrev HReg := BitVec 5
/-- A stream port number (R80). -/
abbrev PortNo := BitVec 5
/-- A vector operand code of fields a and b (Table 16.6). -/
abbrev VOpd := BitVec 6
/-- A scope number (Table 6.1). -/
abbrev Scope := BitVec 3
/-- A latency field (R63). -/
abbrev Lat := BitVec 6

/-- Access sizes of format SL (Table 16.3). -/
inductive Size | b | h | w | d
  deriving DecidableEq, Repr

/-- Orders of a memory access (R127). -/
inductive Order | rlx | acq | rel | acqrel
  deriving DecidableEq, Repr

/-- Condition codes 0 to 11 (Table 16.5). -/
inductive Cond | eq | ne | lt | ge | ltu | geu | gt | le | gtu | leu | un | ord
  deriving DecidableEq, Repr

/-- Branch conditions 0 to 6 (R299). -/
inductive BrCond | always | eqz | nez | ltz | gez | gtz | lez
  deriving DecidableEq, Repr

/-- Atomic operations 0 to 9 (Table 6.6). -/
inductive AtomOp | swap | add | and | or | xor | min | minu | max | maxu | fadd
  deriving DecidableEq, Repr

/-- Rounding selectors 0 to 5 (Table 4.3). -/
inductive RSel | rne | rtz | rdn | rup | srnd | fpcsr
  deriving DecidableEq, Repr

/-- Element types (R77). -/
inductive EType
  | f32 | bf16 | f16 | e4m3 | e5m2 | i32 | u32 | i16 | u16 | i8 | u8 | i64 | q2 | q4 | q8 | bytes
  deriving DecidableEq, Repr

/-- Vector slot types (Table 16.6). -/
inductive VType | f32 | bf16 | f16 | i32 | u32 | i16 | i8 | u8
  deriving DecidableEq, Repr

/-- Fields of a handle that HSET and HGET name (R300). -/
inductive HField
  | base | kind | etype | flags | dim0 | dim1 | dim2 | stride1 | stride2 | slotsz | nslot | head | tail | filled
  | bufver | readers | word0 | word1 | word2 | word3
  deriving DecidableEq, Repr

/-- The two vector slots. -/
inductive VSlot | v0 | v1
  deriving DecidableEq, Repr

/-- The two copy slots. -/
inductive CSlot | c0 | c1
  deriving DecidableEq, Repr

/-- Where an error is found (R254). -/
inductive ErrorPlace
  | loadData (req : Nat)        -- the data of a scalar load
  | copyData (job chunk : Nat)  -- the data of a copy, WSTR or KVCP chunk
  | memory (line : BitVec 40)   -- a line of memory: every read of it meets the error until the line is written whole
  | contextBank (ctx : BitVec 16)   -- register bank set, SPM or ACM bank, landing buffer of a resident context
  | sharedLogic                 -- supervisor set, sequencer or shared core logic
  | soft (line : BitVec 40)     -- a single-symbol error in a line of memory, which the scrubber corrects (R293)
  | corrected (detail : BitVec 64)  -- a soft error that was corrected: logged alone
  deriving DecidableEq, Repr

/-- How the task of another core of a kernel ended (R33, R45): its core, its result word (0 through EXIT), whether with LEAVE, and at
which levels it had arrived for the running phase. -/
structure MemberEnd where
  core : Nat
  result : BitVec 64
  leave : Bool
  arrived : BitVec 6
  elsewhere : Bool := false    -- a member of another package of the kernel's group: it shares level 5 alone
  deriving DecidableEq, Repr

/-- Whose arrival reaches a domain (R42, R43, R278): the core's own, that of another core of the package, or that of a core of another package of the group,
with the token point it carries. -/
inductive Arriver
  | own
  | package
  | elsewhere (tokp : BitVec 3)
  deriving DecidableEq, Repr

/-- What writes memory for another agent: an engine, which sets the full bits of the granules it writes, or a core's store; `sleeps` says that the storing context
stands descheduled then (R54, R116). -/
inductive Writer
  | engine
  | store (sleeps : Bool)
  deriving DecidableEq, Repr

/-- What another agent of the package has the memory system, the version store and the VSU do (R120, R124, R130, R148 to R161), at a physical address. `v` and
`rca` are bits of the page it uses. A transaction is named by its TID. -/
inductive ForeignAct
  | load (pa : BitVec 40)
  | store (pa : BitVec 40) (v rca : Bool) (rcn : BitVec 4) (bytes : List Byte) (writer : Writer)
  | atomic (pa : BitVec 40) (v : Bool) (op : AtomOp) (operand : BitVec 64) (wide : Bool)
  | snap
  | snapx (stamp : Nat)
  | tbegin (tid : BitVec 12) (snap : Option Nat)
  | txnStore (tid : BitVec 12) (pa : BitVec 40) (bytes : List Byte)
  | tcommit (tid : BitVec 12)
  | tabort (tid : BitVec 12)
  | regions (core : Nat) (banks : List Nat)      -- the ACM banks that regions of another core hold from now on (R114)
  deriving DecidableEq, Repr

/-- Whose request is accepted at its serialisation point: the core's own, by its number, or another agent's. -/
inductive ReqSource
  | own (id : Nat)
  | foreign (act : ForeignAct)
  deriving DecidableEq, Repr

/-- A host register: 8 bytes of BAR0, or the control word of the MSI-X capability (R286). -/
inductive HostReg
  | bar0 (offset : BitVec 16)
  | msixControl
  deriving DecidableEq, Repr

/-- What the boot ROM of a die finds in its firmware image (R290): the SHA3-256 digest of the body, whether the ML-DSA-44 signature verifies over it, the
SHA3-256 hash of the public key, the security version, whether the image raises the fused minimum and whether it grants debug unlock (R294). -/
structure DieImage where
  digest : BitVec 256
  signed : Bool
  keyHash : BitVec 256
  version : Nat
  raises : Bool
  unlock : Bool
  deriving DecidableEq, Repr

/-- The estimates that a die's reading is set against beside the subject core's (R280): the other contexts of the die, with the sensor's reading. -/
structure EnergyReading where
  sensor : Nat
  others : List Nat
  deriving DecidableEq, Repr

/-- What a flit of a peer port carries (R288, R289): part of a copy of this package, by its job, or a chunk of another package's copy at an address of this one. -/
inductive FlitLoad
  | own (job : Option Nat)
  | read (pa : BitVec 40) (n : Nat)
  | write (pa : BitVec 40) (bytes : List Byte)
  | reduce (pa : BitVec 40) (op : AtomOp) (operand : BitVec 64) (wide : Bool)
  deriving DecidableEq, Repr

/-- A port that goes up, and the window that its member exposes, in units of 64 KiB (R288, R289). -/
structure PeerWindow where
  port : BitVec 4
  base : BitVec 24
  len : BitVec 24
  deriving DecidableEq, Repr

/-- A WSTR of another core of the cluster that names this core (R179, R180): the kernel of its issuer, its descriptor and request, the address space, mode and
view of its reads, the weight buffer and the planes. -/
structure WstrIn where
  kernel : Nat
  src : BitVec 256
  req : BitVec 256
  atp : BitVec 64
  sup : Bool
  view : Option Nat
  wb1 : Bool
  mask : BitVec 2
  deriving DecidableEq, Repr

/-- What enters a weight buffer: the next block of a request of this core's, by its job, or a request of another core that names this one (R179, R180). -/
inductive WbSource
  | own (job : Nat)
  | foreign (w : WstrIn)
  deriving DecidableEq, Repr

/-- Where LAUNCH_TAKE finds a queue: its address space and its home die (R34). -/
structure QueuePlace where
  atp : BitVec 64
  home : BitVec 3
  deriving DecidableEq, Repr

/-- A CSR of one of the package's cores, as the management port names it (R243). -/
structure CoreCsr where
  core : BitVec 8
  csr : BitVec 12
  deriving DecidableEq, Repr

/-- One row of the opcode table each. -/
inductive Instr
  -- the bundle header (R266)
  | oppRequest (tgt : BitVec 3)
  -- S slot: scalar integer (R319, R320, R336, R337, R345, R350, R367, R369, R370, R374)
  | nop (g : Guard)
  | add (g : Guard) (d a b : SReg) | sub (g : Guard) (d a b : SReg) | and (g : Guard) (d a b : SReg)
  | or (g : Guard) (d a b : SReg) | xor (g : Guard) (d a b : SReg) | andn (g : Guard) (d a b : SReg)
  | shl (g : Guard) (d a b : SReg) | shr (g : Guard) (d a b : SReg) | sra (g : Guard) (d a b : SReg)
  | min (g : Guard) (d a b : SReg) | minu (g : Guard) (d a b : SReg) | max (g : Guard) (d a b : SReg)
  | maxu (g : Guard) (d a b : SReg) | mul (g : Guard) (d a b : SReg) | mulh (g : Guard) (d a b : SReg)
  | mulhu (g : Guard) (d a b : SReg) | div (g : Guard) (d a b : SReg) | divu (g : Guard) (d a b : SReg)
  | clz (g : Guard) (d a : SReg) | popc (g : Guard) (d a : SReg)
  | sel (g : Guard) (d a b : SReg) (code : Guard)
  | cmpGuard (g : Guard) (n : BitVec 4) (a b : SReg) (cc : Cond)
  | cmpRegister (g : Guard) (d a b : SReg) (cc : Cond)
  | cmpi (g : Guard) (toReg : Bool) (d a : SReg) (cc : Cond) (imm : BitVec 25)
  | lea (g : Guard) (d a b : SReg) (n : BitVec 3)
  | ext (g : Guard) (d a : SReg) (pos : BitVec 6) (len : BitVec 7) (sx : Bool)
  | ins (g : Guard) (d a : SReg) (pos : BitVec 6) (len : BitVec 7)
  | addi (g : Guard) (d a : SReg) (imm : BitVec 30) | andi (g : Guard) (d a : SReg) (imm : BitVec 30)
  | ori (g : Guard) (d a : SReg) (imm : BitVec 30) | xori (g : Guard) (d a : SReg) (imm : BitVec 30)
  | shli (g : Guard) (d a : SReg) (count : BitVec 6) | shri (g : Guard) (d a : SReg) (count : BitVec 6)
  | srai (g : Guard) (d a : SReg) (count : BitVec 6)
  | movi (g : Guard) (d : SReg) (imm : BitVec 30)
  | movk (g : Guard) (d : SReg) (value : BitVec 16) (k : BitVec 2)
  -- S slot: scalar floating point (R351 to R355)
  | fadd (g : Guard) (d a b : SReg) | fsub (g : Guard) (d a b : SReg) | fmul (g : Guard) (d a b : SReg)
  | ffma (g : Guard) (d a b c : SReg) | fmin (g : Guard) (d a b : SReg) | fmax (g : Guard) (d a b : SReg)
  | fcmp (g : Guard) (toReg : Bool) (d a b : SReg) (cc : Cond)
  | fcvt (g : Guard) (d a : SReg) (dst src : EType) (nsat : Bool) (rm : RSel)
  -- S slot: memory (R364, R366, R321 to R323, R333, R132)
  | ld (g : Guard) (d base : SReg) (disp : BitVec 16) (size : Size) (sx : Bool) (ord : Order) (scope : Scope) (lat : Lat)
  | st (g : Guard) (data base : SReg) (disp : BitVec 16) (size : Size) (ord : Order) (scope : Scope)
  | ldfe (g : Guard) (d base : SReg) (disp : BitVec 16) (size : Size) (peek : Bool) (ord : Order) (scope : Scope)
      (lat : Lat)
  | stfe (g : Guard) (data base : SReg) (disp : BitVec 16) (size : Size) (ord : Order) (scope : Scope)
  | amo (g : Guard) (d a b : SReg) (op : AtomOp) (size : Size) (ord : Order) (scope : Scope) (lat : Lat)
  | amor (g : Guard) (d a b : SReg) (op : AtomOp) (size : Size) (level : BitVec 3)
  | cas (g : Guard) (d a b c : SReg) (failAcq : Bool) (size : Size) (ord : Order) (scope : Scope) (lat : Lat)
  | red (g : Guard) (a b : SReg) (op : AtomOp) (size : Size) (ord : Order) (scope : Scope)
  | fence (g : Guard) (sc : Bool) (ord : Order) (scope : Scope)
  -- S slot: control (R331, R332, R347, R348, R378, R393 to R395, R325, R358)
  | br (g : Guard) (cond : BrCond) (a : SReg) (offset : BitVec 30)
  | jmp (g : Guard) (a : SReg) (offset : BitVec 30)
  | call (g : Guard) (offset : BitVec 30)
  | callRegister (g : Guard) (a : SReg) (offset : BitVec 30)
  | ret (g : Guard)
  | bloop (g : Guard) (offset : BitVec 30)
  | exit (g : Guard) (n : BitVec 8)
  | exitLeave (g : Guard)
  | trap (g : Guard) (code : BitVec 16)
  | svc (g : Guard) (code : BitVec 16)
  | eret (g : Guard)
  | waitm (g : Guard) (data base : SReg) (disp : BitVec 16) (size : Size) (scope : Scope) (cc : Cond)
  | waitc (g : Guard) (n : BitVec 3) (a : SReg) (imm : BitVec 30)
  | sync (g : Guard)
  | arrive (g : Guard)
  | grab (g : Guard) (d base : SReg) (ord : Order) (scope : Scope) (lat : Lat)
  | yield (g : Guard)
  -- S slot: system (R341 to R344, R380, R334)
  | csrr (g : Guard) (d : SReg) (csr : BitVec 12)
  | csrrRemote (g : Guard) (d a : SReg) (csr : BitVec 12) (lat : Lat)
  | csrw (g : Guard) (a : SReg) (csr : BitVec 12)
  | csrs (g : Guard) (a : SReg) (csr : BitVec 12)
  | csrc (g : Guard) (a : SReg) (csr : BitVec 12)
  | tlbiAll (g : Guard)
  | tlbiAsid (g : Guard) (a : SReg)
  | tlbiPage (g : Guard) (a b : SReg)
  | cflush (g : Guard) (a b : SReg)
  | cinv (g : Guard) (a b : SReg) (i : Bool)
  -- S slot: handles and ports (R359 to R363, R329, R330)
  | hld (g : Guard) (h : HReg) (base : SReg) (disp : BitVec 16) (ord : Order) (scope : Scope)
  | hst (g : Guard) (h : HReg) (base : SReg) (disp : BitVec 16) (ord : Order) (scope : Scope)
  | hset (g : Guard) (h : HReg) (a : SReg) (f : HField)
  | hget (g : Guard) (d : SReg) (h : HReg) (f : HField)
  | hadvHead (g : Guard) (h : HReg) (a : SReg)
  | hadvTail (g : Guard) (h : HReg) (a : SReg)
  | hwait (g : Guard) (h : HReg)
  | bind (g : Guard) (p : PortNo) (h : HReg) (wr peek : Bool)
  | unbindPort (g : Guard) (p : PortNo)
  | unbindHandle (g : Guard) (h : HReg)
  -- S slot: matrix control (R167, R318, R324, R326, R170, R188)
  | mpset (g : Guard) (n : BitVec 3) (a : SReg)
  | acq (g : Guard) (k : BitVec 3) (a : SReg)
  | arel (g : Guard) (k : BitVec 3)
  | averRead (g : Guard) (d : SReg) (k : BitVec 3)
  | averWait (g : Guard) (k : BitVec 3) (v : BitVec 8)
  | mload (g : Guard) (a : SReg)
  | maskld (g : Guard) (a b : SReg)
  -- S slot: versions (R375, R379, R384)
  | snap (g : Guard) (d : SReg)
  | snapx (g : Guard)
  | tbegin (g : Guard) (d : SReg)
  | tcommit (g : Guard) (d : SReg)
  | tabort (g : Guard)
  | vpub (g : Guard) (h : HReg) (scope : Scope)
  | vbind (g : Guard) (hd hs : HReg) (a : SReg)
  -- S slot: taps, sequences, generator, energy (R232, R237, R215, R373, R281)
  | tapx (g : Guard) (d : SReg) (h : BitVec 4) (a b : SReg) (post : Bool)
  | tapw (g : Guard) (a : SReg)
  | sqget (g : Guard) (d a b : SReg)
  | sqnode (g : Guard) (d a b : SReg) (sealing noNode : Bool)
  | sqaccMask (g : Guard) (d a b : SReg)
  | sqaccAccept (g : Guard) (d a b : SReg)
  | sqcommit (g : Guard) (d a : SReg)
  | sqroll (g : Guard) (d a : SReg)
  | sqsetAdmit (g : Guard) (d a b : SReg)
  | sqsetPreempt (g : Guard) (d a b : SReg)
  | sqsetResume (g : Guard) (d a b : SReg)
  | sqsetRelease (g : Guard) (d a b : SReg)
  | sqsetRetire (g : Guard) (d a b : SReg)
  | sqsetPool (g : Guard) (d a b : SReg)
  | rngseed (g : Guard) (a b : SReg)
  | ecmarkRead (g : Guard) (d : SReg)
  | ecmarkMark (g : Guard) (d a : SReg)
  -- V slots (R371, R372)
  | vnop (k : VSlot) (g : Guard)
  | vadd (k : VSlot) (g : Guard) (t : VType) (d : PortNo) (a b : VOpd)
  | vsub (k : VSlot) (g : Guard) (t : VType) (d : PortNo) (a b : VOpd)
  | vmul (k : VSlot) (g : Guard) (t : VType) (d : PortNo) (a b : VOpd)
  | vfma (k : VSlot) (g : Guard) (t : VType) (d : PortNo) (a b : VOpd) (c : BitVec 5)
  | vmin (k : VSlot) (g : Guard) (t : VType) (d : PortNo) (a b : VOpd)
  | vmax (k : VSlot) (g : Guard) (t : VType) (d : PortNo) (a b : VOpd)
  | vabs (k : VSlot) (g : Guard) (t : VType) (d : PortNo) (a : VOpd)
  | vneg (k : VSlot) (g : Guard) (t : VType) (d : PortNo) (a : VOpd)
  | vexp2 (k : VSlot) (g : Guard) (t : VType) (d : PortNo) (a : VOpd)
  | vlog2 (k : VSlot) (g : Guard) (t : VType) (d : PortNo) (a : VOpd)
  | vrcp (k : VSlot) (g : Guard) (t : VType) (d : PortNo) (a : VOpd)
  | vrsq (k : VSlot) (g : Guard) (t : VType) (d : PortNo) (a : VOpd)
  | vcvt (k : VSlot) (g : Guard) (dst : VType) (d : PortNo) (a : VOpd) (rm : RSel) (src : VType)
  | vcmp (k : VSlot) (g : Guard) (t : VType) (d : PortNo) (a b : VOpd) (cc : Cond)
  | vsel (k : VSlot) (g : Guard) (t : VType) (d : PortNo) (a b : VOpd)
  | vand (k : VSlot) (g : Guard) (t : VType) (d : PortNo) (a b : VOpd)
  | vor (k : VSlot) (g : Guard) (t : VType) (d : PortNo) (a b : VOpd)
  | vxor (k : VSlot) (g : Guard) (t : VType) (d : PortNo) (a b : VOpd)
  | vshl (k : VSlot) (g : Guard) (t : VType) (d : PortNo) (a b : VOpd)
  | vshr (k : VSlot) (g : Guard) (t : VType) (d : PortNo) (a b : VOpd)
  | vrsum (k : VSlot) (g : Guard) (t : VType) (d : PortNo) (a : VOpd)
  | vrmax (k : VSlot) (g : Guard) (t : VType) (d : PortNo) (a : VOpd)
  | vscan (k : VSlot) (g : Guard) (t : VType) (d : PortNo) (a : VOpd)
  | vtopk (k : VSlot) (g : Guard) (t : VType) (d : PortNo) (a : VOpd) (km1 : BitVec 6) (idx : Bool)
  | vperm (k : VSlot) (g : Guard) (t : VType) (d : PortNo) (a b : VOpd)
  | vmov (k : VSlot) (g : Guard) (t : VType) (d : PortNo) (a : VOpd)
  | vrng (k : VSlot) (g : Guard) (t : VType) (d : PortNo)
  -- M slot (R184)
  | mnop (g : Guard)
  | mcall (g : Guard) (routine expected : BitVec 8) (region : BitVec 3) (pop bump ignv : Bool)
  -- C slots (Table 9.1, R178, R226, R261)
  | cnop (c : CSlot) (g : Guard)
  | cpy (c : CSlot) (g : Guard) (hs hd : HReg) (n : BitVec 3) (ar : Bool) (rcn : BitVec 4) (nsat cons : Bool)
  | cpyr (c : CSlot) (g : Guard) (hs hd : HReg) (n : BitVec 3) (ar : Bool) (op : AtomOp)
  | gath (c : CSlot) (g : Guard) (hs hd : HReg) (n : BitVec 3) (ar : Bool) (hx : HReg)
  | scat (c : CSlot) (g : Guard) (hs hd : HReg) (n : BitVec 3) (ar : Bool) (hx : HReg)
  | chain (c : CSlot) (g : Guard) (hs : HReg) (n : BitVec 3) (ch : BitVec 3)
  | bdrv (c : CSlot) (g : Guard) (hs : HReg) (n : BitVec 3) (mask : BitVec 8)
  | blat (c : CSlot) (g : Guard) (hd : HReg) (n : BitVec 3) (pos : BitVec 3)
  | wstr (c : CSlot) (g : Guard) (hs hd : HReg) (n : BitVec 3) (wb1 : Bool) (mask : BitVec 2)
  | kvcp (c : CSlot) (g : Guard) (hs hd : HReg) (n : BitVec 3) (ar : Bool)
  | cnta (c : CSlot) (g : Guard) (n : BitVec 3) (inc : BitVec 8)
  | logf (c : CSlot) (g : Guard) (hs hd : HReg) (n : BitVec 3) (ar keep : Bool) (km1 : BitVec 6)
  -- X slot (Table 9.5)
  | xnop (g : Guard)
  | xpose (g : Guard) (d a : PortNo) (w : BitVec 2)
  | xcvt (g : Guard) (d a : PortNo) (pair : BitVec 3) (h : Bool)
  | xexp (g : Guard) (d a : PortNo) (l : VSlot) (w : BitVec 2)
  | xpack (g : Guard) (d a : PortNo) (l : VSlot) (w : BitVec 2)
  -- steps of the core, its engines and the memory system
  | dataArrival (req : Nat)
  | resultLanding
  | trapEntry
  | mailboxWrite (k : BitVec 3) (byteMask : BitVec 8) (value : Word)
  | domainArrival (level : BitVec 3) (who : Arriver)
  | copyChunk (job chunk : Nat)
  | copyComplete (job : Nat)
  | copyfault (job : Nat)
  | cfresResume
  | cfresDiscard
  | chainRecord (ch : BitVec 3)
  | wbEntryFill (source : WbSource)
  | portFetch (p : PortNo)
  | portBeatWrite (p : PortNo)
  | busSlot (driver : BitVec 3) (last : Bool) (beat : Beat)
  | messageDelivery (outbound : Bool) (source : BitVec 3) (payload : BitVec 61)
  | rngRefill
  | callStart
  | maskLoad
  | wordStart
  | wordRetire
  | drain
  | callEnd
  | validate (slice : BitVec 7)
  | finalise (slice : BitVec 7)
  | vkill (tid : BitVec 12)
  | muckerReclaim
  | sliceEvict (line : BitVec 40)
  | pageReturn
  | pendingTokenMove (slot : BitVec 12)
  | sqevqPush
  | crossingApply
  | tevrRecord
  | steerWriteback (tap : BitVec 16)
  | tapComplete (tap : BitVec 16)
  | tapqPush
  | launchTake (hdr : Word) (queue : QueuePlace)
  | dependenceCheck (kernel : Nat)
  | placement (kernel : Nat)
  | preload (kernel : Nat)
  | preemption (kernel : Nat)
  | quantumExpiry
  | tlimOverrun
  | ageTick
  | kernelEnd (kernel : Nat) (others : Option MemberEnd)
  | ctxcmdResume
  | ctxcmdKill
  | ctxcmdRerun
  | ctxdatWrite (value : Word)
  | rglenWrite (value : BitVec 32)
  | feopClear (first : BitVec 18) (count : BitVec 20)
  | feopSet (first : BitVec 18) (count : BitVec 20)
  | ptsync
  | sealPage (page : BitVec 40)
  | scrubStep (line : BitVec 40)
  | uncorrectableError (place : ErrorPlace)
  -- steps of the power controller
  | settlingWindowEnd
  | stallrRefresh (total held split : BitVec 15)
  | splitStageChange (stage : BitVec 2)
  | droopStretch
  | thermalNotice (source : Nat) (point : BitVec 3)
  | thermalRelease (source : Nat)
  | oppflrWrite (value : BitVec 3)
  | lend (tokens : BitVec 32) (outgoing : Bool)
  | recall (tokens : BitVec 32)
  | energyReconcile (reading : EnergyReading)
  -- steps of the memory system and of the ports
  | attestReport
  | portDown (port : BitVec 4)
  | requestAccepted (req : ReqSource)
  | translationComplete (req : Nat)
  | bundleFetched (pa : BitVec 40)
  | ownedWordEviction (pa : BitVec 40)
  | hostqTraceqDrain (trace : Bool)
  | droopClear
  -- steps of the firmware, the host, the adapter and the peer ports
  | powerOn
  | diesReady (images : List (Option DieImage)) (ports : List (BitVec 4))
  | moduleReset
  | arm (value : Word)
  | intstClear (value : Word)
  | hostRegWrite (reg : HostReg) (value : Word)
  | bar2Access (write : Bool) (offset : BitVec 36) (size : Size) (value : Word)
  | attestRequest (nonce : BitVec 256)
  | recoveryImageWrite (offset : BitVec 13) (value : Word)
  | flitReceive (port : BitVec 4) (crcOk : Bool) (number : Nat) (carried : FlitLoad)
  | freezeAssert
  | freezeRelease
  | portUp (window : PeerWindow)
  | managementPortAccess (reg : CoreCsr) (value : Word)
  | tokenReconcile (held group : BitVec 32)
  | coreOfflineClear
  deriving DecidableEq, Repr

end Sys2Proof
end

