-- ==== Sys2Proof/WellFormed.lean ====
section
/-! DEFINITION. Which instructions have an encoding that decodes (R296, R298 to R303): what the constructors' types do not already
say. The engines' and the host's steps are not encoded and are always well formed. -/

namespace Sys2Proof

/-- A CSR number that some table of the manual defines (R342). -/
def definedCsr (n : BitVec 12) : Bool :=
  let n := n.toNat
  n == 0x008 || n == 0x010 || (0x018 ≤ n && n ≤ 0x027) || (0x030 ≤ n && n ≤ 0x033) || n == 0x040
    || (0x050 ≤ n && n ≤ 0x053) || (0x100 ≤ n && n ≤ 0x102) || (0x200 ≤ n && n ≤ 0x217) || (0x300 ≤ n && n ≤ 0x309)
    || n == 0x310 || (0x320 ≤ n && n ≤ 0x324) || (0x400 ≤ n && n ≤ 0x404) || (0x410 ≤ n && n ≤ 0x412)
    || (0x500 ≤ n && n ≤ 0x50B) || (0xF10 ≤ n && n ≤ 0xF12) || (0xF20 ≤ n && n ≤ 0xF23)
    || (0xF30 ≤ n && n ≤ 0xF31) || (0xF38 ≤ n && n ≤ 0xF41)

/-- The conditions of integer compares, codes 0 to 9 (R299). -/
def Cond.isInt : Cond → Bool
  | .un | .ord => false
  | _ => true

/-- The conditions of floating-point compares: codes 0 to 3, 6, 7, 10 and 11 (R299). -/
def Cond.isFp : Cond → Bool
  | .ltu | .geu | .gtu | .leu => false
  | _ => true

/-- The floating-point slot types, set F of Table 19.1. -/
def VType.isFp : VType → Bool
  | .f32 | .bf16 | .f16 => true
  | _ => false

/-- The integer slot types, set I of Table 19.1. -/
def VType.isInt (t : VType) : Bool := !t.isFp

/-- Words of 4 or 8 bytes, the sizes of atomics (R134). -/
def Size.isWord : Size → Bool
  | .w | .d => true
  | _ => false

/-- Orders of a load (Table 6.2). -/
def Order.isLoad : Order → Bool
  | .rlx | .acq => true
  | _ => false

/-- Orders of a store and of RED (Table 6.2). -/
def Order.isStore : Order → Bool
  | .rlx | .rel => true
  | _ => false

/-- The element types that FCVT accepts, ETYPE 0 to 11 (R354). -/
def EType.isScalar : EType → Bool
  | .q2 | .q4 | .q8 | .bytes => false
  | _ => true

/-- An atomic's size and operation agree (R134): words of 4 or 8 bytes, FADD on 4 only. -/
def atomOk (op : AtomOp) (size : Size) : Bool := size.isWord && !(op == .fadd && size == .d)

/-- A bit field of EXT and INS lies within 64 bits (R350). -/
def fieldOk (pos : BitVec 6) (len : BitVec 7) : Bool := len.toNat != 0 && pos.toNat + len.toNat ≤ 64

/-- FCVT's types, rounding and NSAT agree (R354). -/
def fcvtOk (dst src : EType) (nsat : Bool) : Bool := dst.isScalar && src.isScalar && (!nsat || dst == .e5m2)

/-- A vector compare's condition fits its type (R385). -/
def vcmpOk (t : VType) (cc : Cond) : Bool := if t.isFp then cc.isFp else cc.isInt

/-- The instruction has an encoding that decodes. -/
def Instr.wf : Instr → Bool
  | .cmpGuard _ _ _ _ cc => cc.isInt
  | .cmpRegister _ _ _ _ cc => cc.isInt
  | .cmpi _ k d _ cc _ => cc.isInt && (k || d.toNat < 16)
  | .ext _ _ _ pos len _ => fieldOk pos len
  | .ins _ _ _ pos len => fieldOk pos len
  | .fcmp _ k d _ _ cc => cc.isFp && (k || d.toNat < 16)
  | .fcvt _ _ _ dst src nsat _ => fcvtOk dst src nsat
  | .ld _ _ _ _ size sx ord _ _ => ord.isLoad && !(sx && size == .d)
  | .st _ _ _ _ _ ord _ => ord.isStore
  | .ldfe _ _ _ _ _ _ ord _ _ => ord.isLoad
  | .stfe _ _ _ _ _ ord _ => ord.isStore
  | .amo _ _ _ _ op size _ _ _ => atomOk op size
  | .amor _ _ _ _ op size _ => atomOk op size
  | .cas _ _ _ _ _ _ size _ _ _ => size.isWord
  | .red _ _ _ op size ord _ => atomOk op size && ord.isStore
  | .fence _ sc ord _ => ord != .rlx && (!sc || ord == .acqrel)
  | .br _ c a _ => c != .always || a == 0
  | .waitm _ _ _ _ size _ cc => size.isWord && cc.isInt
  | .grab _ _ _ ord _ _ => ord.isLoad
  | .csrr _ _ csr => definedCsr csr
  | .csrrRemote _ _ _ csr _ => definedCsr csr
  | .csrw _ _ csr => definedCsr csr
  | .csrs _ _ csr => definedCsr csr
  | .csrc _ _ csr => definedCsr csr
  | .hld _ _ _ _ ord _ => ord.isLoad
  | .hst _ _ _ _ ord _ => ord.isStore
  | .bind _ _ _ wr peek => !(wr && peek)
  | .vexp2 _ _ t _ _ => t.isFp
  | .vlog2 _ _ t _ _ => t.isFp
  | .vrcp _ _ t _ _ => t.isFp
  | .vrsq _ _ t _ _ => t.isFp
  | .vcmp _ _ t _ _ _ cc => vcmpOk t cc
  | .vshl _ _ t _ _ _ => t.isInt
  | .vshr _ _ t _ _ _ => t.isInt
  | .cpyr _ _ _ _ _ _ op => op != .swap
  | .wstr _ _ _ _ _ _ mask => mask != 0
  | .xpose _ _ _ w => w != 3
  | .xexp _ _ _ _ w => w != 3
  | .xpack _ _ _ _ w => w != 3
  | _ => true

end Sys2Proof
end

