-- ==== Sys2Proof/Decode.lean ====
section
/-! DEFINITION. Decoding and encoding of bundles (R295 to R303): each slot's bits to an instruction or the fate that Table 16.2 gives
them, and the encoder back. Within one slot a reserved field that is nonzero (ILLSLOT) is found before a value that no table
lists (ILLOP), the precedence of R245. -/

namespace Sys2Proof

/-- Why an encoding is refused (Table 16.2). -/
inductive Fate | illslot | illop
  deriving DecidableEq, Repr

/-- A field of an encoding: `len` bits from bit `lo` (R3). -/
abbrev fld {n : Nat} (w : BitVec n) (lo len : Nat) : BitVec len := w.extractLsb' lo len

/-- One bit of an encoding. -/
abbrev bit {n : Nat} (w : BitVec n) (i : Nat) : Bool := w.getLsbD i

/-- A decoded slot: ILLSLOT unless its reserved fields are zero, ILLOP where a field's value is not listed. -/
def dec (zero : Bool) (i : Option Instr) : Except Fate Instr :=
  if zero then (match i with | some i => .ok i | none => .error .illop) else .error .illslot

/-- As `dec`, with the listed-value check given by well-formedness. -/
def decWf (zero : Bool) (i : Instr) : Except Fate Instr := dec zero (if i.wf then some i else none)

def Size.ofBits : BitVec 2 → Size
  | 0 => .b | 1 => .h | 2 => .w | 3 => .d
def Size.bits : Size → BitVec 2
  | .b => 0 | .h => 1 | .w => 2 | .d => 3

def Order.ofBits : BitVec 2 → Order
  | 0 => .rlx | 1 => .acq | 2 => .rel | 3 => .acqrel
def Order.bits : Order → BitVec 2
  | .rlx => 0 | .acq => 1 | .rel => 2 | .acqrel => 3

def Cond.ofBits (c : BitVec 4) : Option Cond :=
  match c.toNat with
  | 0 => some .eq | 1 => some .ne | 2 => some .lt | 3 => some .ge | 4 => some .ltu | 5 => some .geu | 6 => some .gt
  | 7 => some .le | 8 => some .gtu | 9 => some .leu | 10 => some .un | 11 => some .ord | _ => none
def Cond.bits : Cond → BitVec 4
  | .eq => 0 | .ne => 1 | .lt => 2 | .ge => 3 | .ltu => 4 | .geu => 5 | .gt => 6 | .le => 7 | .gtu => 8 | .leu => 9
  | .un => 10 | .ord => 11

def BrCond.ofBits (c : BitVec 3) : Option BrCond :=
  match c.toNat with
  | 0 => some .always | 1 => some .eqz | 2 => some .nez | 3 => some .ltz | 4 => some .gez | 5 => some .gtz
  | 6 => some .lez | _ => none
def BrCond.bits : BrCond → BitVec 3
  | .always => 0 | .eqz => 1 | .nez => 2 | .ltz => 3 | .gez => 4 | .gtz => 5 | .lez => 6

def AtomOp.ofBits (c : BitVec 4) : Option AtomOp :=
  match c.toNat with
  | 0 => some .swap | 1 => some .add | 2 => some .and | 3 => some .or | 4 => some .xor | 5 => some .min | 6 => some .minu
  | 7 => some .max | 8 => some .maxu | 9 => some .fadd | _ => none
def AtomOp.bits : AtomOp → BitVec 4
  | .swap => 0 | .add => 1 | .and => 2 | .or => 3 | .xor => 4 | .min => 5 | .minu => 6 | .max => 7 | .maxu => 8
  | .fadd => 9

def RSel.ofBits (c : BitVec 3) : Option RSel :=
  match c.toNat with
  | 0 => some .rne | 1 => some .rtz | 2 => some .rdn | 3 => some .rup | 4 => some .srnd | 5 => some .fpcsr | _ => none
def RSel.bits : RSel → BitVec 3
  | .rne => 0 | .rtz => 1 | .rdn => 2 | .rup => 3 | .srnd => 4 | .fpcsr => 5

def EType.ofBits (c : BitVec 4) : EType :=
  match c.toNat with
  | 0 => .f32 | 1 => .bf16 | 2 => .f16 | 3 => .e4m3 | 4 => .e5m2 | 5 => .i32 | 6 => .u32 | 7 => .i16 | 8 => .u16
  | 9 => .i8 | 10 => .u8 | 11 => .i64 | 12 => .q2 | 13 => .q4 | 14 => .q8 | _ => .bytes
def EType.bits : EType → BitVec 4
  | .f32 => 0 | .bf16 => 1 | .f16 => 2 | .e4m3 => 3 | .e5m2 => 4 | .i32 => 5 | .u32 => 6 | .i16 => 7 | .u16 => 8
  | .i8 => 9 | .u8 => 10 | .i64 => 11 | .q2 => 12 | .q4 => 13 | .q8 => 14 | .bytes => 15

def VType.ofBits (c : BitVec 3) : VType :=
  match c.toNat with
  | 0 => .f32 | 1 => .bf16 | 2 => .f16 | 3 => .i32 | 4 => .u32 | 5 => .i16 | 6 => .i8 | _ => .u8
def VType.bits : VType → BitVec 3
  | .f32 => 0 | .bf16 => 1 | .f16 => 2 | .i32 => 3 | .u32 => 4 | .i16 => 5 | .i8 => 6 | .u8 => 7

def HField.ofBits (c : BitVec 8) : Option HField :=
  match c.toNat with
  | 0 => some .base | 1 => some .kind | 2 => some .etype | 3 => some .flags | 4 => some .dim0 | 5 => some .dim1
  | 6 => some .dim2 | 7 => some .stride1 | 8 => some .stride2 | 9 => some .slotsz | 10 => some .nslot | 11 => some .head
  | 12 => some .tail | 13 => some .filled | 14 => some .bufver | 15 => some .readers | 16 => some .word0
  | 17 => some .word1 | 18 => some .word2 | 19 => some .word3 | _ => none
def HField.bits : HField → BitVec 8
  | .base => 0 | .kind => 1 | .etype => 2 | .flags => 3 | .dim0 => 4 | .dim1 => 5 | .dim2 => 6 | .stride1 => 7
  | .stride2 => 8 | .slotsz => 9 | .nslot => 10 | .head => 11 | .tail => 12 | .filled => 13 | .bufver => 14
  | .readers => 15 | .word0 => 16 | .word1 => 17 | .word2 => 18 | .word3 => 19

def VSlot.ofBit (b : Bool) : VSlot := if b then .v1 else .v0
def VSlot.bit : VSlot → Bool
  | .v0 => false | .v1 => true

/-! ## The S slot (Tables 16.3 and 16.4) -/

section SFields
variable (w : BitVec 56)
/-- The guard of an S slot, [55:50]. -/
abbrev sG : BitVec 6 := fld w 50 6
/-- d, data or port number, [41:36]. -/
abbrev sD : BitVec 6 := fld w 36 6
/-- a or base, [35:30]. -/
abbrev sA : BitVec 6 := fld w 30 6
/-- b, [29:24]. -/
abbrev sB : BitVec 6 := fld w 24 6
/-- func of format SR, [23:16]. -/
abbrev sFunc : BitVec 8 := fld w 16 8
/-- imm30 of format SI, and the offset of format SB, [29:0]. -/
abbrev sImm : BitVec 30 := fld w 0 30
/-- disp16 of format SL, [29:14]. -/
abbrev sDisp : BitVec 16 := fld w 14 16
/-- size of formats SL and SA, [13:12]. -/
abbrev sSize : Size := Size.ofBits (fld w 12 2)
/-- order of formats SL and SA, [10:9]. -/
abbrev sOrd : Order := Order.ofBits (fld w 9 2)
/-- scope, [8:6]. -/
abbrev sScope : BitVec 3 := fld w 6 3
/-- lat, [5:0]. -/
abbrev sLat : BitVec 6 := fld w 0 6
/-- hA of format SH, [29:25]. -/
abbrev sHA : BitVec 5 := fld w 25 5
/-- hB of format SH, [24:20]. -/
abbrev sHB : BitVec 5 := fld w 20 5
/-- fn of format SH, [19:12]. -/
abbrev sFn : BitVec 8 := fld w 12 8
end SFields

/-- Format SR with d, a and b named and func 0. -/
def decDAB (w : BitVec 56) (k : BitVec 6 → BitVec 6 → BitVec 6 → BitVec 6 → Instr) : Except Fate Instr :=
  dec (fld w 0 24 == 0) (some (k (sG w) (sD w) (sA w) (sB w)))

/-- Format SR with d and a named. -/
def decDA (w : BitVec 56) (k : BitVec 6 → BitVec 6 → BitVec 6 → Instr) : Except Fate Instr :=
  dec (fld w 0 30 == 0) (some (k (sG w) (sD w) (sA w)))

/-- Format SR with a and b named. -/
def decAB (w : BitVec 56) (k : BitVec 6 → BitVec 6 → BitVec 6 → Instr) : Except Fate Instr :=
  dec (fld w 0 24 == 0 && sD w == 0) (some (k (sG w) (sA w) (sB w)))

/-- Format SR with d named. -/
def decD (w : BitVec 56) (k : BitVec 6 → BitVec 6 → Instr) : Except Fate Instr :=
  dec (fld w 0 36 == 0) (some (k (sG w) (sD w)))

/-- Format SR with a named. -/
def decA (w : BitVec 56) (k : BitVec 6 → BitVec 6 → Instr) : Except Fate Instr :=
  dec (fld w 0 30 == 0 && sD w == 0) (some (k (sG w) (sA w)))

/-- [41:0] all 0. -/
def decBare (w : BitVec 56) (k : BitVec 6 → Instr) : Except Fate Instr :=
  dec (fld w 0 42 == 0) (some (k (sG w)))

/-- Opcodes 0x00 to 0x0F. -/
def decodeS0 (w : BitVec 56) : Except Fate Instr :=
  match (fld w 42 4 : BitVec 4) with
  | 0 => decBare w .nop | 1 => decDAB w .add | 2 => decDAB w .sub | 3 => decDAB w .mul | 4 => decDAB w .mulh
  | 5 => decDAB w .mulhu | 6 => decDAB w .div | 7 => decDAB w .divu | 8 => decDAB w .and | 9 => decDAB w .or
  | 10 => decDAB w .xor | 11 => decDAB w .andn | 12 => decDAB w .shl | 13 => decDAB w .shr | 14 => decDAB w .sra
  | _ => decDAB w .min

/-- CMP and FCMP (Table 17.6). -/
def decCmp (w : BitVec 56) (k : Bool → BitVec 6 → Cond → Instr) : Except Fate Instr :=
  let toReg := bit w 20
  dec (fld w 0 16 == 0 && fld w 21 3 == 0 && (toReg || fld w 40 2 == 0)) do
    let cc ← Cond.ofBits (fld w 16 4)
    let i := k toReg (sD w) cc
    if i.wf then some i else none

/-- Opcodes 0x10 to 0x1F. -/
def decodeS1 (w : BitVec 56) : Except Fate Instr :=
  match (fld w 42 4 : BitVec 4) with
  | 0 => decDAB w .minu | 1 => decDAB w .max | 2 => decDAB w .maxu | 3 => decDA w .clz | 4 => decDA w .popc
  | 5 => dec (fld w 0 16 == 0 && fld w 22 2 == 0) (some (.sel (sG w) (sD w) (sA w) (sB w) (fld w 16 6)))
  | 6 => decCmp w fun r d cc =>
      if r then .cmpRegister (sG w) d (sA w) (sB w) cc else .cmpGuard (sG w) (fld d 0 4) (sA w) (sB w) cc
  | 7 => dec (fld w 0 16 == 0 && fld w 19 5 == 0) (some (.lea (sG w) (sD w) (sA w) (sB w) (fld w 16 3)))
  | 8 => decWf (fld w 14 16 == 0) (.ext (sG w) (sD w) (sA w) (fld w 0 6) (fld w 6 7) (bit w 13))
  | 9 => decWf (fld w 13 17 == 0) (.ins (sG w) (sD w) (sA w) (fld w 0 6) (fld w 6 7))
  | _ => .error .illop

/-- Format SI with d, a and imm30 named. -/
def decDAI (w : BitVec 56) (k : BitVec 6 → BitVec 6 → BitVec 6 → BitVec 30 → Instr) : Except Fate Instr :=
  .ok (k (sG w) (sD w) (sA w) (sImm w))

/-- Format SI with a shift count in imm[5:0]. -/
def decShift (w : BitVec 56) (k : BitVec 6 → BitVec 6 → BitVec 6 → BitVec 6 → Instr) : Except Fate Instr :=
  dec (fld w 6 24 == 0) (some (k (sG w) (sD w) (sA w) (fld w 0 6)))

/-- Opcodes 0x20 to 0x2F. -/
def decodeS2 (w : BitVec 56) : Except Fate Instr :=
  match (fld w 42 4 : BitVec 4) with
  | 0 => decDAI w .addi | 1 => decDAI w .andi | 2 => decDAI w .ori | 3 => decDAI w .xori
  | 4 => decShift w .shli | 5 => decShift w .shri | 6 => decShift w .srai
  | 7 => dec (bit w 25 || fld w 40 2 == 0) do
      let cc ← Cond.ofBits (fld w 26 4)
      let i := Instr.cmpi (sG w) (bit w 25) (sD w) (sA w) cc (fld w 0 25)
      if i.wf then some i else none
  | 8 => dec (sA w == 0) (some (.movi (sG w) (sD w) (sImm w)))
  | 9 => dec (sA w == 0 && fld w 18 12 == 0) (some (.movk (sG w) (sD w) (fld w 0 16) (fld w 16 2)))
  | _ => .error .illop

/-- Opcodes 0x30 to 0x3F. -/
def decodeS3 (w : BitVec 56) : Except Fate Instr :=
  match (fld w 42 4 : BitVec 4) with
  | 0 => decDAB w .fadd | 1 => decDAB w .fsub | 2 => decDAB w .fmul
  | 3 => dec (fld w 0 16 == 0 && fld w 22 2 == 0) (some (.ffma (sG w) (sD w) (sA w) (sB w) (fld w 16 6)))
  | 4 => decDAB w .fmin | 5 => decDAB w .fmax
  | 6 => decCmp w fun r d cc => .fcmp (sG w) r d (sA w) (sB w) cc
  | 7 => dec (fld w 0 16 == 0 && fld w 28 2 == 0) do
      let rm ← RSel.ofBits (fld w 16 3)
      let i := Instr.fcvt (sG w) (sD w) (sA w) (EType.ofBits (fld w 24 4)) (EType.ofBits (fld w 20 4)) (bit w 19) rm
      if i.wf then some i else none
  | _ => .error .illop

/-- Opcodes 0x40 to 0x4F. -/
def decodeS4 (w : BitVec 56) : Except Fate Instr :=
  match (fld w 42 4 : BitVec 4) with
  | 0 => decWf true (.ld (sG w) (sD w) (sA w) (sDisp w) (sSize w) (bit w 11) (sOrd w) (sScope w) (sLat w))
  | 1 => decWf (!bit w 11 && sLat w == 0) (.st (sG w) (sD w) (sA w) (sDisp w) (sSize w) (sOrd w) (sScope w))
  | 2 => decWf true (.ldfe (sG w) (sD w) (sA w) (sDisp w) (sSize w) (bit w 11) (sOrd w) (sScope w) (sLat w))
  | 3 => decWf (!bit w 11 && sLat w == 0) (.stfe (sG w) (sD w) (sA w) (sDisp w) (sSize w) (sOrd w) (sScope w))
  | 4 => dec (fld w 22 2 == 0 && fld w 14 4 == 0 && !bit w 11) do
      let op ← AtomOp.ofBits (fld w 18 4)
      let i := Instr.amo (sG w) (sD w) (sA w) (sB w) op (sSize w) (sOrd w) (sScope w) (sLat w)
      if i.wf then some i else none
  | 5 => dec (fld w 22 2 == 0 && fld w 14 4 == 0 && !bit w 11 && sLat w == 0) do
      let op ← AtomOp.ofBits (fld w 18 4)
      let i := Instr.amor (sG w) (sD w) (sA w) (sB w) op (sSize w) (sScope w)
      if i.wf && sOrd w == .rel then some i else none
  | 6 => decWf (fld w 14 3 == 0 && !bit w 11)
      (.cas (sG w) (sD w) (sA w) (sB w) (fld w 18 6) (bit w 17) (sSize w) (sOrd w) (sScope w) (sLat w))
  | 7 => dec (fld w 22 2 == 0 && fld w 14 4 == 0 && !bit w 11 && sLat w == 0 && sD w == 0) do
      let op ← AtomOp.ofBits (fld w 18 4)
      let i := Instr.red (sG w) (sA w) (sB w) op (sSize w) (sOrd w) (sScope w)
      if i.wf then some i else none
  | 8 => decWf (fld w 12 30 == 0 && sLat w == 0) (.fence (sG w) (bit w 11) (sOrd w) (sScope w))
  | _ => .error .illop

/-- Opcodes 0x50 to 0x5F. -/
def decodeS5 (w : BitVec 56) : Except Fate Instr :=
  match (fld w 42 4 : BitVec 4) with
  | 0 => dec (fld w 36 3 == 0 && (fld w 39 3 != (0 : BitVec 3) || sA w == 0)) do
      let c ← BrCond.ofBits (fld w 39 3)
      some (.br (sG w) c (sA w) (sImm w))
  | 1 => dec (sD w == 0) (some (.jmp (sG w) (sA w) (sImm w)))
  | 2 => dec (fld w 37 5 == 0 && (bit w 36 || sA w == 0))
      (some (if bit w 36 then .callRegister (sG w) (sA w) (sImm w) else .call (sG w) (sImm w)))
  | 3 => decBare w .ret
  | 4 => dec (fld w 30 12 == 0) (some (.bloop (sG w) (sImm w)))
  | 5 => dec (fld w 30 12 == 0 && fld w 9 21 == 0)
      (if bit w 8 then (if fld w 0 8 == (0 : BitVec 8) then some (.exitLeave (sG w)) else none)
       else some (.exit (sG w) (fld w 0 8)))
  | 6 => dec (fld w 16 26 == 0) (some (.trap (sG w) (fld w 0 16)))
  | 7 => dec (fld w 16 26 == 0) (some (.svc (sG w) (fld w 0 16)))
  | 8 => decBare w .eret
  | 9 => dec (!bit w 11 && fld w 4 2 == 0) do
      let cc ← Cond.ofBits (fld w 0 4)
      let i := Instr.waitm (sG w) (sD w) (sA w) (sDisp w) (sSize w) (sScope w) cc
      if i.wf && sOrd w == .acq then some i else none
  | 10 => dec (fld w 39 3 == 0) (some (.waitc (sG w) (fld w 36 3) (sA w) (sImm w)))
  | 11 => decBare w .sync
  | 12 => decBare w .arrive
  | 13 => decWf (fld w 11 19 == 0) (.grab (sG w) (sD w) (sA w) (sOrd w) (sScope w) (sLat w))
  | 14 => decBare w .yield
  | _ => .error .illop

/-- Opcodes 0x60 to 0x6F. -/
def decodeS6 (w : BitVec 56) : Except Fate Instr :=
  match (fld w 42 4 : BitVec 4) with
  | 0 => if bit w 17 then decWf (fld w 6 11 == 0) (.csrrRemote (sG w) (sD w) (sA w) (fld w 18 12) (sLat w))
         else decWf (fld w 0 18 == 0 && sA w == 0) (.csrr (sG w) (sD w) (fld w 18 12))
  | 1 => decWf (fld w 0 18 == 0 && sD w == 0) (.csrw (sG w) (sA w) (fld w 18 12))
  | 2 => decWf (fld w 0 18 == 0 && sD w == 0) (.csrs (sG w) (sA w) (fld w 18 12))
  | 3 => decWf (fld w 0 18 == 0 && sD w == 0) (.csrc (sG w) (sA w) (fld w 18 12))
  | 4 => match (fld w 16 2 : BitVec 2) with
    | 0 => dec (fld w 0 16 == 0 && fld w 18 24 == 0) (some (.tlbiAll (sG w)))
    | 1 => dec (fld w 0 16 == 0 && fld w 18 12 == 0 && sD w == 0) (some (.tlbiAsid (sG w) (sA w)))
    | 2 => dec (fld w 0 16 == 0 && fld w 18 6 == 0 && sD w == 0) (some (.tlbiPage (sG w) (sA w) (sB w)))
    | 3 => dec (fld w 0 16 == 0 && fld w 18 6 == 0 && sD w == 0) none
  | 5 => dec (fld w 0 24 == 0 && sD w == 0) (some (.cflush (sG w) (sA w) (sB w)))
  | 6 => dec (fld w 0 16 == 0 && fld w 17 7 == 0 && sD w == 0) (some (.cinv (sG w) (sA w) (sB w) (bit w 16)))
  | _ => .error .illop

/-- Format SH's constant fields: [11:9], [5:0], and scope where the instruction names none. -/
def shZero (w : BitVec 56) : Bool := fld w 0 12 == 0

/-- Opcodes 0x70 to 0x7F. -/
def decodeS7 (w : BitVec 56) : Except Fate Instr :=
  match (fld w 42 4 : BitVec 4) with
  | 0 => decWf (!bit w 41 && fld w 11 3 == 0 && sLat w == 0)
      (.hld (sG w) (fld w 36 5) (sA w) (sDisp w) (sOrd w) (sScope w))
  | 1 => decWf (!bit w 41 && fld w 11 3 == 0 && sLat w == 0)
      (.hst (sG w) (fld w 36 5) (sA w) (sDisp w) (sOrd w) (sScope w))
  | 2 => dec (shZero w && sD w == 0 && sHB w == 0) ((HField.ofBits (sFn w)).map (.hset (sG w) (sHA w) (sA w) ·))
  | 3 => dec (shZero w && sA w == 0 && sHB w == 0) ((HField.ofBits (sFn w)).map (.hget (sG w) (sD w) (sHA w) ·))
  | 4 => dec (shZero w && sD w == 0 && sHB w == 0 && fld w 13 7 == 0)
      (some (if bit w 12 then .hadvTail (sG w) (sHA w) (sA w) else .hadvHead (sG w) (sHA w) (sA w)))
  | 5 => dec (shZero w && sD w == 0 && sA w == 0 && sHB w == 0 && sFn w == 0) (some (.hwait (sG w) (sHA w)))
  | 6 => decWf (shZero w && !bit w 41 && sA w == 0 && sHB w == 0 && fld w 14 6 == 0)
      (.bind (sG w) (fld w 36 5) (sHA w) (bit w 12) (bit w 13))
  | 7 => if bit w 12
      then dec (shZero w && sD w == 0 && sA w == 0 && sHB w == 0 && fld w 13 7 == 0) (some (.unbindHandle (sG w) (sHA w)))
      else dec (shZero w && !bit w 41 && sA w == 0 && sHA w == 0 && sHB w == 0 && fld w 13 7 == 0)
        (some (.unbindPort (sG w) (fld w 36 5)))
  | 8 => dec (fld w 39 3 == 0 && fld w 0 30 == 0) (some (.mpset (sG w) (fld w 36 3) (sA w)))
  | 9 => dec (fld w 39 3 == 0 && fld w 0 30 == 0) (some (.acq (sG w) (fld w 36 3) (sA w)))
  | 10 => dec (fld w 39 3 == 0 && fld w 0 36 == 0) (some (.arel (sG w) (fld w 36 3)))
  | 11 => if bit w 3
      then dec (sD w == 0 && sA w == 0 && fld w 12 18 == 0) (some (.averWait (sG w) (fld w 0 3) (fld w 4 8)))
      else dec (sA w == 0 && fld w 4 26 == 0) (some (.averRead (sG w) (sD w) (fld w 0 3)))
  | 12 => decA w .mload
  | 13 => decAB w .maskld
  | _ => .error .illop

/-- Opcodes 0x80 to 0x8F. -/
def decodeS8 (w : BitVec 56) : Except Fate Instr :=
  match (fld w 42 4 : BitVec 4) with
  | 0 => decD w .snap | 1 => decBare w .snapx | 2 => decD w .tbegin | 3 => decD w .tcommit | 4 => decBare w .tabort
  | 5 => dec (sD w == 0 && sA w == 0 && sHB w == 0 && sFn w == 0 && fld w 9 3 == 0 && sLat w == 0)
      (some (.vpub (sG w) (sHA w) (sScope w)))
  | 6 => dec (shZero w && sD w == 0 && sFn w == 0) (some (.vbind (sG w) (sHA w) (sHB w) (sA w)))
  | 8 => dec (fld w 0 16 == 0 && fld w 21 3 == 0)
      (some (.tapx (sG w) (sD w) (fld w 16 4) (sA w) (sB w) (bit w 20)))
  | 9 => decA w .tapw
  | _ => .error .illop

/-- Opcodes 0x90 to 0x9F. -/
def decodeS9 (w : BitVec 56) : Except Fate Instr :=
  match (fld w 42 4 : BitVec 4) with
  | 0 => decDAB w .sqget
  | 1 => dec (fld w 0 16 == 0 && fld w 18 6 == 0)
      (some (.sqnode (sG w) (sD w) (sA w) (sB w) (bit w 16) (bit w 17)))
  | 2 => dec (fld w 0 16 == 0 && fld w 17 7 == 0)
      (some (if bit w 16 then .sqaccAccept (sG w) (sD w) (sA w) (sB w) else .sqaccMask (sG w) (sD w) (sA w) (sB w)))
  | 3 => decDA w .sqcommit
  | 4 => decDA w .sqroll
  | 5 => dec (fld w 0 16 == 0 && fld w 19 5 == 0)
      (match (fld w 16 3 : BitVec 3) with
       | 0 => some (.sqsetAdmit (sG w) (sD w) (sA w) (sB w)) | 1 => some (.sqsetPreempt (sG w) (sD w) (sA w) (sB w))
       | 2 => some (.sqsetResume (sG w) (sD w) (sA w) (sB w)) | 3 => some (.sqsetRelease (sG w) (sD w) (sA w) (sB w))
       | 4 => some (.sqsetRetire (sG w) (sD w) (sA w) (sB w)) | 5 => some (.sqsetPool (sG w) (sD w) (sA w) (sB w))
       | _ => none)
  | 8 => decAB w .rngseed
  | 9 => match (sFunc w : BitVec 8) with
    | 0 => decD w .ecmarkRead
    | 1 => dec (fld w 0 16 == 0 && sB w == 0) (some (.ecmarkMark (sG w) (sD w) (sA w)))
    | _ => dec (fld w 0 16 == 0 && sB w == 0) none
  | _ => .error .illop

/-- The S slot (Table 16.4). -/
def decodeS (w : BitVec 56) : Except Fate Instr :=
  match (fld w 46 4 : BitVec 4) with
  | 0 => decodeS0 w | 1 => decodeS1 w | 2 => decodeS2 w | 3 => decodeS3 w | 4 => decodeS4 w | 5 => decodeS5 w
  | 6 => decodeS6 w | 7 => decodeS7 w | 8 => decodeS8 w | 9 => decodeS9 w | _ => .error .illop

/-! ## The V slots (Tables 16.6, 16.7 and 19.1) -/

section VFields
variable (w : BitVec 36)
abbrev vG : BitVec 6 := fld w 30 6
abbrev vT : VType := VType.ofBits (fld w 22 3)
abbrev vD : BitVec 5 := fld w 17 5
abbrev vA : BitVec 6 := fld w 11 6
abbrev vB : BitVec 6 := fld w 5 6
abbrev vC : BitVec 5 := fld w 0 5
end VFields

/-- A vector operation that reads a and b. -/
def decVAB (k : VSlot) (w : BitVec 36)
    (f : VSlot → Guard → VType → PortNo → VOpd → VOpd → Instr) : Except Fate Instr :=
  decWf (vC w == 0) (f k (vG w) (vT w) (vD w) (vA w) (vB w))

/-- A vector operation that reads a. -/
def decVA (k : VSlot) (w : BitVec 36) (f : VSlot → Guard → VType → PortNo → VOpd → Instr) : Except Fate Instr :=
  decWf (fld w 0 11 == 0) (f k (vG w) (vT w) (vD w) (vA w))

/-- Slot V0 or V1 (Table 16.7). -/
def decodeV (k : VSlot) (w : BitVec 36) : Except Fate Instr :=
  match (fld w 25 5 : BitVec 5) with
  | 0 => dec (fld w 0 25 == 0) (some (.vnop k (vG w)))
  | 1 => decVAB k w .vadd | 2 => decVAB k w .vsub | 3 => decVAB k w .vmul
  | 4 => .ok (.vfma k (vG w) (vT w) (vD w) (vA w) (vB w) (vC w))
  | 5 => decVAB k w .vmin | 6 => decVAB k w .vmax
  | 7 => decVA k w .vabs | 8 => decVA k w .vneg | 9 => decVA k w .vexp2 | 10 => decVA k w .vlog2
  | 11 => decVA k w .vrcp | 12 => decVA k w .vrsq
  | 13 => dec (fld w 8 3 == 0) do
      let rm ← RSel.ofBits (fld w 5 3)
      if vC w < (8 : BitVec 5) then some (.vcvt k (vG w) (vT w) (vD w) (vA w) rm (VType.ofBits (fld w 0 3))) else none
  | 14 => dec true do
      let cc ← if bit w 4 then none else Cond.ofBits (fld w 0 4)
      let i := Instr.vcmp k (vG w) (vT w) (vD w) (vA w) (vB w) cc
      if i.wf then some i else none
  | 15 => decVAB k w .vsel | 16 => decVAB k w .vand | 17 => decVAB k w .vor | 18 => decVAB k w .vxor
  | 19 => decVAB k w .vshl | 20 => decVAB k w .vshr
  | 21 => decVA k w .vrsum | 22 => decVA k w .vrmax | 23 => decVA k w .vscan
  | 24 => dec (fld w 1 4 == 0) (some (.vtopk k (vG w) (vT w) (vD w) (vA w) (vB w) (bit w 0)))
  | 25 => decVAB k w .vperm
  | 26 => decVA k w .vmov
  | 27 => dec (fld w 0 17 == 0) (some (.vrng k (vG w) (vT w) (vD w)))
  | _ => .error .illop

/-! ## The M, C and X slots and the header -/

/-- The M slot (Table 8.6). -/
def decodeM (w : BitVec 32) : Except Fate Instr :=
  match (fld w 24 2 : BitVec 2) with
  | 0 => dec (fld w 0 24 == 0) (some (.mnop (fld w 26 6)))
  | 1 => dec (fld w 3 2 == 0)
      (some (.mcall (fld w 26 6) (fld w 16 8) (fld w 8 8) (fld w 5 3) (bit w 2) (bit w 1) (bit w 0)))
  | _ => .error .illop

section CFields
variable (w : BitVec 32)
abbrev cG : BitVec 6 := fld w 26 6
abbrev cS : BitVec 5 := fld w 16 5
abbrev cD : BitVec 5 := fld w 11 5
abbrev cN : BitVec 3 := fld w 8 3
end CFields

/-- Slot C0 or C1 (Tables 9.1 and 16.8). -/
def decodeC (c : CSlot) (w : BitVec 32) : Except Fate Instr :=
  match (fld w 21 5 : BitVec 5) with
  | 0 => dec (fld w 0 21 == 0) (some (.cnop c (cG w)))
  | 1 => dec (!bit w 0) (some (.cpy c (cG w) (cS w) (cD w) (cN w) (bit w 7) (fld w 3 4) (bit w 2) (bit w 1)))
  | 2 => dec (fld w 4 3 == 0) do
      let op ← AtomOp.ofBits (fld w 0 4)
      let i := Instr.cpyr c (cG w) (cS w) (cD w) (cN w) (bit w 7) op
      if i.wf then some i else none
  | 3 => dec (fld w 5 2 == 0) (some (.gath c (cG w) (cS w) (cD w) (cN w) (bit w 7) (fld w 0 5)))
  | 4 => dec (fld w 5 2 == 0) (some (.scat c (cG w) (cS w) (cD w) (cN w) (bit w 7) (fld w 0 5)))
  | 5 => dec (cD w == 0 && fld w 3 5 == 0) (some (.chain c (cG w) (cS w) (cN w) (fld w 0 3)))
  | 6 => dec (cD w == 0) (some (.bdrv c (cG w) (cS w) (cN w) (fld w 0 8)))
  | 7 => dec (cS w == 0 && fld w 3 5 == 0) (some (.blat c (cG w) (cD w) (cN w) (fld w 0 3)))
  | 8 => decWf (fld w 3 5 == 0) (.wstr c (cG w) (cS w) (cD w) (cN w) (bit w 2) (fld w 0 2))
  | 9 => dec (fld w 0 7 == 0) (some (.kvcp c (cG w) (cS w) (cD w) (cN w) (bit w 7)))
  | 10 => dec (fld w 11 10 == 0) (some (.cnta c (cG w) (cN w) (fld w 0 8)))
  | 11 => dec true (some (.logf c (cG w) (cS w) (cD w) (cN w) (bit w 7) (bit w 6) (fld w 0 6)))
  | _ => .error .illop

/-- The X slot (Table 9.5). -/
def decodeX (w : BitVec 24) : Except Fate Instr :=
  let g : BitVec 6 := fld w 18 6
  let d : BitVec 5 := fld w 9 5
  let a : BitVec 5 := fld w 4 5
  match (fld w 14 4 : BitVec 4) with
  | 0 => dec (fld w 0 14 == 0) (some (.xnop g))
  | 1 => decWf (fld w 2 2 == 0) (.xpose g d a (fld w 0 2))
  | 2 => .ok (.xcvt g d a (fld w 0 3) (bit w 3))
  | 3 => decWf (!bit w 2) (.xexp g d a (VSlot.ofBit (bit w 3)) (fld w 0 2))
  | 4 => decWf (!bit w 2) (.xpack g d a (VSlot.ofBit (bit w 3)) (fld w 0 2))
  | _ => .error .illop

/-- The operating-point header (R266): nothing, a request, or ILLSLOT. -/
def decodeHeader (w : BitVec 8) : Except Fate (Option Instr) :=
  if fld w 0 4 != (0 : BitVec 4) then .error .illslot
  else if bit w 7 then .ok (some (.oppRequest (fld w 4 3)))
  else if fld w 4 3 == (0 : BitVec 3) then .ok none else .error .illslot

/-! ## The bundle (Table 16.1) -/

/-- The bits of a bundle's header and slots. -/
structure Slots where
  header : BitVec 8
  s : BitVec 56
  v0 : BitVec 36
  v1 : BitVec 36
  m : BitVec 32
  c0 : BitVec 32
  c1 : BitVec 32
  x : BitVec 24
  deriving DecidableEq, Repr

def Slots.ofBundle (w : BundleBits) : Slots :=
  { header := fld w 248 8, s := fld w 192 56, v0 := fld w 156 36, v1 := fld w 120 36, m := fld w 88 32, c0 := fld w 56 32,
    c1 := fld w 24 32, x := fld w 0 24 }

def Slots.bundle (p : Slots) : BundleBits :=
  (p.header ++ p.s ++ p.v0 ++ p.v1 ++ p.m ++ p.c0 ++ p.c1 ++ p.x).cast (by decide)

/-- A slot's bits right-aligned, and its number in TCAUSE.SLOT (Table 12.2). -/
structure SlotFate where
  slot : BitVec 3
  bits : BitVec 64
  fate : Fate
  deriving DecidableEq, Repr

/-- A decoded bundle: the header's request, and the seven slots in the order S, V0, V1, M, C0, C1, X. -/
structure Bundle where
  request : Option Instr
  slots : List Instr
  deriving DecidableEq, Repr

def slotNo (n : Nat) (bits : BitVec 64) : Except Fate Instr → Except SlotFate Instr
  | .ok i => .ok i
  | .error f => .error ⟨BitVec.ofNat 3 n, bits, f⟩

/-- The slots of a bundle, each decoded. -/
def Slots.decoded (p : Slots) : List (Except SlotFate Instr) :=
  [slotNo 0 (p.s.setWidth 64) (decodeS p.s), slotNo 1 (p.v0.setWidth 64) (decodeV .v0 p.v0),
   slotNo 2 (p.v1.setWidth 64) (decodeV .v1 p.v1), slotNo 3 (p.m.setWidth 64) (decodeM p.m),
   slotNo 4 (p.c0.setWidth 64) (decodeC .c0 p.c0), slotNo 5 (p.c1.setWidth 64) (decodeC .c1 p.c1),
   slotNo 6 (p.x.setWidth 64) (decodeX p.x)]

/-- The first slot with fate `f`. -/
def firstFate (f : Fate) : List (Except SlotFate Instr) → Option SlotFate
  | [] => none
  | .error x :: r => if x.fate = f then some x else firstFate f r
  | .ok _ :: r => firstFate f r

/-- The slots that decoded. -/
def okSlots : List (Except SlotFate Instr) → List Instr
  | [] => []
  | .ok i :: r => i :: okSlots r
  | .error _ :: r => okSlots r

/-- Decoding a bundle: the fate that R245 ranks first, or the bundle's instructions. -/
def decodeBundle (w : BundleBits) : Except SlotFate Bundle :=
  let p := Slots.ofBundle w
  match decodeHeader p.header with
  | .error _ => .error ⟨7, p.header.setWidth 64, .illslot⟩
  | .ok req =>
    let ds := p.decoded
    match firstFate .illslot ds with
    | some f => .error f
    | none =>
      match firstFate .illop ds with
      | some f => .error f
      | none => .ok ⟨req, okSlots ds⟩

/-! ## The encoder -/

/-- The word of one slot. -/
inductive Enc
  | header (w : BitVec 8) | s (w : BitVec 56) | v (k : VSlot) (w : BitVec 36) | m (w : BitVec 32)
  | c (k : CSlot) (w : BitVec 32) | x (w : BitVec 24)
  deriving DecidableEq, Repr

/-- Decoding one slot's word. -/
def Enc.decode : Enc → Except Fate Instr
  | .header w => match decodeHeader w with | .ok (some i) => .ok i | .ok none => .error .illop | .error f => .error f
  | .s w => decodeS w
  | .v k w => decodeV k w
  | .m w => decodeM w
  | .c k w => decodeC k w
  | .x w => decodeX w

/-- Format SR (Table 16.3). -/
def encSR (g : BitVec 6) (op : BitVec 8) (d a b : BitVec 6) (func : BitVec 8) : Enc :=
  .s ((g ++ op ++ d ++ a ++ b ++ func ++ 0#16).cast (by decide))
/-- Format SI. -/
def encSI (g : BitVec 6) (op : BitVec 8) (d a : BitVec 6) (imm : BitVec 30) : Enc :=
  .s ((g ++ op ++ d ++ a ++ imm).cast (by decide))
/-- Format SL; format SB has the offset where SL has disp16 and below, and is written as SI. -/
def encSL (g : BitVec 6) (op : BitVec 8) (d base : BitVec 6) (disp : BitVec 16) (size : BitVec 2) (sign : Bool)
    (ord : BitVec 2) (scope : BitVec 3) (lat : BitVec 6) : Enc :=
  .s ((g ++ op ++ d ++ base ++ disp ++ size ++ BitVec.ofBool sign ++ ord ++ scope ++ lat).cast (by decide))
/-- Format SA. -/
def encSA (g : BitVec 6) (op : BitVec 8) (d a b c : BitVec 6) (fo : Bool) (size ord : BitVec 2) (scope : BitVec 3)
    (lat : BitVec 6) : Enc :=
  .s ((g ++ op ++ d ++ a ++ b ++ c ++ BitVec.ofBool fo ++ 0#3 ++ size ++ 0#1 ++ ord ++ scope ++ lat).cast (by decide))
/-- Format SX. -/
def encSX (g : BitVec 6) (op : BitVec 8) (d a : BitVec 6) (csr : BitVec 12) (imm : BitVec 18) : Enc :=
  .s ((g ++ op ++ d ++ a ++ csr ++ imm).cast (by decide))
/-- Format SH. -/
def encSH (g : BitVec 6) (op : BitVec 8) (d a : BitVec 6) (hA hB : BitVec 5) (fn : BitVec 8) (scope : BitVec 3) : Enc :=
  .s ((g ++ op ++ d ++ a ++ hA ++ hB ++ fn ++ 0#3 ++ scope ++ 0#6).cast (by decide))
/-- A V slot (Table 16.6). -/
def encV (k : VSlot) (g : BitVec 6) (op : BitVec 5) (t : VType) (d : BitVec 5) (a b : BitVec 6) (c : BitVec 5) : Enc :=
  .v k ((g ++ op ++ t.bits ++ d ++ a ++ b ++ c).cast (by decide))
/-- A C slot (Table 16.8). -/
def encC (k : CSlot) (g : BitVec 6) (op s d : BitVec 5) (n : BitVec 3) (mode : BitVec 8) : Enc :=
  .c k ((g ++ op ++ s ++ d ++ n ++ mode).cast (by decide))
/-- An X slot (R303). -/
def encX (g : BitVec 6) (op : BitVec 4) (d a : BitVec 5) (mode : BitVec 4) : Enc :=
  .x ((g ++ op ++ d ++ a ++ mode).cast (by decide))

/-- A handle number in a six-bit d field. -/
abbrev h6 (h : BitVec 5) : BitVec 6 := (0#1 ++ h).cast (by decide)
/-- A three-bit number in a six-bit d field. -/
abbrev n6 (n : BitVec 3) : BitVec 6 := (0#3 ++ n).cast (by decide)
/-- func[4:0] of a compare: destination kind and condition. -/
abbrev cmpFunc (k : Bool) (cc : Cond) : BitVec 8 := (0#3 ++ BitVec.ofBool k ++ cc.bits).cast (by decide)
/-- The operation field of an atomic in c. -/
abbrev opC (op : AtomOp) : BitVec 6 := (0#2 ++ op.bits).cast (by decide)
abbrev b1 (b : Bool) : BitVec 1 := BitVec.ofBool b

/-- The word of an instruction of a slot; none for a step that no encoding names. -/
def encode : Instr → Option Enc
  | .oppRequest t => some (.header ((1#1 ++ t ++ 0#4).cast (by decide)))
  | .nop g => some (encSR g 0x00 0 0 0 0)
  | .add g d a b => some (encSR g 0x01 d a b 0) | .sub g d a b => some (encSR g 0x02 d a b 0)
  | .mul g d a b => some (encSR g 0x03 d a b 0) | .mulh g d a b => some (encSR g 0x04 d a b 0)
  | .mulhu g d a b => some (encSR g 0x05 d a b 0) | .div g d a b => some (encSR g 0x06 d a b 0)
  | .divu g d a b => some (encSR g 0x07 d a b 0) | .and g d a b => some (encSR g 0x08 d a b 0)
  | .or g d a b => some (encSR g 0x09 d a b 0) | .xor g d a b => some (encSR g 0x0A d a b 0)
  | .andn g d a b => some (encSR g 0x0B d a b 0) | .shl g d a b => some (encSR g 0x0C d a b 0)
  | .shr g d a b => some (encSR g 0x0D d a b 0) | .sra g d a b => some (encSR g 0x0E d a b 0)
  | .min g d a b => some (encSR g 0x0F d a b 0) | .minu g d a b => some (encSR g 0x10 d a b 0)
  | .max g d a b => some (encSR g 0x11 d a b 0) | .maxu g d a b => some (encSR g 0x12 d a b 0)
  | .clz g d a => some (encSR g 0x13 d a 0 0) | .popc g d a => some (encSR g 0x14 d a 0 0)
  | .sel g d a b code => some (encSR g 0x15 d a b ((0#2 ++ code).cast (by decide)))
  | .cmpGuard g n a b cc => some (encSR g 0x16 ((0#2 ++ n).cast (by decide)) a b (cmpFunc false cc))
  | .cmpRegister g d a b cc => some (encSR g 0x16 d a b (cmpFunc true cc))
  | .lea g d a b n => some (encSR g 0x17 d a b ((0#5 ++ n).cast (by decide)))
  | .ext g d a pos len sx => some (encSI g 0x18 d a ((0#16 ++ b1 sx ++ len ++ pos).cast (by decide)))
  | .ins g d a pos len => some (encSI g 0x19 d a ((0#17 ++ len ++ pos).cast (by decide)))
  | .addi g d a imm => some (encSI g 0x20 d a imm) | .andi g d a imm => some (encSI g 0x21 d a imm)
  | .ori g d a imm => some (encSI g 0x22 d a imm) | .xori g d a imm => some (encSI g 0x23 d a imm)
  | .shli g d a n => some (encSI g 0x24 d a ((0#24 ++ n).cast (by decide)))
  | .shri g d a n => some (encSI g 0x25 d a ((0#24 ++ n).cast (by decide)))
  | .srai g d a n => some (encSI g 0x26 d a ((0#24 ++ n).cast (by decide)))
  | .cmpi g k d a cc imm => some (encSI g 0x27 d a ((cc.bits ++ b1 k ++ imm).cast (by decide)))
  | .movi g d imm => some (encSI g 0x28 d 0 imm)
  | .movk g d v k => some (encSI g 0x29 d 0 ((0#12 ++ k ++ v).cast (by decide)))
  | .fadd g d a b => some (encSR g 0x30 d a b 0) | .fsub g d a b => some (encSR g 0x31 d a b 0)
  | .fmul g d a b => some (encSR g 0x32 d a b 0)
  | .ffma g d a b c => some (encSR g 0x33 d a b ((0#2 ++ c).cast (by decide)))
  | .fmin g d a b => some (encSR g 0x34 d a b 0) | .fmax g d a b => some (encSR g 0x35 d a b 0)
  | .fcmp g k d a b cc => some (encSR g 0x36 d a b (cmpFunc k cc))
  | .fcvt g d a dst src nsat rm =>
      some (encSR g 0x37 d a ((0#2 ++ dst.bits).cast (by decide)) ((src.bits ++ b1 nsat ++ rm.bits).cast (by decide)))
  | .ld g d base disp size sx ord scope lat => some (encSL g 0x40 d base disp size.bits sx ord.bits scope lat)
  | .st g d base disp size ord scope => some (encSL g 0x41 d base disp size.bits false ord.bits scope 0)
  | .ldfe g d base disp size peek ord scope lat => some (encSL g 0x42 d base disp size.bits peek ord.bits scope lat)
  | .stfe g d base disp size ord scope => some (encSL g 0x43 d base disp size.bits false ord.bits scope 0)
  | .amo g d a b op size ord scope lat => some (encSA g 0x44 d a b (opC op) false size.bits ord.bits scope lat)
  | .amor g d a b op size level => some (encSA g 0x45 d a b (opC op) false size.bits 2 level 0)
  | .cas g d a b c fo size ord scope lat => some (encSA g 0x46 d a b c fo size.bits ord.bits scope lat)
  | .red g a b op size ord scope => some (encSA g 0x47 0 a b (opC op) false size.bits ord.bits scope 0)
  | .fence g sc ord scope => some (encSL g 0x48 0 0 0 0 sc ord.bits scope 0)
  | .br g c a off => some (encSI g 0x50 ((c.bits ++ 0#3).cast (by decide)) a off)
  | .jmp g a off => some (encSI g 0x51 0 a off)
  | .call g off => some (encSI g 0x52 0 0 off)
  | .callRegister g a off => some (encSI g 0x52 1 a off)
  | .ret g => some (encSI g 0x53 0 0 0)
  | .bloop g off => some (encSI g 0x54 0 0 off)
  | .exit g n => some (encSI g 0x55 0 0 ((0#22 ++ n).cast (by decide)))
  | .exitLeave g => some (encSI g 0x55 0 0 0x100)
  | .trap g c => some (encSI g 0x56 0 0 ((0#14 ++ c).cast (by decide)))
  | .svc g c => some (encSI g 0x57 0 0 ((0#14 ++ c).cast (by decide)))
  | .eret g => some (encSR g 0x58 0 0 0 0)
  | .waitm g d base disp size scope cc =>
      some (encSL g 0x59 d base disp size.bits false 1 scope ((0#2 ++ cc.bits).cast (by decide)))
  | .waitc g n a imm => some (encSI g 0x5A (n6 n) a imm)
  | .sync g => some (encSR g 0x5B 0 0 0 0)
  | .arrive g => some (encSR g 0x5C 0 0 0 0)
  | .grab g d base ord scope lat => some (encSL g 0x5D d base 0 0 false ord.bits scope lat)
  | .yield g => some (encSR g 0x5E 0 0 0 0)
  | .csrr g d csr => some (encSX g 0x60 d 0 csr 0)
  | .csrrRemote g d a csr lat => some (encSX g 0x60 d a csr ((1#1 ++ 0#11 ++ lat).cast (by decide)))
  | .csrw g a csr => some (encSX g 0x61 0 a csr 0)
  | .csrs g a csr => some (encSX g 0x62 0 a csr 0)
  | .csrc g a csr => some (encSX g 0x63 0 a csr 0)
  | .tlbiAll g => some (encSR g 0x64 0 0 0 0)
  | .tlbiAsid g a => some (encSR g 0x64 0 a 0 1)
  | .tlbiPage g a b => some (encSR g 0x64 0 a b 2)
  | .cflush g a b => some (encSR g 0x65 0 a b 0)
  | .cinv g a b i => some (encSR g 0x66 0 a b ((0#7 ++ b1 i).cast (by decide)))
  | .hld g h base disp ord scope => some (encSL g 0x70 (h6 h) base disp 0 false ord.bits scope 0)
  | .hst g h base disp ord scope => some (encSL g 0x71 (h6 h) base disp 0 false ord.bits scope 0)
  | .hset g h a f => some (encSH g 0x72 0 a h 0 f.bits 0)
  | .hget g d h f => some (encSH g 0x73 d 0 h 0 f.bits 0)
  | .hadvHead g h a => some (encSH g 0x74 0 a h 0 0 0)
  | .hadvTail g h a => some (encSH g 0x74 0 a h 0 1 0)
  | .hwait g h => some (encSH g 0x75 0 0 h 0 0 0)
  | .bind g p h wr peek => some (encSH g 0x76 (h6 p) 0 h 0 ((0#6 ++ b1 peek ++ b1 wr).cast (by decide)) 0)
  | .unbindPort g p => some (encSH g 0x77 (h6 p) 0 0 0 0 0)
  | .unbindHandle g h => some (encSH g 0x77 0 0 h 0 1 0)
  | .mpset g n a => some (encSR g 0x78 (n6 n) a 0 0)
  | .acq g k a => some (encSR g 0x79 (n6 k) a 0 0)
  | .arel g k => some (encSR g 0x7A (n6 k) 0 0 0)
  | .averRead g d k => some (encSI g 0x7B d 0 ((0#27 ++ k).cast (by decide)))
  | .averWait g k v => some (encSI g 0x7B 0 0 ((0#18 ++ v ++ 1#1 ++ k).cast (by decide)))
  | .mload g a => some (encSR g 0x7C 0 a 0 0)
  | .maskld g a b => some (encSR g 0x7D 0 a b 0)
  | .snap g d => some (encSR g 0x80 d 0 0 0)
  | .snapx g => some (encSR g 0x81 0 0 0 0)
  | .tbegin g d => some (encSR g 0x82 d 0 0 0)
  | .tcommit g d => some (encSR g 0x83 d 0 0 0)
  | .tabort g => some (encSR g 0x84 0 0 0 0)
  | .vpub g h scope => some (encSH g 0x85 0 0 h 0 0 scope)
  | .vbind g hd hs a => some (encSH g 0x86 0 a hd hs 0 0)
  | .tapx g d h a b post => some (encSR g 0x88 d a b ((0#3 ++ b1 post ++ h).cast (by decide)))
  | .tapw g a => some (encSR g 0x89 0 a 0 0)
  | .sqget g d a b => some (encSR g 0x90 d a b 0)
  | .sqnode g d a b sl nn => some (encSR g 0x91 d a b ((0#6 ++ b1 nn ++ b1 sl).cast (by decide)))
  | .sqaccMask g d a b => some (encSR g 0x92 d a b 0)
  | .sqaccAccept g d a b => some (encSR g 0x92 d a b 1)
  | .sqcommit g d a => some (encSR g 0x93 d a 0 0)
  | .sqroll g d a => some (encSR g 0x94 d a 0 0)
  | .sqsetAdmit g d a b => some (encSR g 0x95 d a b 0) | .sqsetPreempt g d a b => some (encSR g 0x95 d a b 1)
  | .sqsetResume g d a b => some (encSR g 0x95 d a b 2) | .sqsetRelease g d a b => some (encSR g 0x95 d a b 3)
  | .sqsetRetire g d a b => some (encSR g 0x95 d a b 4) | .sqsetPool g d a b => some (encSR g 0x95 d a b 5)
  | .rngseed g a b => some (encSR g 0x98 0 a b 0)
  | .ecmarkRead g d => some (encSR g 0x99 d 0 0 0)
  | .ecmarkMark g d a => some (encSR g 0x99 d a 0 1)
  | .vnop k g => some (encV k g 0 .f32 0 0 0 0)
  | .vadd k g t d a b => some (encV k g 1 t d a b 0) | .vsub k g t d a b => some (encV k g 2 t d a b 0)
  | .vmul k g t d a b => some (encV k g 3 t d a b 0) | .vfma k g t d a b c => some (encV k g 4 t d a b c)
  | .vmin k g t d a b => some (encV k g 5 t d a b 0) | .vmax k g t d a b => some (encV k g 6 t d a b 0)
  | .vabs k g t d a => some (encV k g 7 t d a 0 0) | .vneg k g t d a => some (encV k g 8 t d a 0 0)
  | .vexp2 k g t d a => some (encV k g 9 t d a 0 0) | .vlog2 k g t d a => some (encV k g 10 t d a 0 0)
  | .vrcp k g t d a => some (encV k g 11 t d a 0 0) | .vrsq k g t d a => some (encV k g 12 t d a 0 0)
  | .vcvt k g t d a rm src => some (encV k g 13 t d a ((0#3 ++ rm.bits).cast (by decide)) ((0#2 ++ src.bits).cast (by decide)))
  | .vcmp k g t d a b cc => some (encV k g 14 t d a b ((0#1 ++ cc.bits).cast (by decide)))
  | .vsel k g t d a b => some (encV k g 15 t d a b 0) | .vand k g t d a b => some (encV k g 16 t d a b 0)
  | .vor k g t d a b => some (encV k g 17 t d a b 0) | .vxor k g t d a b => some (encV k g 18 t d a b 0)
  | .vshl k g t d a b => some (encV k g 19 t d a b 0) | .vshr k g t d a b => some (encV k g 20 t d a b 0)
  | .vrsum k g t d a => some (encV k g 21 t d a 0 0) | .vrmax k g t d a => some (encV k g 22 t d a 0 0)
  | .vscan k g t d a => some (encV k g 23 t d a 0 0)
  | .vtopk k g t d a km1 idx => some (encV k g 24 t d a km1 ((0#4 ++ b1 idx).cast (by decide)))
  | .vperm k g t d a b => some (encV k g 25 t d a b 0) | .vmov k g t d a => some (encV k g 26 t d a 0 0)
  | .vrng k g t d => some (encV k g 27 t d 0 0 0)
  | .mnop g => some (.m ((g ++ 0#26).cast (by decide)))
  | .mcall g r v k pop bump ignv =>
      some (.m ((g ++ 1#2 ++ r ++ v ++ k ++ 0#2 ++ b1 pop ++ b1 bump ++ b1 ignv).cast (by decide)))
  | .cnop c g => some (encC c g 0 0 0 0 0)
  | .cpy c g s d n ar rcn nsat cons =>
      some (encC c g 1 s d n ((b1 ar ++ rcn ++ b1 nsat ++ b1 cons ++ 0#1).cast (by decide)))
  | .cpyr c g s d n ar op => some (encC c g 2 s d n ((b1 ar ++ 0#3 ++ op.bits).cast (by decide)))
  | .gath c g s d n ar hx => some (encC c g 3 s d n ((b1 ar ++ 0#2 ++ hx).cast (by decide)))
  | .scat c g s d n ar hx => some (encC c g 4 s d n ((b1 ar ++ 0#2 ++ hx).cast (by decide)))
  | .chain c g s n ch => some (encC c g 5 s 0 n ((0#5 ++ ch).cast (by decide)))
  | .bdrv c g s n mask => some (encC c g 6 s 0 n mask)
  | .blat c g d n pos => some (encC c g 7 0 d n ((0#5 ++ pos).cast (by decide)))
  | .wstr c g s d n wb mask => some (encC c g 8 s d n ((0#5 ++ b1 wb ++ mask).cast (by decide)))
  | .kvcp c g s d n ar => some (encC c g 9 s d n ((b1 ar ++ 0#7).cast (by decide)))
  | .cnta c g n inc => some (encC c g 10 0 0 n inc)
  | .logf c g s d n ar keep k => some (encC c g 11 s d n ((b1 ar ++ b1 keep ++ k).cast (by decide)))
  | .xnop g => some (encX g 0 0 0 0)
  | .xpose g d a w => some (encX g 1 d a ((0#2 ++ w).cast (by decide)))
  | .xcvt g d a pair h => some (encX g 2 d a ((b1 h ++ pair).cast (by decide)))
  | .xexp g d a l w => some (encX g 3 d a ((b1 l.bit ++ 0#1 ++ w).cast (by decide)))
  | .xpack g d a l w => some (encX g 4 d a ((b1 l.bit ++ 0#1 ++ w).cast (by decide)))
  | _ => none

/-! ## The opcode table's own words -/

/-- Which slot a word of the opcode table stands for: the header (8 bits), X (24), M or C (32), V (36, in five bytes) or S (56).
A 32-bit word is read as a C slot where it is a legal copy, else as an M slot where it is a legal MCALL, else as a C slot; a word with op bits zero
is MNOP. -/
def tableEnc (nbits w : Nat) : Option Enc :=
  if nbits ≤ 8 then some (.header (BitVec.ofNat 8 w))
  else if nbits ≤ 24 then some (.x (BitVec.ofNat 24 w))
  else if nbits ≤ 32 then
    let b := BitVec.ofNat 32 w
    if fld b 0 26 == (0 : BitVec 26) then some (.m b)
    else match decodeC .c0 b, decodeM b with
      | .error _, .ok _ => some (.m b)
      | _, _ => some (.c .c0 b)
  else if nbits ≤ 40 then some (.v .v0 (BitVec.ofNat 36 w))
  else some (.s (BitVec.ofNat 56 w))

/-- The bundle that holds one word and NOPs. -/
def Enc.bundle (e : Enc) : BundleBits :=
  let z : Slots := ⟨0, 0, 0, 0, 0, 0, 0, 0⟩
  (match e with
   | .header w => { z with header := w }
   | .s w => { z with s := w }
   | .v .v0 w => { z with v0 := w }
   | .v .v1 w => { z with v1 := w }
   | .m w => { z with m := w }
   | .c .c0 w => { z with c0 := w }
   | .c .c1 w => { z with c1 := w }
   | .x w => { z with x := w } : Slots).bundle

/-- The bundle that stands for a word of the opcode table: its slot holds the word, every other slot its NOP. -/
def tableBundle (nbits w : Nat) : BundleBits :=
  match tableEnc nbits w with
  | some e => e.bundle
  | none => 0

/-- The slot of a bundle that holds an instruction, if exactly the others hold NOPs. -/
def soleInstr (b : Bundle) : Option Instr :=
  match b.request with
  | some i => some i
  | none =>
    match b.slots.filter (fun i => match i with
        | .nop _ | .vnop _ _ | .mnop _ | .cnop _ _ | .xnop _ => false | _ => true) with
    | i :: _ => some i
    | [] => none

/-- The instruction that the decoder reads from a word of the opcode table, through the bundle that holds it. -/
def decodeTableWord (nbits w : Nat) : Option Instr :=
  match tableEnc nbits w with
  | none => none
  | some e =>
    match decodeBundle e.bundle with
    | .error _ => none
    | .ok b => match soleInstr b with
      | some i => some i
      | none => match e.decode with | .ok i => some i | .error _ => none

end Sys2Proof
end

