-- ==== Sys2Proof/Machine/Float.lean ====
section
/-! DEFINITION. Numbers (chapter 4): the formats of Table 4.1 as exact dyadic values, the rounding of R90 to R92, the arithmetic of R351
and R382, the conversions of R354 and R386, the transcendentals of R101, the nested codebook of R93, the block dot rule of R98
and R99, and the mixer of R102. Everything is exact integer arithmetic with one rounding at the end. -/

namespace Sys2Proof.Machine

/-! ## The mixer -/

/-- mix32 (R102). -/
def mix32 (x : BitVec 32) : BitVec 32 :=
  let x := x ^^^ (x >>> 16)
  let x := x * 0x7FEB352D#32
  let x := x ^^^ (x >>> 15)
  let x := x * 0x846CA68B#32
  x ^^^ (x >>> 16)

/-- Word number `q` after keying with key `k` and counter `c` (R103). -/
def rngWord (k c : BitVec 32) (q : Nat) : BitVec 32 := mix32 (mix32 k ^^^ (c + BitVec.ofNat 32 q))

/-! ## Formats -/

/-- A floating-point format: exponent and mantissa widths, bias, whether it has infinities (R84). -/
structure FFmt where
  eb : Nat
  mb : Nat
  bias : Int
  infs : Bool
  deriving DecidableEq, Repr

def fmtF32 : FFmt := ⟨8, 23, 127, true⟩
def fmtF16 : FFmt := ⟨5, 10, 15, true⟩
def fmtBF16 : FFmt := ⟨8, 7, 127, true⟩
def fmtE4M3 : FFmt := ⟨4, 3, 7, false⟩
def fmtE5M2 : FFmt := ⟨5, 2, 15, true⟩

/-- A value: a NaN (signalling or quiet), an infinity, or (−1)^neg × m × 2^e. -/
inductive FV
  | nan (sig : Bool)
  | inf (neg : Bool)
  | fin (neg : Bool) (m : Nat) (e : Int)
  deriving DecidableEq, Repr

namespace FFmt

def width (f : FFmt) : Nat := 1 + f.eb + f.mb
/-- The exponent of the smallest normal. -/
def emin (f : FFmt) : Int := 1 - f.bias
/-- The exponent of the largest finite value. -/
def emax (f : FFmt) : Int := (2 ^ f.eb - (if f.infs then 2 else 1) : Nat) - f.bias
/-- The significand of the largest finite value: all ones, less 1 where the all-ones pattern is the NaN. -/
def maxSig (f : FFmt) : Nat := 2 ^ (f.mb + 1) - (if f.infs then 1 else 2)
/-- The canonical NaN (Table 4.1). -/
def nanBits (f : FFmt) : Nat :=
  if f.infs then (2 ^ f.eb - 1) * 2 ^ f.mb + 2 ^ (f.mb - 1) else 2 ^ (f.eb + f.mb) - 1
def signBit (f : FFmt) (neg : Bool) : Nat := if neg then 2 ^ (f.eb + f.mb) else 0
def infBits (f : FFmt) (neg : Bool) : Nat := f.signBit neg + (2 ^ f.eb - 1) * 2 ^ f.mb
/-- The largest finite value's pattern. -/
def maxBits (f : FFmt) (neg : Bool) : Nat :=
  f.signBit neg + (if f.infs then (2 ^ f.eb - 2) * 2 ^ f.mb + (2 ^ f.mb - 1) else (2 ^ f.eb - 1) * 2 ^ f.mb + (2 ^ f.mb - 2))

/-- The value of a pattern (Table 4.1, R85). -/
def decode (f : FFmt) (w : Nat) : FV :=
  let neg := (w / 2 ^ (f.eb + f.mb)) % 2 = 1
  let ex := (w / 2 ^ f.mb) % 2 ^ f.eb
  let mant := w % 2 ^ f.mb
  if ex = 2 ^ f.eb - 1 ∧ (f.infs ∨ mant = 2 ^ f.mb - 1) then
    if f.infs ∧ mant = 0 then .inf neg
    else .nan (f.infs && mant / 2 ^ (f.mb - 1) % 2 == 0)
  else if ex = 0 then .fin neg mant (f.emin - f.mb)
  else .fin neg (2 ^ f.mb + mant) ((ex : Int) - f.bias - f.mb)

/-- The pattern of a significand on the format's grid. -/
def encode (f : FFmt) (neg : Bool) (sig : Nat) (q : Int) : Nat :=
  if sig < 2 ^ f.mb then f.signBit neg + sig
  else f.signBit neg + (q + f.mb + f.bias).toNat * 2 ^ f.mb + (sig - 2 ^ f.mb)

end FFmt

/-! ## Rounding -/

/-- A rounding mode; SRND with the lane's 16 random bits (R92). -/
inductive Rnd | rne | rtz | rdn | rup | srnd (r : Nat)
  deriving DecidableEq, Repr

/-- Whether a magnitude truncated to `sig`, with `rem` out of 2^sh discarded, is rounded away from zero (Table 4.3, R92). -/
def roundsUp (mode : Rnd) (neg : Bool) (sig rem sh : Nat) : Bool :=
  match mode with
  | .rne => decide (2 ^ sh < 2 * rem ∨ (2 * rem = 2 ^ sh ∧ sig % 2 = 1))
  | .rtz => false
  | .rdn => neg && rem != 0
  | .rup => !neg && rem != 0
  | .srnd r =>
    let g := if 16 ≤ sh then rem / 2 ^ (sh - 16) else rem * 2 ^ (16 - sh)
    decide (2 ^ 16 ≤ g + r)

/-- m × 2^e rounded to a multiple of 2^q: the multiple and whether it is inexact. -/
def roundAt (mode : Rnd) (neg : Bool) (m : Nat) (e q : Int) : Nat × Bool :=
  if q ≤ e then (m * 2 ^ (e - q).toNat, false)
  else
    let sh := (q - e).toNat
    let sig := m / 2 ^ sh
    let rem := m % 2 ^ sh
    (if roundsUp mode neg sig rem sh then sig + 1 else sig, rem != 0)

/-- Flags NV, OF, UF, NX at their places in FPCSR (Table 4.2). -/
abbrev FFlags := BitVec 8
def flagNV : FFlags := 0x80
def flagOF : FFlags := 0x40
def flagUF : FFlags := 0x20
def flagNX : FFlags := 0x10
def flagIf (b : Bool) (f : FFlags) : FFlags := if b then f else 0

/-- A pattern and the flags it raises. -/
abbrev FRes := Nat × FFlags

/-- Overflow in the format: saturation, or IEEE 754's result for the mode (R91). -/
def overflowBits (f : FFmt) (sat : Bool) (mode : Rnd) (neg : Bool) : Nat :=
  if sat || !f.infs then f.maxBits neg
  else match mode with
    | .rne | .srnd _ => f.infBits neg
    | .rtz => f.maxBits neg
    | .rdn => if neg then f.infBits true else f.maxBits false
    | .rup => if neg then f.maxBits true else f.infBits false

/-- A finite value rounded to the format under R90 and R91, with the flags of R352 and R355. -/
def roundFin (f : FFmt) (sat : Bool) (mode : Rnd) (neg : Bool) (m : Nat) (e : Int) : FRes :=
  if m = 0 then (f.signBit neg, 0)
  else
    let top := e + (Nat.log2 m : Int)
    let qn := top - f.mb
    let q := max qn (f.emin - f.mb)
    let (sig, nx) := roundAt mode neg m e q
    let (sig, q) := if sig = 2 ^ (f.mb + 1) then (2 ^ f.mb, q + 1) else (sig, q)
    if f.emax - f.mb < q ∨ (q = f.emax - f.mb ∧ f.maxSig < sig) then
      (overflowBits f sat mode neg, flagOF ||| flagNX)
    else
      let (usig, _) := roundAt mode neg m e qn
      let tiny := decide (top + (if usig = 2 ^ (f.mb + 1) then 1 else 0) < f.emin)
      (f.encode neg sig q, flagIf nx flagNX ||| flagIf (nx && tiny) flagUF)

/-- Any value rounded to the format. -/
def roundTo (f : FFmt) (sat : Bool) (mode : Rnd) : FV → FRes
  | .nan s => (f.nanBits, flagIf s flagNV)
  | .inf neg => (if f.infs then f.infBits neg else f.maxBits neg, 0)
  | .fin neg m e => roundFin f sat mode neg m e

/-! ## Exact arithmetic -/

def FV.neg : FV → FV
  | .nan s => .nan s
  | .inf n => .inf !n
  | .fin n m e => .fin (!n) m e

def FV.abs : FV → FV
  | .nan s => .nan s
  | .inf _ => .inf false
  | .fin _ m e => .fin false m e

def FV.isNaN : FV → Bool
  | .nan _ => true
  | _ => false

def FV.isSNaN : FV → Bool
  | .nan s => s
  | _ => false

/-- The signed mantissa of a finite value at exponent `q` at or below its own. -/
def intAt (neg : Bool) (m : Nat) (e q : Int) : Int :=
  let v : Int := (m * 2 ^ (e - q).toNat : Nat)
  if neg then -v else v

/-- An exact sum, and whether it is invalid (R352); `dn` is round-down, where a zero sum of opposite signs is −0. -/
def FV.add (dn : Bool) : FV → FV → FV × Bool
  | .nan a, .nan b => (.nan false, a || b)
  | .nan a, _ => (.nan false, a)
  | _, .nan b => (.nan false, b)
  | .inf a, .inf b => if a = b then (.inf a, false) else (.nan false, true)
  | .inf a, .fin .. => (.inf a, false)
  | .fin .., .inf b => (.inf b, false)
  | .fin n1 m1 e1, .fin n2 m2 e2 =>
    let q := min e1 e2
    let s := intAt n1 m1 e1 q + intAt n2 m2 e2 q
    if s = 0 then (.fin (if m1 = 0 ∧ m2 = 0 ∧ n1 = n2 then n1 else dn) 0 q, false)
    else (.fin (decide (s < 0)) s.natAbs q, false)

/-- An exact product, and whether it is invalid. -/
def FV.mul : FV → FV → FV × Bool
  | .nan a, .nan b => (.nan false, a || b)
  | .nan a, _ => (.nan false, a)
  | _, .nan b => (.nan false, b)
  | .inf a, .inf b => (.inf (a != b), false)
  | .inf a, .fin n m _ => if m = 0 then (.nan false, true) else (.inf (a != n), false)
  | .fin n m _, .inf b => if m = 0 then (.nan false, true) else (.inf (n != b), false)
  | .fin n1 m1 e1, .fin n2 m2 e2 => (.fin (n1 != n2) (m1 * m2) (e1 + e2), false)

/-- x × y + z, and whether it is invalid: 0 × ∞ + z is, for any z (R352). -/
def FV.fma (dn : Bool) (x y z : FV) : FV × Bool :=
  let (p, i) := FV.mul x y
  let (s, j) := FV.add dn p z
  (s, i || j || z.isSNaN)

/-- Comparison of values that are no NaN, −0 equal to +0: negative, zero, positive. -/
def FV.cmp : FV → FV → Int
  | .inf a, .inf b => (if a then -1 else 1) - (if b then -1 else 1)
  | .inf a, _ => if a then -1 else 1
  | _, .inf b => if b then 1 else -1
  | .fin n1 m1 e1, .fin n2 m2 e2 => let q := min e1 e2; intAt n1 m1 e1 q - intAt n2 m2 e2 q
  | _, _ => 0

/-- The total order of R100 on values that are no NaN: −0 below +0. -/
def FV.lt (x y : FV) : Bool :=
  match x, y with
  | .fin n1 0 _, .fin n2 0 _ => n1 && !n2
  | _, _ => decide (FV.cmp x y < 0)

/-- The conditions of Table 18.2 on two values, and whether NV is set. -/
def FV.cond (cc : Cond) (x y : FV) : Bool × Bool :=
  let un := x.isNaN || y.isNaN
  let sn := x.isSNaN || y.isSNaN
  let c := FV.cmp x y
  match cc with
  | .eq => (!un && c == 0, sn)
  | .ne => (un || c != 0, sn)
  | .lt => (!un && decide (c < 0), un)
  | .ge => (!un && decide (0 ≤ c), un)
  | .gt => (!un && decide (0 < c), un)
  | .le => (!un && decide (c ≤ 0), un)
  | .un => (un, sn)
  | .ord => (!un, sn)
  | _ => (false, false)

/-- Whether a pattern of the format is subnormal. -/
def FFmt.isSubnormal (f : FFmt) (w : Nat) : Bool := w / 2 ^ f.mb % 2 ^ f.eb == 0 && w % 2 ^ f.mb != 0

/-- An operand as read under FTZ (R89). -/
def readFtz (f : FFmt) (ftz : Bool) (w : Nat) : FV :=
  if ftz && f.isSubnormal w then (.fin (w / 2 ^ (f.eb + f.mb) % 2 == 1) 0 0) else f.decode w

/-- A result as written under FTZ, with the flags R351 gives a flushed one. -/
def writeFtz (f : FFmt) (ftz : Bool) (r : FRes) : FRes :=
  if ftz && f.isSubnormal r.1 then (f.signBit (r.1 / 2 ^ (f.eb + f.mb) % 2 == 1), r.2 ||| flagUF ||| flagNX) else r

def isDown : Rnd → Bool
  | .rdn => true
  | _ => false

/-- One rounding of an exact result that may be invalid. -/
def finish (f : FFmt) (ftz : Bool) (mode : Rnd) (v : FV × Bool) : FRes :=
  let r := writeFtz f ftz (roundTo f false mode v.1)
  (r.1, r.2 ||| flagIf v.2 flagNV)

/-- The arithmetic operations of R351 and R382. -/
def fpAdd (f : FFmt) (ftz : Bool) (mode : Rnd) (a b : Nat) : FRes :=
  finish f ftz mode (FV.add (isDown mode) (readFtz f ftz a) (readFtz f ftz b))
def fpSub (f : FFmt) (ftz : Bool) (mode : Rnd) (a b : Nat) : FRes :=
  finish f ftz mode (FV.add (isDown mode) (readFtz f ftz a) (readFtz f ftz b).neg)
def fpMul (f : FFmt) (ftz : Bool) (mode : Rnd) (a b : Nat) : FRes :=
  finish f ftz mode (FV.mul (readFtz f ftz a) (readFtz f ftz b))
def fpFma (f : FFmt) (ftz : Bool) (mode : Rnd) (a b c : Nat) : FRes :=
  finish f ftz mode (FV.fma (isDown mode) (readFtz f ftz a) (readFtz f ftz b) (readFtz f ftz c))

/-- Minimum and maximum under R100: exact, NV only for a signalling NaN. -/
def fpPick (f : FFmt) (ftz max : Bool) (a b : Nat) : FRes :=
  let x := readFtz f ftz a
  let y := readFtz f ftz b
  if x.isNaN || y.isNaN then (f.nanBits, flagIf (x.isSNaN || y.isSNaN) flagNV)
  else ((roundTo f false .rne (if FV.lt x y != max then x else y)).1, 0)

/-! ## Conversions -/

/-- The floating-point format of an element type. -/
def EType.fmt? : EType → Option FFmt
  | .f32 => some fmtF32 | .bf16 => some fmtBF16 | .f16 => some fmtF16 | .e4m3 => some fmtE4M3 | .e5m2 => some fmtE5M2
  | _ => none

/-- The width in bits of an element type (R80, R87); bytes count as 8. -/
def EType.bitWidth : EType → Nat
  | .f32 | .i32 | .u32 => 32
  | .bf16 | .f16 | .i16 | .u16 => 16
  | .e4m3 | .e5m2 | .i8 | .u8 | .q8 | .bytes => 8
  | .i64 => 64
  | .q2 => 2
  | .q4 => 4

def EType.signed : EType → Bool
  | .i32 | .i16 | .i8 | .i64 => true
  | _ => false

def VType.toE : VType → EType
  | .f32 => .f32 | .bf16 => .bf16 | .f16 => .f16 | .i32 => .i32 | .u32 => .u32 | .i16 => .i16 | .i8 => .i8 | .u8 => .u8

/-- The integer a pattern of width `w` stands for. -/
def toInt (signed : Bool) (w n : Nat) : Int :=
  let n := n % 2 ^ w
  if signed ∧ 2 ^ (w - 1) ≤ n then (n : Int) - 2 ^ w else n

/-- The pattern of an integer modulo 2^w. -/
def ofIntW (w : Nat) (v : Int) : Nat := (v % (2 ^ w : Nat)).toNat

def intMin (signed : Bool) (w : Nat) : Int := if signed then -(2 ^ (w - 1) : Nat) else 0
def intMax (signed : Bool) (w : Nat) : Int := (2 ^ (if signed then w - 1 else w) : Nat) - 1

/-- An exact value rounded to an integer, saturating (R91, R355). -/
def roundToInt (signed : Bool) (w : Nat) (mode : Rnd) : FV → FRes
  | .nan _ => (0, flagNV)
  | .inf neg => (ofIntW w (if neg then intMin signed w else intMax signed w), flagNV)
  | .fin neg m e =>
    let (n, nx) := roundAt mode neg m e 0
    let v : Int := if neg then -(n : Int) else n
    if v < intMin signed w then (ofIntW w (intMin signed w), flagNV ||| flagNX)
    else if intMax signed w < v then (ofIntW w (intMax signed w), flagNV ||| flagNX)
    else (ofIntW w v, flagIf nx flagNX)

/-- The exact value of a pattern of an element type. -/
def valueOf (t : EType) (n : Nat) : FV :=
  match EType.fmt? t with
  | some f => f.decode (n % 2 ^ f.width)
  | none => let v := toInt (EType.signed t) (EType.bitWidth t) n; .fin (decide (v < 0)) v.natAbs 0

/-- A pattern of type `src` converted to type `dst` (R91, R354, R386): the pattern and the flags. -/
def convert (dst src : EType) (nsat : Bool) (mode : Rnd) (n : Nat) : FRes :=
  let n := n % 2 ^ EType.bitWidth src
  if dst = src then
    match EType.fmt? src with
    | some f => match f.decode n with
      | .nan s => (f.nanBits, flagIf s flagNV)
      | _ => (n, 0)
    | none => (n, 0)
  else
    match EType.fmt? dst with
    | some f => roundTo f (f.width == 8 && !nsat) mode (valueOf src n)
    | none => roundToInt (EType.signed dst) (EType.bitWidth dst) mode (valueOf src n)

/-! ## Roots, powers and logarithms -/

/-- Newton's iteration for the integer square root, from above. -/
def isqrtGo (n : Nat) : Nat → Nat → Nat
  | 0, x => x
  | k + 1, x => let y := (x + n / x) / 2; if x ≤ y then x else isqrtGo n k y

/-- The integer square root. -/
def isqrt (n : Nat) : Nat := if n = 0 then 0 else isqrtGo n 32 (2 ^ (Nat.log2 n / 2 + 1))

/-- Fraction bits of the fixed-point approximations (log 8). -/
def fixP : Nat := 320

/-- The product over the set bits of a fraction, most significant first, of 2^(2^-1), 2^(2^-2), and so on, in fixed point. -/
def exp2Frac : Nat → Nat → Nat → Nat → Nat
  | 0, _, _, acc => acc
  | k + 1, frac, root, acc =>
    let root := isqrt (root * 2 ^ fixP)
    exp2Frac k frac root (if frac / 2 ^ k % 2 = 1 then acc * root / 2 ^ fixP else acc)

/-- 2^v for a finite v, as an exact value or one with a sticky bit below 2^-fixP. -/
def exp2Fin (neg : Bool) (m : Nat) (e : Int) : FV :=
  let v := intAt neg m e (min e 0)
  let k := (min e 0).natAbs
  let n := v / (2 ^ k : Nat)
  let frac := (v % (2 ^ k : Nat)).toNat
  if frac = 0 then .fin false 1 n
  else .fin false (exp2Frac k frac (2 * 2 ^ fixP) (2 ^ fixP) * 2 + 1) (n - fixP - 1)

/-- The leading bits of log2 of a fixed-point number in [1, 2), by repeated squaring. -/
def log2Frac : Nat → Nat → Nat → Nat
  | 0, _, acc => acc
  | k + 1, x, acc =>
    let y := x * x / 2 ^ fixP
    if 2 * 2 ^ fixP ≤ y then log2Frac k (y / 2) (2 * acc + 1) else log2Frac k y (2 * acc)

/-- Bits of a logarithm's fraction (log 8). -/
def logBits : Nat := 160

/-- log2 of m × 2^e, m positive. -/
def log2Fin (m : Nat) (e : Int) : FV :=
  let k := Nat.log2 m
  let n := e + (k : Int)
  if m = 2 ^ k then .fin (decide (n < 0)) n.natAbs 0
  else
    let v : Int := n * (2 ^ logBits : Nat) + log2Frac logBits (m * 2 ^ fixP / 2 ^ k) 0
    let v := 2 * v + 1
    .fin (decide (v < 0)) v.natAbs (-(logBits : Int) - 1)

/-- 1 / (m × 2^e), with a sticky bit. -/
def rcpFin (neg : Bool) (m : Nat) (e : Int) : FV :=
  let n := 2 ^ fixP / m
  .fin neg (2 * n + (if n * m = 2 ^ fixP then 0 else 1)) (-e - fixP - 1)

/-- 1 / √(m × 2^e), with a sticky bit. -/
def rsqFin (m : Nat) (e : Int) : FV :=
  let (m, e) := if e % 2 = 0 then (m, e) else (2 * m, e - 1)
  let r := isqrt (2 ^ (2 * fixP) / m)
  .fin false (2 * r + (if r * r * m = 2 ^ (2 * fixP) then 0 else 1)) (-(e / 2) - fixP - 1)

/-- The transcendental operations. -/
inductive Trans | exp2 | log2 | rcp | rsq
  deriving DecidableEq, Repr

/-- The beyond-range results of 2^x need no fraction: an |x| of 2^12 or more is far outside every format. -/
def exp2Val (neg : Bool) (m : Nat) (e : Int) : FV :=
  if m = 0 then .fin false 1 0
  else if 12 ≤ e + (Nat.log2 m : Int) then .fin false 1 (if neg then -8192 else 8192)
  else exp2Fin neg m e

/-- The exact value of a transcendental of a value (R101, Table 4.6). -/
def Trans.value : Trans → FV → FV
  | _, .nan _ => .nan false
  | .exp2, .inf neg => if neg then .fin false 0 0 else .inf false
  | .exp2, .fin neg m e => exp2Val neg m e
  | .log2, .inf neg => if neg then .nan false else .inf false
  | .log2, .fin neg m e => if m = 0 then .inf true else if neg then .nan false else log2Fin m e
  | .rcp, .inf neg => .fin neg 0 0
  | .rcp, .fin neg m e => if m = 0 then .inf neg else rcpFin neg m e
  | .rsq, .inf neg => if neg then .nan false else .fin false 0 0
  | .rsq, .fin neg m e => if m = 0 then .inf neg else if neg then .nan false else rsqFin m e

/-- A transcendental on a pattern (R387). -/
def fpTrans (op : Trans) (f : FFmt) (ftz : Bool) (a : Nat) : Nat :=
  (finish f ftz .rne (op.value (readFtz f ftz a), false)).1

/-! ## The nested codebook and the block dot rule -/

def v4Table : List Int := [-256, -173, -136, -105, -78, -55, -33, -11, 11, 33, 55, 78, 105, 136, 173, 256]
def wTable : List Int := [80, 44, 34, 29, 25, 22, 22, 22, 22, 22, 22, 25, 29, 34, 44, 80]
def v2Table : List Int := [-168, -44, 44, 168]

def tableAt (t : List Int) (n : Nat) : Int := t.getD n 0

/-- v2(j), in units of 2^-8 (Table 4.4). -/
def codeV2 (j : Nat) : Int := tableAt v2Table (j % 4)
/-- v4(i), in units of 2^-8. -/
def codeV4 (i : Nat) : Int := tableAt v4Table (i % 16)
/-- v8(code) = 16·v4(i) + (f − 8)·w(i), in units of 2^-12 (R93). -/
def codeV8 (code : Nat) : Int := 16 * codeV4 (code / 16) + ((code % 16 : Nat) - 8) * tableAt wTable (code / 16 % 16)

/-- The exponent of a code's unit: 2^-8 or 2^-12. -/
def unitExp (width : Nat) : Int := if width = 8 then -12 else -8

/-- The value of a delivered code of 2, 4 or 8 bits as an exact value, its unit included. -/
def codeValue (width code : Nat) : FV :=
  let v := if width = 2 then codeV2 code else if width = 4 then codeV4 code else codeV8 code
  .fin (decide (v < 0)) v.natAbs (unitExp width)

/-- One product of the rule; a padded position gives exact +0 (R98). -/
def dotProd (pad : Bool) (w a : FV) : FV :=
  if pad then .fin false 0 0 else (FV.mul w a).1

/-- The sign and magnitude of p truncated to a multiple of 2^q, in that unit. -/
def truncAt (q : Int) : FV → Int
  | .fin neg m e => let n : Int := (roundAt .rtz neg m e q).1; if neg then -n else n
  | _ => 0

/-- floor(log2) of a nonzero finite value. -/
def FV.top? : FV → Option Int
  | .fin _ m e => if m = 0 then none else some (e + (Nat.log2 m : Int))
  | _ => none

def maxTop : List FV → Option Int
  | [] => none
  | p :: ps => match p.top?, maxTop ps with
    | none, t => t
    | some a, none => some a
    | some a, some b => some (max a b)

def isNegInf : FV → Bool
  | .inf n => n
  | _ => false
def isPosInf : FV → Bool
  | .inf n => !n
  | _ => false

/-- P_b of R98 and R99 from the products. -/
def blockSum (ps : List FV) : FV :=
  if ps.any FV.isNaN then .nan false
  else if ps.any isNegInf && ps.any isPosInf then .nan false
  else if ps.any isNegInf then .inf true
  else if ps.any isPosInf then .inf false
  else match maxTop ps with
    | none => .fin false 0 0
    | some t =>
      let q := t - 60
      let s := (ps.map (truncAt q)).foldl (· + ·) 0
      .fin (decide (s < 0)) s.natAbs q

/-- T_b: P_b times the block factor, rounded once to FP32; a zero is +0. The unit is in the products already. DESIGN CHOICE (log 49): R99
names a NaN super-scale and an infinite one with P_b 0 only; an infinite P_b with a super-scale of zero gives NaN here, the product's own
rule. -/
def blockTerm (p : FV) (scale : Option (Nat × Nat)) : Nat :=
  let v := match scale with
    | none => p
    | some (c, s) => (FV.mul p (FV.mul (.fin false (c + 1) (-8)) (fmtF32.decode s)).1).1
  let t := (roundTo fmtF32 false .rne v).1
  if t = 2 ^ 31 then 0 else t

/-- acc + T_b, rounded RNE in FP32. -/
def accAdd (acc t : Nat) : Nat := (fpAdd fmtF32 false .rne acc t).1

/-! ## Beats as lanes (R82) -/

/-- The lanes of width `w` of `n`, lane 0 first. -/
def lanesOf (w count n : Nat) : List Nat := (List.range count).map fun k => n / 2 ^ (w * k) % 2 ^ w

/-- The number whose lanes of width `w` are the list. -/
def packLanes (w : Nat) : List Nat → Nat
  | [] => 0
  | x :: xs => x % 2 ^ w + 2 ^ w * packLanes w xs

def VType.width (t : VType) : Nat := EType.bitWidth (VType.toE t)
/-- Lanes of a beat (R82). -/
def VType.lanes (t : VType) : Nat := 2048 / VType.width t
def VType.fmt? (t : VType) : Option FFmt := EType.fmt? (VType.toE t)

end Sys2Proof.Machine
end

