-- ==== Sys2Proof/Config.lean ====
section
/-! DEFINITION. What the implementation fixes and the manual leaves open: free values, opaque constants without a body that nothing in
Lean can evaluate. Each is applied to State.draws, a plain counter, or to the operands it depends on. -/

namespace Sys2Proof.Config

/-- Which enabled engine step moves next while the core is held (R421; log 5). -/
opaque pick : Nat → Nat

/-- How far beyond 15 moves the core goes before an engine moves although the core could go on (R421; log 5). -/
opaque patience : Nat → Nat

/-- The estimated energy of one issued tick, in nJ (R280; log 13). -/
opaque tickEnergy : Nat → BitVec 64

/-- Which of the free TIDs the pool hands out (R155, R414; log 14). -/
opaque pickTid : Nat → Nat


/-- The identity public key of the package, 1,312 bytes, derived from the fused seed and the firmware digests (R291; log 15). -/
opaque identityKey : List (BitVec 256) → BitVec 10496

/-- The memory keys that the DMPs generate at a boot, by domain (R292; log 15). -/
opaque memoryKey : Nat → BitVec 512

/-- The ML-DSA-44 signature over the SHA3-256 digest of a report's bytes, 2,420 bytes (R291; log 15). -/
opaque signature : List (BitVec 8) → BitVec 19360

end Sys2Proof.Config
end

