-- ==== Sys2Proof/Machine/State.lean ====
section
/-! DEFINITION. The state of one package as one core sees it: plain data, every piece of state the manual gives the machine
(INVENTORY.md lists each with its rule), and the state after reset. -/

namespace Sys2Proof.Machine

/-- The modes of a core (R243). -/
inductive Mode | u | s
  deriving DecidableEq, Repr

/-- Reasons to stop. The manual gives every misuse a trap or a stated result (R9), so no step faults: the type has no
constructor, and no one raises one. Safe. -/
inductive Fault
  deriving DecidableEq, Repr

/-- Refusals. -/
inductive Refusal
  /-- An instruction without a meaning yet, raised by its arm of `exec` alone. Safe. -/
  | notModelled (mnemonic : String)
  deriving DecidableEq, Repr

/-- Memory in one canonical form: addresses strictly rising, no entry equal to what an unlisted address reads as (0). -/
abbrev Mem := List Host.Cell

/-! ## Traps -/

/-- The kinds of trap (Table 12.2, TCAUSE.KIND). -/
inductive TrapKind | bundle | boundary | imprecise | asynchronous
  deriving DecidableEq, Repr

/-- The trap causes (Table 12.1). -/
inductive Cause
  | illop | illslot | priv | align | tfault | prot | handle | port | ring | acm | oppsettle | barrier | copyfault | micro
  | probehalt | txstate | vstate | sq | queue | busmiss | svc | trap | break_ | mchk
  deriving DecidableEq, Repr

/-- A cause found, before it is taken. `tepc` is the address ERET resumes at when the cause fixes it, none for the first
bundle not issued. -/
structure Trap where
  cause : Cause
  kind : TrapKind := .bundle
  slot : BitVec 3 := 0
  tepc : Option Word := none
  tbaddr : Word := 0
  ttick : Nat := 0
  tval : Word := 0
  deriving DecidableEq, Repr

/-! ## Results in flight (R60 to R64) -/

/-- The three forms of a CSR write (R341). -/
inductive CsrOp | write | set | clear
  deriving DecidableEq, Repr

/-- What a result does when it lands. -/
inductive Land
  | sreg (n : SReg) (v : Word)
  | greg (n : BitVec 4) (b : Bool)
  | hfield (h : HReg) (f : HField) (v : Word)
  | himage (h : HReg) (v : Handle)
  | hadv (h : HReg) (tail : Bool) (pos filled : Nat)   -- HADV's fields, from the handle as it stood at issue (R359)
  | engine (h : HReg) (tail : Bool) (k : Nat)         -- an engine's update of a ring, after what software lands there (R361)
  | mp (n : BitVec 3) (v : Word)
  | csr (op : CsrOp) (n : BitVec 12) (v : Word)
  | latch (k : VSlot) (v : Beat)
  | mask (k : VSlot) (m : BitVec 256)
  | push (slot : BitVec 3) (p : PortNo) (v : Beat) (bundle : Word) (issued : Nat)
  | fflags (f : BitVec 8)
  | bindPort (p : PortNo) (h : HReg) (wr peek : Bool)
  | unbindPort (p : PortNo)
  | portAdv (p : PortNo)                              -- a popped beat is consumed at the boundary (R77, R116)
  | vpub (h : HReg) (v : Word)                        -- BUFVER in [7:0], READERS in [15:8] (R163)
  | acquireBanks (k : BitVec 3) (banks : List Nat)
  | reseed (ctx : BitVec 16) (key ctr : BitVec 32)
  deriving DecidableEq, Repr

/-- A result in flight: its landing tick, its issue tick, the order of issue, the request whose data it awaits, its act. -/
structure Flight where
  due : Nat
  issued : Nat
  order : Nat
  req : Option Nat
  act : Land
  deriving DecidableEq, Repr

/-! ## Scalar requests (R63, R109, R129) -/

/-- What a scalar request does at its serialisation point. -/
inductive ReqKind
  | load (sx : Bool)
  | loadH (part : Nat)
  | storeH (part : Nat) (v : Word)
  | touch
  | loadFe (peek : Bool)
  | store (v : Word)
  | storeFe (v : Word)
  | atomic (op : AtomOp) (v : Word)
  | atomicRemote (op : AtomOp) (v : Word) (dest : Word) (level : BitVec 3)
  | cas (expected new : Word) (failAcq : Bool)
  | red (op : AtomOp) (v : Word)
  | grab
  | csrRemote (csr : BitVec 12)
  | vpub (h : HReg)
  deriving DecidableEq, Repr

/-- A translated address: the device physical address, and the leaf's V, RCA and ENC fields (R106). -/
structure Pa where
  pa : BitVec 40
  v : Bool
  rca : Bool
  enc : BitVec 4 := 0          -- the leaf's key domain (R106)
  deriving DecidableEq, Repr

/-- A request that the core has sent and that has not replied. -/
structure Req where
  id : Nat
  kind : ReqKind
  va : Word
  bytes : Nat
  ord : Order
  scope : Scope
  rcn : BitVec 4
  bundle : Word
  tick : Nat
  mode : Mode
  pa : Option Pa
  reply : Option Word
  gate : Option Nat            -- a release fence follows it, with this number: writes behind the fence wait for it (Table 6.5)
  txn : Option Nat             -- the number of the transaction open at issue (R153, R156)
  view : Option Nat            -- the snapshot in force at issue (R153)
  last : Nat := 0              -- the number of the last RED merged into it (R138)
  lost : Option Word := none   -- its data met an uncorrectable error at this address: MCHK before its landing tick (R254)
  atp : Word := 0              -- the address space it is translated in
  away : Bool := false         -- withdrawn at trap entry or at a switch: sent again at return (R246, R247)
  deriving DecidableEq, Repr

/-- The requests of the sequence manager (Tables 10.5 and 10.7). -/
inductive SqOp
  | get
  | node (sealing noNode : Bool)
  | mask | accept | commit | roll
  | admitSlot | preempt | resume | release | retire | pool
  deriving DecidableEq, Repr

/-- What holds the core between a bundle's issue and the next tick (R65, Table 3.2). -/
inductive Wait
  | none
  | arriveFirst (level : BitVec 3) (sync : Bool)      -- SYNC or ARRIVE one phase ahead (R325)
  | phase (level : BitVec 3) (target : BitVec 32)     -- SYNC until its phase completes
  | amorAhead (req : Req)                             -- AMOR one phase ahead (R136)
  | performed (req : Nat)                             -- STFE, a one-line commit, until performed or refused
  | flushed                                           -- RED with release: until the buffer is flushed
  | vbind (hd hs : HReg) (template : Handle) (sel : Word)
  | snap (d : SReg)
  | snapx (ids : List Nat)                            -- until its release is performed
  | tbegin (d : SReg)
  | tcommit (d : SReg)
  | tapx (d : SReg) (halt : Bool)
  | hwait (h : HReg) (bundle : Word)
  | requests (ids : List Nat)                         -- until these requests are performed: TLBI, the release of HADV
  | flush (sa len : Word) (instr : Bool) (ids : List Nat)   -- CFLUSH and CINV with I (R334)
  | portWritten (p : PortNo)                          -- UNBIND of a write port
  | sq (d : SReg) (op : SqOp) (a b : Word)            -- an SQM request until its reply (R215, R229)
  | exitDrain (n : BitVec 8) (leave : Bool) (last : Nat)   -- empty ticks up to the latest landing tick
  | emptyUntil (last : Nat)                               -- UNBIND, VPUB: empty ticks before issue (R67)
  | exitFinal (leave : Bool) (bundle : Word)
  | yield                                             -- the switch at the boundary (R395)
  deriving DecidableEq, Repr

/-- A register set with its own time: the context's, or the supervisor's (R246). -/
structure RegSet where
  pc : Word
  npc : Word
  s : Vector Word 64
  h : Vector Handle 32
  tick : Nat
  flights : List Flight
  reqs : List Req
  wait : Wait
  cur : Word          -- the bundle that issued last
  mid : Bool          -- the bundle of this tick has issued and the next tick has not come
  deriving DecidableEq, Repr

/-! ## The context -/

/-- A stream port (R80, R81, R419). `pos` counts beats fetched or pushed, `taken` beats popped or written. -/
structure Port where
  bound : Bool
  wr : Bool
  peek : Bool
  h : HReg
  pos : Nat
  taken : Nat
  beats : List Beat
  pushers : List (BitVec 3 × Word × Nat)     -- slot, bundle and tick of each pushed beat that waits
  fault : Option Trap
  popped : Option Beat
  deriving DecidableEq, Repr

/-- The transpose unit at work (R206): width code, source port and destination, beats taken, beats still to take. -/
structure Xpose where
  w : BitVec 2
  src : PortNo
  dst : PortNo
  beats : List Beat
  left : Nat
  order : Nat          -- the order of its first push among the results in flight
  deriving DecidableEq, Repr

/-- An accumulator region: its physical banks, band 0 first, and its version (R181, R183). -/
structure Region where
  banks : List Nat
  version : BitVec 8
  deriving DecidableEq, Repr

/-- An entry of the matrix call queue (R185, R188). -/
inductive CallEntry
  | call (routine expected : BitVec 8) (region : BitVec 3) (pop bump ignv : Bool) (mp : Vector Word 8)
      (named : List HReg) (hd : Option HReg) (bundle : Word) (tick order : Nat)     -- `order`: its place among the requests (R356)
  | mask (sa sb : Word) (bundle : Word) (tick : Nat)
  deriving DecidableEq, Repr

/-- A drain under way: its first band, the next row to write, the BUMPs that follow it, the offset of its word (R183, R186). -/
structure Drain where
  accsel : Nat
  nextRow : Nat
  bump : Nat
  off : Nat
  deriving DecidableEq, Repr

/-- Where the running word stands (R177, R175). -/
inductive WordStage | waiting | started
  deriving DecidableEq, Repr

/-- The call that runs: its entry, loop counts, word offset, stage, drains, and whether END has been reached. -/
structure Running where
  entry : CallEntry
  cnt : Vector Nat 8
  off : Nat
  stage : WordStage
  drains : List Drain
  ended : Bool
  deriving DecidableEq, Repr

/-- An entry of a weight buffer (R179): code width 1 to 3 for 2, 4 and 8 bits, codes as one byte each (row-major, 64 a row),
scale codes, super-scales and valid counts. -/
structure WbEntry where
  width : BitVec 2
  codes : BitVec 81920
  scales : BitVec 1280
  supers : BitVec 5120
  rows : Nat
  ks : Nat
  deriving DecidableEq, Repr

/-- A domain level as the context sees it (R41 to R45): expected count, completed phases, arrivals of the current and of the
next phase, the context's own arrivals not yet completed, arrivals kept back for their release, broken. -/
structure Dom where
  exp : BitVec 32
  phc : BitVec 32
  arrived : Nat
  ahead : Nat
  own : Nat
  held : List Nat              -- arrivals kept back for their release, by the requests issued before them
  pendingLeave : Nat
  near : Nat                   -- level 5 of a group: how many of `arrived` and of `ahead` are of other cores of this package (R278)
  nearAhead : Nat
  broken : Bool
  deriving DecidableEq, Repr

/-- The open transaction (R155, R156). -/
structure Txn where
  num : Nat                    -- no other transaction of the package has it: a TID is used again
  tid : BitVec 12
  tsnap : Nat
  doom : Option (BitVec 8)
  slices : BitVec 128
  lines : Nat
  deriving DecidableEq, Repr

/-- A commit under validation (R157). -/
structure Commit where
  stamp : Nat
  toValidate : List Nat
  toFinalise : List Nat
  abort : Bool
  deriving DecidableEq, Repr

/-- A tap under way (R234 to R237): number, rows whose write-back is to come as (row, SPM offset, bytes), status. -/
structure Tap where
  num : BitVec 16
  writes : List (Nat × Nat × List Byte)
  status : BitVec 8
  row : BitVec 8
  complete : Bool
  deriving DecidableEq, Repr

/-- A version-bound reader handle (R164): the handle, the header's address, the slot. -/
structure Bound where
  h : HReg
  header : Word
  slot : Nat
  deriving DecidableEq, Repr

/-- The CSRs saved with a context. -/
structure CtxCsr where
  fpcsr : BitVec 8
  atp : Word
  rcnt : BitVec 4
  mbxf : BitVec 8
  dmr : Word
  ccfg : Vector Word 8
  sqrole : BitVec 17
  tapgnt : Word
  stbase : BitVec 48
  stcnt : BitVec 16
  tapnext : BitVec 16
  oppctl : BitVec 24
  ecnt : Word
  ecbase : Word
  ectag : BitVec 16
  msimg : Word
  txc : Word
  deriving DecidableEq, Repr

/-- What reaches a context from outside and takes effect at its next tick boundary (R66, R75): a mailbox write, the count of a
completion. -/
inductive Later
  | mailbox (k : BitVec 3) (mask : BitVec 8) (v : Word)
  | count (n : BitVec 3) (inc : BitVec 32)
  deriving DecidableEq, Repr

/-- What the KDS still has to load before the context's next bundle (R420, R171): nothing, the micro-store, the task's images. -/
inductive LoadDue | none | store | task
  deriving DecidableEq, Repr

/-- A context (Table 12.3). -/
structure Ctx where
  id : BitVec 16
  kernel : Nat
  cls : BitVec 3
  pre : Bool
  rank : BitVec 8
  task : BitVec 8
  core : BitVec 8             -- core number (R15)
  pkg : BitVec 12
  runTime : Nat               -- 64 us units since the last allowance (R49)
  rs : RegSet
  csr : CtxCsr
  ports : Vector Port 32
  latches : Vector Beat 2
  masks : Vector (BitVec 256) 2
  statq : List Word
  rngq : List (BitVec 32)
  sqevq : List Word
  tapq : List Word
  msgin : List Word
  msgout : List Word
  hostq : List Word
  traceq : List Word
  rngKey : BitVec 32
  rngCtr : BitVec 32
  bundleRnd : Option (BitVec 32)   -- the word popped for the SRND users of this bundle (R92)
  xpose : Option Xpose
  mp : Vector Word 8
  ec : Vector (BitVec 32) 8
  doms : Vector Dom 6
  spm : Mem
  spmBanks : Nat
  full : List Nat
  acm : Mem
  acmBanks : List Nat
  regions : Vector (Option Region) 8
  calls : List CallEntry
  running : Option Running
  maskTile : Vector (BitVec 160) 128
  wb0 : List WbEntry
  wb1 : List WbEntry
  microWords : List (BitVec 64)
  microTable : List (BitVec 32)
  snap : Option Nat
  txn : Option Txn
  commit : Option Commit
  taps : List Tap
  bounds : List Bound
  sleep : Option (BitVec 40 × Word)       -- descheduled in WAITM until the word differs from the value (R54)
  boost : List (BitVec 3 × BitVec 40)     -- the classes donated to it, each until it writes the word (R54)
  pend : List Trap                        -- causes that await it while it does not run
  later : List Later                      -- what takes effect at its next tick boundary, oldest first
  load : LoadDue
  bankSet : Bool                          -- its registers stand in one of the core's four bank sets, not in its save area (R250)
  acmRes : List Nat                       -- those of its ACM banks that stand in the core
  spmRes : Nat                            -- its SPM banks that stand in the core: the logical banks below this number
  dead : Bool                             -- killed: it stays until the drains already issued are written (R251)
  gopp : BitVec 3                         -- the point its level-5 group has agreed (R278)
  carried : BitVec 3                      -- least token point carried to the running level-5 phase, and to the next
  carriedNext : BitVec 3
  estimate : Nat                          -- its energy estimate in the current ms, and the debit that absorbs increments (R280)
  debit : Nat
  deriving DecidableEq, Repr

/-! ## Copies (R191 to R200) -/

/-- The operations of a copy job. -/
inductive CopyOp
  | cpy (rcn : BitVec 4) (nsat cons : Bool)
  | cpyr (op : AtomOp)
  | gath
  | scat
  | bdrv (mask : BitVec 8)
  | blat (pos : BitVec 3)
  | wstr (wb1 : Bool) (mask : BitVec 2)
  | kvcp
  | cnta (inc : Nat)
  | logf (keep : Bool) (k : Nat)
  | skip (pos nb : Nat)        -- the report of a WSTR's skipped destination (R180)
  | broken (op : BitVec 5)     -- a chain record that cannot be read or breaks a rule (R199)
  | wstrIn (wb1 : Bool) (mask : BitVec 2)                    -- another core's WSTR that names this core (R179, R180)
  | bitmap (va : Word) (bits : BitVec 4096)                  -- the SQM's engine write of an ancestor bitmap (R219)
  deriving DecidableEq, Repr

/-- A chunk's failure (R198): cause, address, element, chunk, and the first chunk that had not started when the first failure was met. -/
structure CopyFail where
  cause : Cause
  va : Word
  elem : Nat
  chunk : Nat
  bound : Nat
  deriving DecidableEq, Repr

/-- What KVCP reads of its slot as it starts (R226): the address space, KVPT, CL and PPLOG. -/
structure KvPlace where
  atp : Word
  kvpt : Word
  first : Nat
  pplog : Nat
  deriving DecidableEq, Repr

/-- A copy that has issued and not completed. -/
structure Job where
  id : Nat
  op : CopyOp
  slot : CSlot
  ctx : BitVec 16
  atp : Word                   -- the address space at issue
  sup : Bool                   -- issued in S mode: its handle registers are the supervisor's
  bundle : Word
  src : Handle
  dst : Handle
  idx : Handle
  named : List HReg
  hs : Option HReg
  hd : Option HReg
  ctr : BitVec 3
  cfg : Word
  inc : Word                   -- what its completion adds
  ar : Bool
  before : Nat                 -- requests below this id were issued earlier (R140)
  view : Option Nat            -- the snapshot in force at issue (R153)
  chain : Option (BitVec 3 × Word)
  nch : Nat
  done : List Nat
  path : List Nat              -- KVCP: the accepted nodes and the acceptance read (R226)
  acc : Nat
  ready : Bool
  fail : Option CopyFail
  failed : List Nat            -- the chunks that failed
  addPending : Bool            -- every chunk done, the memory counter's ADD failed (R192)
  orphan : Bool                -- its context was killed (R251)
  kv : Option KvPlace := none  -- KVCP: where its rows go
  deriving DecidableEq, Repr

/-- A chain channel's state (R199): stopped, or the address of the next record. -/
structure Chain where
  walking : Bool
  next : Word
  bundle : Word
  ctx : BitVec 16
  atp : Word
  sup : Bool
  slot : CSlot
  deriving DecidableEq, Repr

/-- An armed broadcast latch (R202): the job that armed it, the driver, the next beat position. -/
structure BusLatch where
  job : Nat
  driver : BitVec 3
  beat : Nat
  deriving DecidableEq, Repr

/-! ## Versioned memory (R148 to R161) -/

inductive VState | tentative | locked | committed
  deriving DecidableEq, Repr

structure VEntry where
  stamp : Nat
  tid : BitVec 12
  st : VState
  data : BitVec 1024
  pool : Bool
  deriving DecidableEq, Repr

/-- A line's version chain, newest entry first. -/
structure VLine where
  line : BitVec 40
  entries : List VEntry
  deriving DecidableEq, Repr

/-- A TID in use by another agent, with its TSNAP. -/
structure ForeignTxn where
  tid : BitVec 12
  tsnap : Nat
  doomed : Bool
  deriving DecidableEq, Repr

/-! ## The sequence manager (R209 to R229) -/

/-- A binding crossing offered to the SQM (R237, R239). -/
structure Crossing where
  slot : BitVec 13
  node : BitVec 8
  pos : BitVec 32
  set : BitVec 6
  probe : BitVec 4
  action : BitVec 2
  layer : BitVec 7
  ctx : BitVec 16
  deriving DecidableEq, Repr

/-- An admitted slot: its descriptor and the address space of ADMIT, the order in which it became READY, its pending buffer, the
number of its acceptance, the position from which a HELD slot withholds tokens, the crossings that marked its nodes. -/
structure SqSlot where
  num : BitVec 12
  desc : Word
  atp : Word
  readyAt : Nat
  pending : List (BitVec 20 × BitVec 32)
  acc : Nat
  holdFrom : Option (BitVec 32)
  marks : List Crossing
  deriving DecidableEq, Repr

/-! ## The dispatcher (R28 to R57) -/

structure Queue where
  hdr : Word
  atp : Word
  home : BitVec 3              -- its home die (R34)
  deriving DecidableEq, Repr

inductive KState | waiting | ready | placed | ended
  deriving DecidableEq, Repr

structure Kernel where
  id : Nat
  queue : Nat
  atp : Word
  record : BitVec 1024
  entries : List (Word × Word × Word)   -- the task table as the check read it: entry, image, length
  st : KState
  age : Nat
  order : Nat
  targets : List Nat
  cores : List Nat
  placedAt : Nat               -- the order of placements
  live : List Nat
  clusterIds : List Nat        -- the IDs of its domains: level 1 by cluster, level 2 by die, level 3 (R40, R46)
  dieIds : List Nat
  packageId : Nat
  result : Word
  lastNotice : BitVec 8
  deriving DecidableEq, Repr

/-- A preloaded task: its kernel, the banks tagged for it and their image (R55). -/
structure Preload where
  kernel : Nat
  banks : Nat
  spm : Mem
  full : List Nat
  deriving DecidableEq, Repr

structure Range where
  next : BitVec 32
  rem : BitVec 32
  chunk : BitVec 16
  p : BitVec 8
  k : BitVec 4
  owner : BitVec 8
  deriving DecidableEq, Repr

/-! ## Translation and caches -/

structure TlbEntry where
  asid : BitVec 16
  va : BitVec 48
  bits : Nat                   -- log2 of the page size
  pa : BitVec 40
  flags : BitVec 9             -- leaf bits [8:0]
  enc : BitVec 4               -- the key domain (Table 5.3)
  deriving DecidableEq, Repr

structure L1Word where
  addr : BitVec 40
  value : Word
  owned : Bool
  owner : BitVec 16            -- the context whose store registered the word
  deriving DecidableEq, Repr

structure ICacheLine where
  pa : BitVec 40
  bits : BundleBits
  deriving DecidableEq, Repr

/-- A reader-counted line (R123, R124): its count and the contents of memory beneath. -/
structure Counted where
  line : BitVec 40
  count : Nat
  beneath : BitVec 1024
  deriving DecidableEq, Repr

/-! ## Power (R264 to R281) -/

structure Power where
  point : BitVec 3
  tgt : BitVec 3
  settling : Bool
  rem : Nat
  fresh : Option (Mode × BitVec 16 × Nat)   -- the tick that requested the window, by mode and context, until it ends: it does not count (R267)
  stage : BitVec 2
  granted : BitVec 3           -- the last granted request (R278)
  notices : List (Nat × BitVec 3)
  earlier : Option (BitVec 3)  -- the point before the notices in force (R279)
  lowered : Bool               -- an agreed point has lowered the core (R278)
  floor : BitVec 3
  held : BitVec 32
  group : BitVec 32
  pbgnt : BitVec 32
  pwt : Vector (BitVec 32) 8
  total : BitVec 15
  heldClk : BitVec 15
  split : BitVec 15
  lowRuns : Nat
  highRuns : Nat
  droop : Bool
  slowdown : Bool
  deriving DecidableEq, Repr

/-! ## Host, firmware and peers (R282 to R294) -/

structure PeerPort where
  member : BitVec 4
  up : Bool
  number : Nat
  replays : Nat
  deriving DecidableEq, Repr

structure StackBde where
  kvwb : BitVec 36
  kvwn : BitVec 20
  kvhb : BitVec 36
  kverr : Word
  deriving DecidableEq, Repr

structure HostIf where
  devst : BitVec 8
  apbase : BitVec 4
  feat : BitVec 256
  facc : BitVec 256
  pkgno : BitVec 12
  vpool : BitVec 6
  stg : BitVec 4
  accepted : BitVec 256        -- FACC as ARM committed it
  pool : BitVec 6              -- VPOOL as ARM committed it
  staging : BitVec 4           -- STG as ARM committed it
  package : BitVec 12          -- PKGNO as ARM committed it
  booterr : Word
  intst : BitVec 5
  inten : BitVec 5
  msix : Vector (BitVec 128) 5
  msixPending : BitVec 5
  msixOn : Bool                -- the MSI-X capability's enable and function mask (R286)
  msixMask : Bool
  messages : List (BitVec 3)   -- MSI-X vectors sent, oldest first
  nonce : BitVec 256
  attestReq : Bool
  attestDone : Bool
  report : List Byte
  recovery : Mem               -- the image that BAR4 holds
  firmware : Mem               -- the image last booted from BAR4, empty for the firmware store's own
  version : Nat                -- the fused minimum security version
  keyHash : BitVec 256         -- the fused hash of the public key (R290)
  digests : Vector (BitVec 256) 8   -- of the firmware that each die has booted (R290, R291)
  unlocked : Bool              -- signed firmware has granted debug unlock (R294)
  keys : Vector (BitVec 512) 16     -- the memory keys of the domains (R292)
  raised : Bool
  frozen : Bool
  thawed : BitVec 8            -- DEVST to return to when FREEZE is released
  deriving DecidableEq, Repr

/-- The trap CSRs (Table 12.2). -/
structure TrapCsr where
  tcause : BitVec 16
  tepc : BitVec 48
  tbaddr : BitVec 48
  ttick : Word
  tval : Word
  tvec : BitVec 48
  tscr : Word
  busy : Bool
  bken : Bool
  bkaddr : BitVec 48
  ctxsel : BitVec 22
  ctxcmd : Option (BitVec 2 × BitVec 16)
  skipBreak : Bool
  deriving DecidableEq, Repr

/-- A patrol scrubber (R293): the line it comes to next, stack-local, and its pass, which numbers the key version. -/
structure Scrub where
  pointer : BitVec 36
  pass : Nat
  deriving DecidableEq, Repr

/-- The copy fault record (Table 9.3). -/
structure FaultRec where
  valid : Bool
  cause : BitVec 8
  ctr : BitVec 3
  op : BitVec 5
  cfba : BitVec 48
  cfva : BitVec 48
  cfoff : Word
  nch : BitVec 32
  first : BitVec 32
  mask : Word
  job : Option Nat
  deriving DecidableEq, Repr

/-- The package as the subject core sees it. -/
structure State where
  agenda : List Instr          -- the steps to come, from outside and from the engines (log 1)
  draws : Nat                  -- the counter of the free values (log 5)
  lead : Nat                   -- the core's moves since an engine moved (log 5)
  seq : Nat                    -- the counter that numbers requests, jobs and results
  host : HostIf
  mem : Mem
  peerMem : Mem                -- keyed by member × 2^40 + device physical address
  peerWin : List (BitVec 4 × BitVec 40 × BitVec 40)
  peers : Vector PeerPort 16
  pexb : Word
  pexl : Word
  remoteFull : List Nat
  remoteAcm : List Nat         -- the ACM banks that regions of other cores hold, as 32 × core + bank (R114)
  counted : List Counted
  errorLog : List (BitVec 8 × Word)
  bde : Vector StackBde 8
  scrub : Vector Scrub 8
  poison : List (BitVec 40)    -- lines of memory whose data an uncorrectable error has hit (R254)
  soft : List (BitVec 40)      -- lines with a single-symbol error (R293)
  encTags : List (BitVec 40 × BitVec 4)   -- the key domain each line was last written under, none for a line not listed (R292)
  asleep : List (BitVec 40)    -- words that a descheduled context of another core has stored last (R54)
  tlb : List TlbEntry          -- the core's 256 entries
  dieTlb : List TlbEntry       -- the die's translation cache of 16,384 entries (R108)
  l1 : List L1Word
  icache : List ICacheLine
  chains : List VLine
  vsuLast : Nat
  vsuOpen : List Nat
  foreignSnaps : List Nat
  foreignTxns : List ForeignTxn
  foreignCommits : List (BitVec 12 × Commit)
  vrcl : Word
  vspl : Word
  sqSlots : List SqSlot
  pageStack : Option (Word × Word)
  evicted : List (Word × Nat)
  sqEvents : List (BitVec 16 × Word)   -- by context
  tevrWait : List (BitVec 256)
  crossings : List Crossing
  queues : List Queue
  kernels : List Kernel
  busy : List Nat
  ranges : Vector Range 64
  power : Power
  microTag : Nat               -- the kernel whose micro-image the store holds, 0 for none (R170, R171)
  coreNum : BitVec 8
  offline : Bool
  live : Bool
  mode : Mode
  ctx : Ctx
  parked : List Ctx
  preloaded : Option Preload
  sup : RegSet
  supBounds : List Bound       -- the reader handles that VBIND has bound in the supervisor set
  trap : TrapCsr
  pending : List Trap
  comb : List Req
  wctx : BitVec 16
  rgsel : BitVec 6
  rgbase : BitVec 32
  rgcfg : BitVec 28
  stdrop : Word
  frec : FaultRec
  tevr : BitVec 53
  ptbase : BitVec 48
  ptlog : BitVec 53
  probes : List Byte           -- the published probe table, 64 sets of 1,088 bytes (R230, R231)
  jobs : List Job
  chan : Vector Chain 8
  latches : List BusLatch
  busSeen : Vector Nat 8       -- beats each driver's running BDRV has driven to the core
  busMissed : BitVec 8         -- drivers whose running BDRV missed here: its later beats are dropped (R203)
  deriving DecidableEq, Repr

/-! ## Reset -/

def RegSet.reset : RegSet :=
  { pc := 0, npc := 0, s := (Vector.replicate 64 0).set 50 1, h := Vector.replicate 32 0, tick := 0, flights := [], reqs := [],
    wait := .none, cur := 0, mid := false }

def Port.unbound : Port :=
  { bound := false, wr := false, peek := false, h := 0, pos := 0, taken := 0, beats := [], pushers := [], fault := none,
    popped := none }

def Dom.reset : Dom :=
  { exp := 0, phc := 0, arrived := 0, ahead := 0, own := 0, held := [], pendingLeave := 0, near := 0, nearAhead := 0, broken := false }

def CtxCsr.reset : CtxCsr :=
  { fpcsr := 0, atp := 0, rcnt := 0, mbxf := 0, dmr := 3, ccfg := Vector.replicate 8 0, sqrole := 0, tapgnt := 0, stbase := 0,
    stcnt := 0, tapnext := 0, oppctl := 0, ecnt := 0, ecbase := 0, ectag := 0, msimg := 0, txc := 0 }

/-- The state of a context before its first bundle (Table 2.4), with nothing placed. -/
def Ctx.reset : Ctx :=
  { id := 0, kernel := 0, cls := 0, pre := false, rank := 0, task := 0, core := 0, pkg := 0, runTime := 0,
    rs := .reset, csr := .reset, ports := Vector.replicate 32 .unbound, latches := Vector.replicate 2 0, masks := Vector.replicate 2 0,
    statq := [], rngq := [], sqevq := [], tapq := [], msgin := [], msgout := [], hostq := [], traceq := [],
    rngKey := 0, rngCtr := 0, bundleRnd := none, xpose := none, mp := Vector.replicate 8 0, ec := Vector.replicate 8 0,
    doms := Vector.replicate 6 .reset, spm := [], spmBanks := 0, full := [], acm := [], acmBanks := [],
    regions := Vector.replicate 8 none, calls := [], running := none,
    maskTile := Vector.replicate 128 (BitVec.allOnes 160), wb0 := [], wb1 := [], microWords := [], microTable := [],
    snap := none, txn := none, commit := none, taps := [], bounds := [], sleep := none, boost := [], pend := [],
    later := [], load := .none, bankSet := false, acmRes := [], spmRes := 0, dead := false, gopp := 7, carried := 7,
    carriedNext := 7, estimate := 0, debit := 0 }

def HostIf.reset : HostIf :=
  { devst := 0, apbase := 0, feat := 0x3F, facc := 0, pkgno := 0, vpool := 0, stg := 0, accepted := 0, pool := 0,
    staging := 0, package := 0, booterr := 0, intst := 0, inten := 0, msix := Vector.replicate 5 (BitVec.ofNat 128 (2 ^ 96)), msixPending := 0,
    msixOn := false, msixMask := false, messages := [], nonce := 0, attestReq := false, attestDone := false, report := [], recovery := [], firmware := [], version := 0, keyHash := 0,
    digests := Vector.replicate 8 0, unlocked := false, keys := Vector.replicate 16 0, raised := false, frozen := false, thawed := 0 }

def Power.reset : Power :=
  { point := 0, tgt := 0, settling := false, rem := 0, fresh := none, stage := 0, granted := 0, notices := [], earlier := none, lowered := false, floor := 0, held := 0, group := 0, pbgnt := 0, pwt := Vector.replicate 8 0, total := 0, heldClk := 0,
    split := 0, lowRuns := 0, highRuns := 0, droop := false, slowdown := false }

def TrapCsr.reset : TrapCsr :=
  { tcause := 0, tepc := 0, tbaddr := 0, ttick := 0, tval := 0, tvec := 0, tscr := 0, busy := false, bken := false,
    bkaddr := 0, ctxsel := 0, ctxcmd := none, skipBreak := false }

def FaultRec.empty : FaultRec :=
  { valid := false, cause := 0, ctr := 0, op := 0, cfba := 0, cfva := 0, cfoff := 0, nch := 0, first := 0, mask := 0,
    job := none }

def Chain.idle : Chain := { walking := false, next := 0, bundle := 0, ctx := 0, atp := 0, sup := false, slot := .c0 }

/-- The machine right after reset: DEVST reads RESET, nothing is placed, memory lists nothing. -/
def State.reset : State :=
  { agenda := [], draws := 0, lead := 0, seq := 0, host := .reset, mem := [], peerMem := [], peerWin := [],
    peers := Vector.ofFn fun p => { member := BitVec.ofFin p, up := true, number := 0, replays := 0 },
    pexb := 0, pexl := 0, remoteFull := [], remoteAcm := [], counted := [], errorLog := [],
    bde := Vector.replicate 8 { kvwb := 0, kvwn := 0, kvhb := 0, kverr := 0 },
    scrub := Vector.replicate 8 ⟨0, 0⟩, poison := [], soft := [], encTags := [], asleep := [], tlb := [], dieTlb := [], l1 := [], icache := [], chains := [], vsuLast := 0, vsuOpen := [], foreignSnaps := [], foreignTxns := [],
    foreignCommits := [], vrcl := 0, vspl := 0, sqSlots := [], pageStack := none, evicted := [], sqEvents := [],
    tevrWait := [], crossings := [], queues := [], kernels := [], busy := [],
    ranges := Vector.replicate 64 { next := 0, rem := 0, chunk := 0, p := 0, k := 0, owner := 0 },
    power := .reset, microTag := 0, coreNum := 0, offline := false, live := false, mode := .u, ctx := .reset, parked := [],
    preloaded := none, sup := .reset, supBounds := [], trap := .reset, pending := [], comb := [], wctx := 0, rgsel := 0, rgbase := 0,
    rgcfg := 0, stdrop := 0, frec := .empty, tevr := 0, ptbase := 0, ptlog := 0, probes := [], jobs := [],
    chan := Vector.replicate 8 .idle, latches := [],
    busSeen := Vector.replicate 8 0, busMissed := 0 }

end Sys2Proof.Machine
end

