-- ==== Sys2Proof/Machine/Ops.lean ====
section
/-! DEFINITION. The named operations over registers, queues, results in flight and memory bytes, and the taking of a trap and the return
from one. -/

namespace Sys2Proof.Machine

/-! ## Lists and bytes -/

/-- Replace the first element that `p` accepts. -/
def updFirst {α : Type} (p : α → Bool) (f : α → α) : List α → List α
  | [] => []
  | x :: xs => if p x then f x :: xs else x :: updFirst p f xs

/-- The little-endian bytes of a number (R4). -/
def bytesOf : Nat → Nat → List Byte
  | 0, _ => []
  | n + 1, v => BitVec.ofNat 8 v :: bytesOf n (v / 256)

/-- The number whose little-endian bytes are the list. -/
def natOf : List Byte → Nat
  | [] => 0
  | b :: bs => b.toNat + 256 * natOf bs

/-! ## Memory as a canonical list -/

/-- A byte; an unlisted address reads 0 (log 2). -/
def Memory.get : Mem → Nat → Byte
  | [], _ => 0
  | (k, v) :: m, a => if a = k then v else if a < k then 0 else Memory.get m a

/-- Write one byte, keeping addresses rising and no entry 0. -/
def Memory.set : Mem → Nat → Byte → Mem
  | [], a, b => if b = 0 then [] else [(a, b)]
  | (k, v) :: m, a, b =>
    if a < k then (if b = 0 then (k, v) :: m else (a, b) :: (k, v) :: m)
    else if a = k then (if b = 0 then m else (a, b) :: m)
    else (k, v) :: Memory.set m a b

/-- Read consecutive bytes. -/
def Memory.read (m : Mem) (a : Nat) : Nat → List Byte
  | 0 => []
  | n + 1 => Memory.get m a :: Memory.read m (a + 1) n

/-- Write consecutive bytes. -/
def Memory.write (m : Mem) (a : Nat) : List Byte → Mem
  | [] => m
  | b :: bs => Memory.write (Memory.set m a b) (a + 1) bs

/-- The canonical form: addresses strictly rising, no entry equal to what an unlisted address reads as. -/
def Memory.wf : Mem → Bool
  | [] => true
  | [(_, v)] => v != 0
  | (k, v) :: (k', v') :: m => v != 0 && decide (k < k') && Memory.wf ((k', v') :: m)

/-- The number held in `n` bytes. -/
def Memory.num (m : Mem) (a n : Nat) : Nat := natOf (Memory.read m a n)
def Memory.setNum (m : Mem) (a n v : Nat) : Mem := Memory.write m a (bytesOf n v)

/-! ## Register sets -/

/-- The register set that the core runs on: the context's in U mode, the supervisor's in S mode (R246). -/
def State.rs (s : State) : RegSet :=
  match s.mode with
  | .u => s.ctx.rs
  | .s => s.sup

def State.setRs (s : State) (r : RegSet) : State :=
  match s.mode with
  | .u => { s with ctx := { s.ctx with rs := r } }
  | .s => { s with sup := r }

/-- Bits [7:0] of tid: the core number (R15); LVL from DMR (Table 3.4). -/
def Ctx.tid (c : Ctx) : Word :=
  let d := c.csr.dmr
  let lvl : BitVec 8 := 1 |||
    (if d.extractLsb' 16 8 != (0 : BitVec 8) then 2 else 0) ||| (if d.extractLsb' 24 8 != (0 : BitVec 8) then 4 else 0) |||
    (if d.extractLsb' 32 8 != (0 : BitVec 8) then 8 else 0) ||| (if d.extractLsb' 48 16 != (0 : BitVec 16) then 32 else 0)
  ((0#24 ++ c.rank ++ lvl ++ 0#4 ++ c.pkg ++ c.core : BitVec 64))

/-- The value of a register of a set that is no queue port; `c` gives the identity; bit 0 of gr reads 1, bits [63:16] of gr and sr read 0 (Table 3.3). -/
def RegSet.get (r : RegSet) (c : Ctx) (n : SReg) : Word :=
  if n = 0 then 0
  else if n = 52 then c.tid
  else if n = 53 then BitVec.ofNat 64 r.tick
  else if n = 54 then c.id.setWidth 64
  else if n = 50 then (r.s[50] &&& 0xFFFF) ||| 1
  else if n = 51 then r.s[51] &&& 0xFFFF
  else r.s[n.toNat]

/-- What a write leaves in a register (R62, Table 3.3): s0, tid, tick, ctx and the pop ports discard it. -/
def RegSet.set (r : RegSet) (n : SReg) (v : Word) : RegSet :=
  if n = 50 then { r with s := r.s.set n.toNat ((v &&& 0xFFFF) ||| 1) }
  else if n = 51 then { r with s := r.s.set n.toNat (v &&& 0xFFFF) }
  else if n = 0 ∨ n = 52 ∨ n = 53 ∨ n = 54 ∨ 56 ≤ n.toNat then r
  else { r with s := r.s.set n.toNat v }

/-- A register as an operand, pop ports aside. -/
def State.sreg (s : State) (n : SReg) : Word := s.rs.get s.ctx n

/-- A handle register. -/
def State.hreg (s : State) (h : HReg) : Handle := s.rs.h[h.toNat]

def RegSet.setH (r : RegSet) (h : HReg) (v : Handle) : RegSet := { r with h := r.h.set h.toNat v }

/-- Whether a guard code selects (R71). -/
def guardOn (g : Guard) (s : State) : Bool :=
  let n := g.extractLsb' 0 5
  let bit := if n < (16 : BitVec 5) then (s.sreg 50).getLsbD n.toNat else (s.sreg 51).getLsbD (n.toNat - 16)
  bit != g.getLsbD 5

/-! ## Queue ports (R70) -/

/-- Entries a queue port holds. -/
def queueDepth : Nat := 32

/-- The entries of a pop port. -/
def Ctx.queue (c : Ctx) (n : SReg) : List Word :=
  if n = 56 then c.statq else if n = 57 then c.rngq.map (·.setWidth 64) else if n = 58 then c.sqevq
  else if n = 59 then c.tapq else if n = 60 then c.msgin else []

def Ctx.popQueue (c : Ctx) (n : SReg) : Ctx :=
  if n = 56 then { c with statq := c.statq.tail } else if n = 57 then { c with rngq := c.rngq.tail }
  else if n = 58 then { c with sqevq := c.sqevq.tail } else if n = 59 then { c with tapq := c.tapq.tail }
  else if n = 60 then { c with msgin := c.msgin.tail } else c

def isPop (n : SReg) : Bool := 56 ≤ n.toNat && n.toNat ≤ 60
def isPush (n : SReg) : Bool := 61 ≤ n.toNat
def isQueue (n : SReg) : Bool := 56 ≤ n.toNat

/-- The entries of a push port. -/
def Ctx.pushQueue (c : Ctx) (n : SReg) : List Word :=
  if n = 61 then c.msgout else if n = 62 then c.hostq else if n = 63 then c.traceq else []

/-- Feature bits of FEAT and FACC (Table 15.2). -/
def featKVC : Nat := 0
def featTAPS : Nat := 1
def featPEER : Nat := 2
def featAUTO : Nat := 3
def featHOSTMEM : Nat := 4
def featTRACE : Nat := 5

/-- Whether ARM committed a feature (R284). -/
def State.feature (s : State) (n : Nat) : Bool := s.host.accepted.getLsbD n

/-- Push a result to a push port; traceq discards it while TRACE is not accepted (R70). -/
def State.pushOut (s : State) (n : SReg) (v : Word) : State :=
  let c := s.ctx
  if n = 61 then { s with ctx := { c with msgout := c.msgout ++ [v] } }
  else if n = 62 then { s with ctx := { c with hostq := c.hostq ++ [v] } }
  else if n = 63 then
    if s.feature featTRACE then { s with ctx := { c with traceq := c.traceq ++ [v] } } else s
  else s

/-- Whether a push port has room, `k` earlier pushes of this boundary counted. -/
def State.pushRoom (s : State) (n : SReg) (k : Nat) : Bool :=
  (n = 63 && !s.feature featTRACE) || (s.ctx.pushQueue n).length + k < queueDepth

/-! ## Operands of the S slot -/

/-- Operands in order, each naming of a pop port popping one entry (R70). -/
def operands : List SReg → State → List Word × State
  | [], s => ([], s)
  | n :: ns, s =>
    if isPop n then
      let v := (s.ctx.queue n).headD 0
      let (vs, t) := operands ns { s with ctx := s.ctx.popQueue n }
      (v :: vs, t)
    else
      let (vs, t) := operands ns s
      (s.sreg n :: vs, t)

/-- Whether every pop port named has an entry for each naming. -/
def operandsReady : List SReg → State → Bool
  | [], _ => true
  | n :: ns, s =>
    if isPop n then !(s.ctx.queue n).isEmpty && operandsReady ns { s with ctx := s.ctx.popQueue n }
    else operandsReady ns s

/-! ## Results in flight -/

/-- The snapshot an access takes at issue (R153): TSNAP inside a transaction, else VSNAP. -/
def Ctx.copyView (c : Ctx) : Option Nat :=
  match c.txn with
  | some t => some t.tsnap
  | none => c.snap

/-- Enter a result that lands `lat` ticks after this one (R60). -/
def State.inFlight (s : State) (lat : Nat) (a : Land) : State :=
  let r := s.rs
  { s.setRs { r with flights := r.flights ++ [⟨r.tick + lat, r.tick, s.seq, none, a⟩] } with seq := s.seq + 1 }

/-- Land a scalar result with latency `lat`. -/
def State.landS (s : State) (d : SReg) (lat : Nat) (v : Word) : State := s.inFlight lat (.sreg d v)

/-- The landing tick of a latency field (R63). -/
def latTicks (l : Lat) : Nat := (l.toNat % 16 + 1) * 2 ^ (2 * (l.toNat / 16))

/-! ## Causes (Table 12.1) -/

def Cause.code : Cause → BitVec 8
  | .illop => 0x01 | .illslot => 0x02 | .priv => 0x03 | .align => 0x04 | .tfault => 0x05 | .prot => 0x06 | .handle => 0x07
  | .port => 0x08 | .ring => 0x09 | .acm => 0x0A | .oppsettle => 0x0B | .barrier => 0x0C | .copyfault => 0x0D
  | .micro => 0x0E | .probehalt => 0x0F | .txstate => 0x10 | .vstate => 0x11 | .sq => 0x12 | .queue => 0x13
  | .busmiss => 0x14 | .svc => 0x18 | .trap => 0x19 | .break_ => 0x1A | .mchk => 0x20

def TrapKind.code : TrapKind → BitVec 2
  | .bundle => 0 | .boundary => 1 | .imprecise => 2 | .asynchronous => 3

/-- A bundle-kind trap of the running bundle. -/
def mkTrap (cause : Cause) (slot : BitVec 3) (tval : Word) : Trap := { cause := cause, slot := slot, tval := tval }

/-- A boundary-kind trap of an instruction issued at `bundle` and `tick`. -/
def mkBoundary (cause : Cause) (slot : BitVec 3) (bundle : Word) (tick : Nat) (tval : Word) : Trap :=
  { cause := cause, kind := .boundary, slot := slot, tbaddr := bundle, ttick := tick, tval := tval }

/-- MCHK of data that no scalar load reads: asynchronous, of no slot, with the physical address (Table 12.1). -/
def mkAsync (pa : Word) : Trap := { cause := .mchk, kind := .asynchronous, slot := 7, tval := pa }

/-- A trap found for the next tick boundary. -/
def State.pend (s : State) (t : Trap) : State := { s with pending := s.pending ++ [t] }
def State.pendOnce (s : State) (t : Trap) : State := if s.pending.contains t then s else s.pend t

/-! ## Taking a trap and returning (R246, R247) -/

/-- The bits of TCAUSE for a trap taken from U mode (Table 12.2). -/
def tcauseOf (t : Trap) : BitVec 16 := 0#3 ++ t.kind.code ++ t.slot ++ t.cause.code

/-- A reply that has arrived fills the results that await it. -/
def RegSet.deliver (r : RegSet) (id : Nat) (v : Word) : RegSet :=
  { r with
    flights := r.flights.map (fun f => if f.req = some id then
      { f with req := none, act := match f.act with
        | .sreg n _ => .sreg n v
        | .hfield h k _ => .hfield h k v
        | .vpub h _ => .vpub h v
        | a => a } else f),
    reqs := r.reqs.filter (·.id != id) }

/-- Loads that may be sent again after they were served; every other accepted request is never sent twice (R246). -/
def ReqKind.resent : ReqKind → Bool
  | .load _ | .loadH _ | .touch | .csrRemote _ => true
  | _ => false

/-- Plain stores, the header step of VPUB among them: once sent they stay with the memory system through a trap. -/
def ReqKind.plain : ReqKind → Bool
  | .store _ | .storeH _ _ | .vpub _ => true
  | _ => false

/-- Whether a trap is that of a request's access. -/
def Trap.ofReq (t : Trap) (q : Req) : Bool := t.kind == .boundary && t.slot == 0 && t.tbaddr == q.bundle && t.ttick == q.tick

/-- Withdraw requests: they are sent again at return. -/
def RegSet.withdraw (r : RegSet) (p : Req → Bool) : RegSet :=
  { r with reqs := r.reqs.map fun q => if p q then { q with pa := none, reply := none, lost := none, away := true } else q }

/-- What has replied and is never sent again delivers its data; a request whose data is lost has none (R246, R254). -/
def RegSet.reply (r : RegSet) : RegSet :=
  r.reqs.foldl (fun acc q => match q.reply with
    | some v => if q.kind.resent || q.lost.isSome then acc else acc.deliver q.id v
    | none => acc) r

/-- Trap entry's treatment of requests: accepted ones reply first, the others are withdrawn and sent again at return, but a plain store that has not
failed goes on (R246, R247); `found` are the traps found. -/
def RegSet.freeze (r : RegSet) (found : List Trap) : RegSet := r.reply.withdraw fun q => !q.kind.plain || found.any (·.ofReq q)

/-- What was withdrawn is sent again, in the address space that is now in force (R247). -/
def RegSet.resend (r : RegSet) (atp : Word) : RegSet :=
  { r with reqs := r.reqs.map fun q => if q.away then { q with away := false, atp := atp } else q }

/-- The address at which ERET resumes: the cause's own, the bundle of a final hold, or the first bundle not issued. -/
def RegSet.resumeAt (r : RegSet) (t : Trap) : Word :=
  match t.tepc with
  | some a => a
  | none => match r.wait with
    | .exitFinal _ b => b
    | .hwait _ b => b
    | _ => r.pc

/-- Whether a pending trap is that of an access which will be sent again, or of a beat that will be written again (R245, R419). -/
def Ctx.resends (c : Ctx) (t : Trap) : Bool :=
  t.kind == .boundary && (c.rs.reqs.any t.ofReq || c.ports.toList.any (·.fault == some t))

/-- TAKING A TRAP from U mode: the context freezes, the record is written, the core runs the handler in S mode (R246). -/
def State.enterTrap (s : State) (t : Trap) : State :=
  let r := s.ctx.rs
  let bundleKind := t.kind == .bundle
  { s with
    ctx := { s.ctx with rs := r.freeze (t :: s.pending), bundleRnd := none },
    pending := s.pending.filter fun p => !(p == t) && !(s.ctx.resends p),
    mode := .s,
    sup := { s.sup with pc := s.trap.tvec.setWidth 64, npc := s.trap.tvec.setWidth 64 },
    trap := { s.trap with
      tcause := tcauseOf t,
      tepc := (r.resumeAt t).setWidth 48,
      tbaddr := (if bundleKind then r.pc else t.tbaddr).setWidth 48,
      ttick := BitVec.ofNat 64 (if bundleKind then r.tick else if t.kind == .boundary then t.ttick else r.tick),
      tval := t.tval,
      busy := true } }

/-- A KDS notice: S mode with TCAUSE 0 and TVAL 1 OVERRUN or 2 DECIDE, CTXSEL naming the context (R250). -/
def State.enterNotice (s : State) (tval : Word) : State :=
  { s with
    ctx := { s.ctx with rs := s.ctx.rs.freeze s.pending },
    mode := .s,
    sup := { s.sup with pc := s.trap.tvec.setWidth 64, npc := s.trap.tvec.setWidth 64 },
    trap := { s.trap with tcause := 0, tepc := 0, tbaddr := 0, ttick := BitVec.ofNat 64 s.ctx.rs.tick, tval := tval, busy := true,
                          ctxsel := s.ctx.id.setWidth 22, ctxcmd := none } }

/-- A final hold goes on only where ERET returns to its own bundle (R348). -/
def RegSet.resume (r : RegSet) (a : Word) : RegSet :=
  match r.wait with
  | .exitFinal _ b => if b = a then r else { r with pc := a, npc := a, wait := .none, mid := false }
  | .hwait _ b => if b = a then r else { r with pc := a, npc := a, wait := .none }
  | .emptyUntil _ => if r.pc = a then r else { r with pc := a, npc := a, wait := .none }
  | _ => { r with pc := a, npc := a }

/-- The supervisor's tick ends as the core leaves S mode. -/
def RegSet.leave (r : RegSet) : RegSet := { r with tick := r.tick + 1, wait := .none, mid := false }

/-- THE RETURN from a trap: BUSY clears, the context resumes at TEPC in U mode; its first bundle is not matched by BKADDR (R247, R347). -/
def State.trapReturn (s : State) : State :=
  { s with
    mode := .u,
    sup := s.sup.leave,
    ctx := { s.ctx with rs := (s.ctx.rs.resume (s.trap.tepc.setWidth 64)).resend s.ctx.csr.atp, ports := s.ctx.ports.map fun p => { p with fault := none } },
    trap := { s.trap with busy := false, skipBreak := true } }

/-! ## Statistics records (R70, R207) -/

/-- A statq record's first word. -/
def statWord (code : BitVec 16) (engine detail : BitVec 8) : Word := 1#32 ++ detail ++ engine ++ code

/-- An event at statq: merged with the newest entry of the same code, source and detail, entered as two words, or dropped (R207).
statq holds 32 records of two words each. -/
def Ctx.post (c : Ctx) (code : BitVec 16) (engine detail : BitVec 8) (bundle : Word) : Ctx × Bool :=
  let w0 := statWord code engine detail
  let w1 : Word := BitVec.ofNat 16 c.rs.tick ++ bundle.extractLsb' 0 48
  let n := c.statq.length
  let newest := c.statq.getD (n - 2) 0
  if 2 ≤ n ∧ newest.extractLsb' 0 32 = w0.extractLsb' 0 32 ∧ newest.extractLsb' 32 32 ≠ BitVec.allOnes 32 then
    ({ c with statq := c.statq.set (n - 2) (newest + (1#32 ++ 0#32 : Word)) }, false)
  else if n + 2 ≤ 2 * queueDepth then ({ c with statq := c.statq ++ [w0, w1] }, false)
  else (c, true)

/-- Post an event of the running context; a dropped one counts in STDROP. -/
def State.post (s : State) (code : BitVec 16) (engine detail : BitVec 8) (bundle : Word) : State :=
  let (c, dropped) := s.ctx.post code engine detail bundle
  { s with ctx := c, stdrop := if dropped then s.stdrop + 1 else s.stdrop }

/-! ## Contexts -/

/-- The contexts of the core: the running one first, then the resident and saved ones. -/
def State.contexts (s : State) : List Ctx := if s.live then s.ctx :: s.parked else s.parked

def State.findCtx (s : State) (id : BitVec 16) : Option Ctx := s.contexts.find? (·.id == id)

/-- Change the context of an ID, wherever it stands. -/
def State.updCtx (s : State) (id : BitVec 16) (f : Ctx → Ctx) : State :=
  if s.live && s.ctx.id == id then { s with ctx := f s.ctx }
  else { s with parked := updFirst (·.id == id) f s.parked }

/-- The context in whose behalf the core entered S mode (R346, R374, R375): the trapped one, or at a notice the one that CTXSEL names; where CTXSEL names
no context of the core, the one that gave way (log 49). In U mode, the running one. -/
def State.behalf (s : State) : BitVec 16 :=
  match s.mode with
  | .u => s.ctx.id
  | .s =>
    let named : BitVec 16 := s.trap.ctxsel.extractLsb' 0 16
    if s.trap.tcause.extractLsb' 0 8 = (0 : BitVec 8) && s.parked.any (·.id == named) then named else s.ctx.id

def State.served (s : State) : Ctx :=
  if s.behalf = s.ctx.id then s.ctx else (s.parked.find? (·.id == s.behalf)).getD s.ctx

/-- Change the context in whose behalf the core executes. -/
def State.updServed (s : State) (f : Ctx → Ctx) : State :=
  if s.behalf = s.ctx.id then { s with ctx := f s.ctx } else { s with parked := updFirst (·.id == s.behalf) f s.parked }

/-- Act on one context as if it ran: the running one stands aside meanwhile. -/
def State.withCtx (s : State) (id : BitVec 16) (f : State → State) : State :=
  if s.live && s.ctx.id == id then f s
  else match s.parked.find? (·.id == id) with
    | none => s
    | some c =>
      let t := f { s with ctx := c, live := true, mode := .u, pending := c.pend, parked := s.parked ++ (if s.live then [s.ctx] else []) }
      let parked := updFirst (·.id == id) (fun _ => { t.ctx with pend := t.pending }) t.parked
      let here := s.live && parked.any (·.id == s.ctx.id)
      { t with ctx := if here then (parked.find? (·.id == s.ctx.id)).getD s.ctx else s.ctx, live := s.live, mode := s.mode, pending := s.pending,
               parked := if here then parked.filter (·.id != s.ctx.id) else parked }

/-- Act on the first context, the running one before the others, on which the act changes anything. -/
def State.anyCtx (s : State) (f : State → State) : State :=
  if s.live && f s != s then f s
  else match s.parked.find? (fun c => s.withCtx c.id f != s) with
    | some c => s.withCtx c.id f
    | none => s

/-- Post an event to the context of an ID. -/
def State.postTo (s : State) (id : BitVec 16) (code : BitVec 16) (engine detail : BitVec 8) (bundle : Word) : State :=
  match s.findCtx id with
  | none => s
  | some c =>
    let (c', dropped) := c.post code engine detail bundle
    { s.updCtx id (fun _ => c') with stdrop := if dropped then s.stdrop + 1 else s.stdrop }

/-! ## Launch records (Table 2.1) -/

/-- Word `i` of a kernel's record. -/
def Kernel.word (k : Kernel) (i : Nat) : Word := k.record.extractLsb' (64 * i) 64
def Kernel.ntask (k : Kernel) : Nat := ((k.word 0).extractLsb' 48 8).toNat
def Kernel.acmb (k : Kernel) : Nat := ((k.word 0).extractLsb' 38 5).toNat
def Kernel.spmb (k : Kernel) : Nat := ((k.word 0).extractLsb' 32 6).toNat
def Kernel.dies (k : Kernel) : Nat := ((k.word 0).extractLsb' 24 4).toNat
def Kernel.cpd (k : Kernel) : Nat := ((k.word 0).extractLsb' 20 3).toNat
def Kernel.cpc (k : Kernel) : Nat := ((k.word 0).extractLsb' 16 4).toNat
def Kernel.ndep (k : Kernel) : Nat := ((k.word 0).extractLsb' 8 4).toNat
def Kernel.pld (k : Kernel) : Bool := (k.word 0).getLsbD 4
def Kernel.pre (k : Kernel) : Bool := (k.word 0).getLsbD 3
def Kernel.cls (k : Kernel) : BitVec 3 := (k.word 0).extractLsb' 0 3
def Kernel.ttab (k : Kernel) : Word := ((k.word 1).extractLsb' 0 48).setWidth 64
def Kernel.mimg (k : Kernel) : Word := ((k.word 2).extractLsb' 0 48).setWidth 64
def Kernel.args (k : Kernel) : Word := ((k.word 3).extractLsb' 0 48).setWidth 64
def Kernel.done (k : Kernel) : Word := ((k.word 4).extractLsb' 0 48).setWidth 64
def Kernel.tlim (k : Kernel) : Nat := ((k.word 5).extractLsb' 32 16).toNat
def Kernel.gcnt (k : Kernel) : Nat := ((k.word 5).extractLsb' 16 16).toNat
def Kernel.gdom (k : Kernel) : BitVec 16 := (k.word 5).extractLsb' 0 16

def State.kernelOf (s : State) (c : Ctx) : Option Kernel := s.kernels.find? (·.id == c.kernel)

/-- NTASK of the running kernel; 0 with no kernel. -/
def State.ntask (s : State) : Nat := match s.kernelOf s.ctx with | some k => k.ntask | none => 0

/-- The kernel that runs on another core: the one placed there last. -/
def State.occupant (s : State) (core : Nat) : Option Kernel :=
  (s.kernels.filter fun (k : Kernel) => k.st == KState.placed && k.live.contains core).foldl (fun (b : Option Kernel) k => match b with
    | some x => if x.placedAt < k.placedAt then some k else some x
    | none => some k) none

/-! ## Handles (Tables 3.5 and 8.5) -/

abbrev hBase (h : Handle) : Word := (h.extractLsb' 0 48).setWidth 64
abbrev hKind (h : Handle) : Nat := (h.extractLsb' 48 4).toNat
abbrev hEtypeBits (h : Handle) : BitVec 4 := h.extractLsb' 52 4
abbrev hFE (h : Handle) : Bool := h.getLsbD 56
abbrev hVERS (h : Handle) : Bool := h.getLsbD 57
abbrev hWRAP (h : Handle) : Bool := h.getLsbD 58
abbrev hRC (h : Handle) : Bool := h.getLsbD 59
abbrev hDim0 (h : Handle) : Nat := (h.extractLsb' 64 16).toNat
abbrev hDim1 (h : Handle) : Nat := (h.extractLsb' 80 16).toNat
abbrev hDim2 (h : Handle) : Nat := (h.extractLsb' 96 16).toNat
abbrev hStride1 (h : Handle) : Int := (h.extractLsb' 112 32).toInt
abbrev hStride2 (h : Handle) : Int := (h.extractLsb' 144 32).toInt
abbrev hSlotsz (h : Handle) : Nat := (h.extractLsb' 176 16).toNat
abbrev hNslot (h : Handle) : Nat := (h.extractLsb' 192 8).toNat
abbrev hHead (h : Handle) : Nat := (h.extractLsb' 200 8).toNat
abbrev hTail (h : Handle) : Nat := (h.extractLsb' 208 8).toNat
abbrev hFilled (h : Handle) : Nat := (h.extractLsb' 216 8).toNat
abbrev hBufver (h : Handle) : Nat := (h.extractLsb' 224 8).toNat
abbrev hReaders (h : Handle) : Nat := (h.extractLsb' 232 8).toNat

/-- Replace `len` bits from bit `lo`. -/
def setBits {n : Nat} (w : BitVec n) (lo len : Nat) (v : Nat) : BitVec n :=
  (w &&& ~~~(BitVec.ofNat n ((2 ^ len - 1) * 2 ^ lo))) ||| BitVec.ofNat n ((v % 2 ^ len) * 2 ^ lo)

/-- Where a handle field lies, and whether HGET sign-extends it (R300, R360). -/
def HField.place : HField → Nat × Nat × Bool
  | .base => (0, 48, false) | .kind => (48, 4, false) | .etype => (52, 4, false) | .flags => (56, 4, false)
  | .dim0 => (64, 16, false) | .dim1 => (80, 16, false) | .dim2 => (96, 16, false)
  | .stride1 => (112, 32, true) | .stride2 => (144, 32, true)
  | .slotsz => (176, 16, false) | .nslot => (192, 8, false) | .head => (200, 8, false) | .tail => (208, 8, false)
  | .filled => (216, 8, false) | .bufver => (224, 8, false) | .readers => (232, 8, false)
  | .word0 => (0, 64, false) | .word1 => (64, 64, false) | .word2 => (128, 64, false) | .word3 => (192, 64, false)

/-- A field of a handle as HGET lands it. -/
def getField (h : Handle) (f : HField) : Word :=
  let (lo, len, sx) := HField.place f
  let v := (h.toNat / 2 ^ lo) % 2 ^ len
  if sx then BitVec.ofInt 64 (if 2 ^ (len - 1) ≤ v then (v : Int) - (2 ^ len : Nat) else v) else BitVec.ofNat 64 v

/-- A handle with one field replaced by the low bits of a value. -/
def setField (h : Handle) (f : HField) (v : Word) : Handle :=
  let (lo, len, _) := HField.place f
  setBits h lo len v.toNat

/-- The checks of R79: KIND listed, reserved fields 0. -/
def handleOk (h : Handle) : Bool :=
  let k := hKind h
  1 ≤ k && k ≤ 8 && h.extractLsb' 240 16 == (0 : BitVec 16) && h.extractLsb' 60 4 == (0 : BitVec 4)
    && (k != 4 || h.extractLsb' 176 80 == (0 : BitVec 80))

/-- The ring rule of R244: HEAD and TAIL below NSLOT, FILLED at most NSLOT. -/
def ringOk (h : Handle) : Bool := hKind h != 2 || (hHead h < hNslot h && hTail h < hNslot h && hFilled h ≤ hNslot h)

/-- Consume `k` slots at HEAD; fill `k` slots at TAIL. -/
def ringPop (k : Nat) (h : Handle) : Handle :=
  let n := if hNslot h = 0 then 1 else hNslot h
  setBits (setBits h 200 8 ((hHead h + k) % n)) 216 8 (hFilled h - k)
def ringPush (k : Nat) (h : Handle) : Handle :=
  let n := if hNslot h = 0 then 1 else hNslot h
  setBits (setBits h 208 8 ((hTail h + k) % n)) 216 8 (hFilled h + k)

/-- One end of a ring goes on by `k` slots: TAIL, or HEAD. -/
def ringStep (tail : Bool) (k : Nat) : Handle → Handle := if tail then ringPush k else ringPop k

/-- The results due at the running tick. -/
def RegSet.due (r : RegSet) : List Flight := r.flights.filter fun f => decide (f.due ≤ r.tick)

/-- Whether a result is software's write of a handle register. -/
def Land.writesH (h : HReg) : Land → Bool
  | .hfield g _ _ | .himage g _ | .hadv g _ _ _ | .vpub g _ => g == h
  | _ => false

/-- An engine updates a ring at a tick boundary (R77); where software writes the register at the same one, the update is added after it (R361). -/
def RegSet.engineH (r : RegSet) (h : HReg) (tail : Bool) (k : Nat) : RegSet :=
  match r.flights.find? fun f => f.act.writesH h && decide (f.due ≤ r.tick + r.mid.toNat) with
  | some f => { r with flights := r.flights ++ [{ f with req := none, act := .engine h tail k }] }
  | none => r.setH h (ringStep tail k r.h[h.toNat])

def Ctx.updH (c : Ctx) (h : HReg) (tail : Bool) (k : Nat) : Ctx := { c with rs := c.rs.engineH h tail k }

/-- The low `w` bits of `n`, sign-extended to 64. -/
def sext (w n : Nat) : Word := BitVec.ofInt 64 (if 2 ^ (w - 1) ≤ n % 2 ^ w then ((n % 2 ^ w : Nat) : Int) - (2 ^ w : Nat) else (n % 2 ^ w : Nat))

end Sys2Proof.Machine
end

