-- ==== Sys2Proof/Machine/CsrRead.lean ====
section
/-! DEFINITION. What a CSR reads as, field by field, and which accesses the mode may make (R342): the tables of chapters 2 to 15. -/

namespace Sys2Proof.Machine

/-! ## Stamps (R148, R161) -/

/-- The completed mark K: every stamp up to it is complete (R148). -/
def State.completedMark (s : State) : Nat :=
  match s.vsuOpen with
  | [] => s.vsuLast
  | o :: os => (os.foldl min o) - 1

/-- The stamps that hold the low-water mark back: snapshots, open transactions, copies in flight. -/
def State.liveStamps (s : State) : List Nat :=
  s.contexts.filterMap (·.snap) ++ s.contexts.filterMap (fun c => c.txn.map (·.tsnap)) ++ s.foreignSnaps
    ++ s.foreignTxns.map (·.tsnap) ++ s.jobs.filterMap (·.view)

/-- The low-water mark LWM (R161). -/
def State.lwm (s : State) : Nat :=
  match s.liveStamps with
  | [] => s.completedMark
  | o :: os => os.foldl min o

/-- Entries of every chain that stand in the HBM pool. -/
def State.poolEntries (s : State) : Nat := (s.chains.map fun l => (l.entries.filter (·.pool)).length).foldl (· + ·) 0

/-! ## Operating-point limits (R265, R276, R278, R279) -/

/-- The token point: the highest point whose module watts the tokens held cover, else 0 (R276). -/
def State.tokenPoint (s : State) : BitVec 3 :=
  (List.range 8).foldl (fun best p => if (s.power.pwt.toList.getD p 0).toNat ≤ s.power.held.toNat then BitVec.ofNat 3 p else best) 0

/-- The lowest point that a notice in force names, 7 with none. -/
def State.thermPoint (s : State) : BitVec 3 := s.power.notices.foldl (fun m n => if n.2 < m then n.2 else m) 7

def min3 (a b : BitVec 3) : BitVec 3 := if b < a then b else a

/-- The group point of a context that is in a level-5 domain, 7 of any other (R265, R278). -/
def Ctx.groupPoint (c : Ctx) : BitVec 3 := if c.csr.dmr.extractLsb' 48 16 != (0 : BitVec 16) then c.gopp else 7

/-- The group point that binds the core: its running context's. -/
def State.groupLimit (s : State) : BitVec 3 := if s.live then s.ctx.groupPoint else 7

/-- The core's ceiling (R265). -/
def State.ceiling (s : State) : BitVec 3 := min3 (min3 s.tokenPoint s.thermPoint) s.groupLimit

/-- The ceiling with the floor applied: the floor wins (R265). -/
def State.limit (s : State) : BitVec 3 := if s.ceiling < s.power.floor then s.power.floor else s.ceiling

/-- A point within the limits. -/
def State.within (s : State) (p : BitVec 3) : BitVec 3 := if s.limit < p then s.limit else if p < s.power.floor then s.power.floor else p

/-- A change by the power controller: it ends a settling window and takes effect at the boundary (R269). -/
def State.pwcPoint (s : State) (p : BitVec 3) : State :=
  { s with power := { s.power with point := p, settling := false, rem := 0, fresh := none } }

/-- The highest point that the core runs at or settles toward. -/
def Power.reach (p : Power) : BitVec 3 := if p.settling && decide (p.point < p.tgt) then p.tgt else p.point

/-- Whether the group point is what keeps the core down. -/
def State.groupBinds (s : State) : Bool := decide (s.groupLimit < min3 s.tokenPoint s.thermPoint)

/-- A core that runs or settles above the ceiling goes to it (R265, R269); one that the group point lowers is remembered (R278). -/
def State.applyCeiling (s : State) : State :=
  if s.limit < s.power.reach then ({ s with power := { s.power with lowered := s.power.lowered || s.groupBinds } } : State).pwcPoint s.limit
  else s

/-! ## Matrix and tap status -/

def CallEntry.routineNo : CallEntry → Nat
  | .call r .. => r.toNat
  | .mask .. => 0

/-- Calls queued or running: MASKLD entries take a place of the queue as well (R185). -/
def Ctx.callCount (c : Ctx) : Nat := c.calls.length + (if c.running.isSome then 1 else 0)

/-- Bits of a number placed at a position. -/
def at_ (v lo : Nat) : Nat := v * 2 ^ lo

/-! ## The CSR map -/

/-- CSR `n` of context `c`, every field (Tables 2.5 to 14.2). Fields of units the core shares come from the state. -/
def csrValue (s : State) (c : Ctx) (n : Nat) : Word :=
  let k := c.csr
  let w := BitVec.ofNat 64
  if n = 0x008 then k.fpcsr.setWidth 64
  else if n = 0x010 then k.dmr
  else if 0x018 ≤ n ∧ n ≤ 0x01D ∧ n ≠ 0x01C then (c.doms.toList.getD (n - 0x018) Dom.reset).phc.setWidth 64
  else if 0x020 ≤ n ∧ n ≤ 0x025 ∧ n ≠ 0x024 then (c.doms.toList.getD (n - 0x020) Dom.reset).exp.setWidth 64
  else if n = 0x030 then s.rgsel.setWidth 64
  else if n = 0x031 then s.rgbase.setWidth 64
  else if n = 0x032 then s.ranges[s.rgsel.toNat].rem.setWidth 64
  else if n = 0x033 then s.rgcfg.setWidth 64
  else if n = 0x040 then k.mbxf.setWidth 64
  else if n = 0x050 then k.atp
  else if n = 0x051 then s.wctx.setWidth 64
  else if n = 0x053 then k.rcnt.setWidth 64
  else if n = 0x100 then k.msimg
  else if n = 0x101 then w (at_ c.wb1.length 4 + c.wb0.length)
  else if n = 0x102 then
    match c.running with
    | some r => w (at_ r.entry.routineNo 16 + at_ r.off 8 + c.callCount)
    | none => w c.callCount
  else if 0x200 ≤ n ∧ n ≤ 0x207 then k.ccfg.toList.getD (n - 0x200) 0
  else if 0x208 ≤ n ∧ n ≤ 0x20F then (c.ec.toList.getD (n - 0x208) 0).setWidth 64
  else if n = 0x210 then
    w (at_ (if s.frec.valid then 1 else 0) 63 + at_ s.frec.cause.toNat 8 + at_ s.frec.ctr.toNat 5 + s.frec.op.toNat)
  else if n = 0x211 then s.frec.cfba.setWidth 64
  else if n = 0x212 then s.frec.cfva.setWidth 64
  else if n = 0x213 then s.frec.cfoff
  else if n = 0x214 then s.frec.nch ++ s.frec.first
  else if n = 0x215 then s.frec.mask
  else if n = 0x217 then s.stdrop
  else if n = 0x300 then
    let t := match c.txn with
      | some t => at_ 1 62 + (match t.doom with | some d => at_ 1 61 + at_ d.toNat 48 | none => 0) + t.tid.toNat
      | none => 0
    w (at_ (if c.snap.isSome then 1 else 0) 63 + t)
  else if n = 0x301 then w (c.snap.getD 0)
  else if n = 0x302 then w ((c.txn.map (·.tsnap)).getD 0)
  else if n = 0x303 then k.txc
  else if n = 0x304 then w s.completedMark
  else if n = 0x305 then w s.lwm
  else if n = 0x306 then s.vrcl
  else if n = 0x307 then s.vspl
  else if n = 0x308 then w (128 * s.poolEntries)
  else if n = 0x310 then k.sqrole.setWidth 64
  else if n = 0x320 then k.tapgnt
  else if n = 0x321 then k.stbase.setWidth 64
  else if n = 0x322 then k.stcnt.setWidth 64
  else if n = 0x323 then w (at_ (c.taps.length % 8) 16 + k.tapnext.toNat)
  else if n = 0x324 then s.tevr.setWidth 64
  else if n = 0x400 then
    w (at_ s.power.rem 16 + at_ s.power.stage.toNat 8 + at_ (if s.power.settling then 1 else 0) 7 + at_ s.power.tgt.toNat 4
      + s.power.point.toNat)
  else if n = 0x401 then k.oppctl.setWidth 64
  else if n = 0x402 then w (at_ s.power.split.toNat 32 + at_ s.power.heldClk.toNat 16 + s.power.total.toNat)
  else if n = 0x403 then
    w (at_ s.thermPoint.toNat 12 + at_ (if s.live then c.groupPoint else 7).toNat 8
      + at_ s.tokenPoint.toNat 4 + s.power.floor.toNat)
  else if n = 0x404 then s.power.group ++ s.power.held
  else if n = 0x410 then k.ecnt
  else if n = 0x411 then k.ecbase
  else if n = 0x412 then k.ectag.setWidth 64
  else if n = 0x500 then s.trap.tcause.setWidth 64
  else if n = 0x501 then s.trap.tepc.setWidth 64
  else if n = 0x502 then s.trap.tbaddr.setWidth 64
  else if n = 0x503 then s.trap.ttick
  else if n = 0x504 then s.trap.tval
  else if n = 0x505 then s.trap.tvec.setWidth 64
  else if n = 0x506 then s.trap.tscr
  else if n = 0x507 then (if s.trap.busy then 1 else 0)
  else if n = 0x508 then w (at_ (if s.trap.bken then 1 else 0) 63 + s.trap.bkaddr.toNat)
  else if n = 0x509 then s.trap.ctxsel.setWidth 64
  else if n = 0x50A then
    let k : SReg := s.trap.ctxsel.extractLsb' 16 6
    match s.findCtx (s.trap.ctxsel.extractLsb' 0 16) with
    | some c => if isQueue k then 0 else c.rs.get c k
    | none => 0
  else if n = 0xF10 then s.ptbase.setWidth 64
  else if n = 0xF11 then s.ptlog.setWidth 64
  else if n = 0xF20 then (s.bde.toList.getD (s.coreNum.toNat / 32) { kvwb := 0, kvwn := 0, kvhb := 0, kverr := 0 }).kvwb.setWidth 64
  else if n = 0xF21 then if s.feature featKVC then (s.bde.toList.getD (s.coreNum.toNat / 32) { kvwb := 0, kvwn := 0, kvhb := 0, kverr := 0 }).kvwn.setWidth 64 else 0
  else if n = 0xF22 then (s.bde.toList.getD (s.coreNum.toNat / 32) { kvwb := 0, kvwn := 0, kvhb := 0, kverr := 0 }).kvhb.setWidth 64
  else if n = 0xF23 then (s.bde.toList.getD (s.coreNum.toNat / 32) { kvwb := 0, kvwn := 0, kvhb := 0, kverr := 0 }).kverr
  else if n = 0xF30 then s.power.floor.setWidth 64
  else if n = 0xF31 then s.power.pbgnt.setWidth 64
  else if 0xF38 ≤ n ∧ n ≤ 0xF3F then (s.power.pwt.toList.getD (n - 0xF38) 0).setWidth 64
  else if n = 0xF40 then s.pexb
  else if n = 0xF41 then s.pexl
  else 0

/-! ## Access (R342) -/

/-- Whether U mode may read a field of the CSR. -/
def csrUReads (n : Nat) : Bool :=
  n != 0x050 && !(0x210 ≤ n && n ≤ 0x216) && n != 0x324 && !(0x500 ≤ n && n ≤ 0x50B) && n < 0xF00

/-- Whether U mode may write a field of the CSR by CSRW or CSRS. -/
def csrUWrites (n : Nat) : Bool :=
  n == 0x008 || n == 0x010 || (0x030 ≤ n && n ≤ 0x033) || n == 0x052 || n == 0x053 || (0x200 ≤ n && n ≤ 0x20F)

/-- The trap of a CSR access in the current mode: PRIV, with the number. CSRC may clear MBXF in U mode (R76). -/
def csrTrap (s : State) (write clear : Bool) (n : BitVec 12) : Option Trap :=
  let k := n.toNat
  let denied := match s.mode with
    | .u => if write then !(csrUWrites k || (clear && k == 0x040)) else !csrUReads k
    | .s => false
  if denied || 0xF00 ≤ k then some (mkTrap .priv 0 (n.setWidth 64)) else none

/-- What a read of the CSR returns in the current mode. -/
def csrRead (s : State) (n : BitVec 12) : Word := csrValue s s.ctx n.toNat

end Sys2Proof.Machine
end

