-- ==== Sys2Proof/Machine/Memory.lean ====
section
/-! DEFINITION. Memory as programs see it (chapter 5): the device physical map, page tables and translation, core windows, the checks of an
access, full/empty granules, word ownership and reader-counted lines. -/

namespace Sys2Proof.Machine

/-! ## The device physical map (Table 5.5) -/

/-- A part of a core window (Table 5.6). -/
inductive WinPart
  | spm (off : Nat)
  | acm (off : Nat)          -- offset within the ACM, bank k from 0x2800 × k
  | reg (k off : Nat)
  | csr (n off : Nat)
  | unassigned
  deriving DecidableEq, Repr

/-- Where a physical address falls. -/
inductive Place
  | hbm
  | host
  | staging (off : Nat)
  | window (core off : Nat)
  | unassigned
  deriving DecidableEq, Repr

def placeOf (pa : Nat) : Place :=
  if pa < 0x8000000000 then .hbm
  else if pa < 0xC000000000 then .host
  else if 0xFD00000000 ≤ pa ∧ pa < 0xFD80000000 then .staging (pa % 2 ^ 24)
  else if 0xFE00000000 ≤ pa ∧ pa < 0xFE80000000 then
    .window ((pa - 0xFE00000000) / 2 ^ 28 * 32 + (pa / 2 ^ 23) % 32) (pa % 2 ^ 23)
  else .unassigned

def winPart (off : Nat) : WinPart :=
  if off < 0x400000 then .spm off
  else if off < 0x43C000 then .acm (off - 0x400000)
  else if 0x480000 ≤ off ∧ off < 0x480200 then .reg ((off - 0x480000) / 8) (off % 8)
  else if 0x488000 ≤ off ∧ off < 0x490000 then .csr ((off - 0x488000) / 8) (off % 8)
  else .unassigned

/-- The base of a core's window. -/
def windowBase (core : Nat) : Nat := 0xFE00000000 + core / 32 * 2 ^ 28 + core % 32 * 2 ^ 23

/-- The cell a striped HBM address reaches, named by its local-view address (R110). -/
def canonPa (striped : Bool) (pa : Nat) : Nat :=
  if striped ∧ pa < 0x8000000000 then (pa / 2 ^ 12 % 8) * 2 ^ 36 + (pa / 2 ^ 15) * 2 ^ 12 + pa % 2 ^ 12 else pa

def bankBytes : Nat := 131072
def acmBankBytes : Nat := 0x2800

/-- The context that the core's window shows (R113). -/
def State.windowCtx (s : State) : Option Ctx := s.findCtx s.wctx

/-! ## Bytes at physical addresses -/

/-- The bytes of a 64-bit value from byte `off`. -/
def wordBytes (v : Word) (off n : Nat) : List Byte := bytesOf n (v.toNat / 256 ^ off)

/-! ### Mailboxes and completion counts (R66, R75, R76) -/

/-- A mailbox write (R75, R76): the named bytes of s(40 + k) and its arrival bit. -/
def Ctx.mailbox (c : Ctx) (k : Nat) (mask : BitVec 8) (v : Word) : Ctx :=
  let old := c.rs.s.toList.getD (40 + k) 0
  let m : Nat := (List.range 8).foldl (fun a i => if mask.getLsbD i then a + 0xFF * 256 ^ i else a) 0
  let mw := BitVec.ofNat 64 m
  { c with rs := c.rs.set (BitVec.ofNat 6 (40 + k)) ((old &&& ~~~mw) ||| (v &&& mw)),
           csr := { c.csr with mbxf := c.csr.mbxf ||| BitVec.ofNat 8 (2 ^ k) } }

/-- What waits for the boundary takes effect; a mailbox in which a local result of the boundary has landed keeps that and takes the arrival
bit alone (R62). -/
def Ctx.takeLater (local' : List Nat) (c : Ctx) : Later → Ctx
  | .mailbox k m v => c.mailbox k.toNat (if local'.contains (40 + k.toNat) then 0 else m) v
  | .count n inc => { c with ec := c.ec.set n.toNat (c.ec[n.toNat] + inc) }

/-- All that waits for the boundary, oldest first. -/
def Ctx.takeAll (local' : List Nat) (c : Ctx) : Ctx := c.later.foldl (Ctx.takeLater local') { c with later := [] }

/-- A mailbox write or a count reaches a context: the running one takes it at its next tick boundary, one that does not run in its saved
state, after what is due there and waits for a late result (R66, R75, R247, R343). -/
def State.deliverLater (s : State) (id : BitVec 16) (l : Later) : State :=
  s.updCtx id fun c =>
    if (s.live && s.mode == .u && s.ctx.id == id) || !c.later.isEmpty || !c.rs.due.isEmpty then { c with later := c.later ++ [l] } else c.takeLater [] l

/-! ### The KV window (R255 to R260) -/

def State.bdeOf (s : State) (stack : Nat) : StackBde := s.bde.toList.getD stack { kvwb := 0, kvwn := 0, kvhb := 0, kverr := 0 }

/-- Whether any stack has a window. -/
def State.kvAny (s : State) : Bool := s.bde.toList.any fun b => b.kvwn != 0

/-- Page headers of the KV windows: the page of a header word, if the cell is one, and the offset in the header (R255). -/
def State.kvHeaderPage (s : State) (pa : Nat) : Option (Nat × Nat) :=
  if pa < 0x8000000000 then
    let st := pa / 2 ^ 36
    let b := s.bdeOf st
    let l := pa % 2 ^ 36
    if b.kvhb.toNat ≤ l ∧ l < b.kvhb.toNat + 64 * b.kvwn.toNat then
      some (st * 2 ^ 36 + b.kvwb.toNat + (l - b.kvhb.toNat) / 64 * 65536, (l - b.kvhb.toNat) % 64)
    else none
  else none

/-- The header of the window page that holds a cell, and the cell's offset in the page. -/
def State.kvPageHeader (s : State) (pa : Nat) : Option (Nat × Nat) :=
  if pa < 0x8000000000 then
    let st := pa / 2 ^ 36
    let b := s.bdeOf st
    let l := pa % 2 ^ 36
    if b.kvwb.toNat ≤ l ∧ l < b.kvwb.toNat + 65536 * b.kvwn.toNat then
      some (st * 2 ^ 36 + b.kvhb.toNat + (l - b.kvwb.toNat) / 65536 * 64, (l - b.kvwb.toNat) % 65536)
    else none
  else none

/-- Whether a cell is one of a window or of its headers: no slice holds it, so its page's V and RCA bits count for nothing
(R255, log 25). -/
def State.kvCell (s : State) (pa : Nat) : Bool := (s.kvPageHeader pa).isSome || (s.kvHeaderPage pa).isSome

/-- Whether a line holds window or header cells: a header array is 64-byte aligned, so a line may hold both headers and other cells. -/
def State.kvLine (s : State) (pa : Nat) : Bool := s.kvCell (pa / 128 * 128) || s.kvCell (pa / 128 * 128 + 64)

/-- The code lengths of a page header (Table 13.2). -/
def State.kvLengths (s : State) (hdr : Nat) : List Nat := (List.range 16).map fun i => (Memory.num s.mem hdr 8) / 16 ^ i % 16

/-- The Kraft sum of R260 in units of 2^-12; one present symbol is valid. -/
def kraftOk (ls : List Nat) : Bool :=
  let p := ls.filter (· != 0)
  p.all (· ≤ 12) && (p.length == 1 || p.foldl (fun a l => a + 2 ^ (12 - l)) 0 == 4096)

/-- The canonical code (R258): symbols by ascending length, then by number, as (symbol, length, code). -/
def kvCode (ls : List Nat) : List (Nat × Nat × Nat) :=
  ((List.range 13).foldl (fun (acc : Nat × List (Nat × Nat × Nat)) l =>
    (ls.zipIdx.filter fun x => l != 0 && x.1 == l).foldl (fun (a : Nat × List (Nat × Nat × Nat)) x => (a.1 + 1, a.2 ++ [(x.2, l, a.1)])) (2 * acc.1, acc.2)) (0, [])).2

/-- The bits of a code, most significant first. -/
def msbBits (len code : Nat) : List Bool := (List.range len).map fun i => code.testBit (len - 1 - i)

/-- Bytes of a bit stream: bit i is bit 7 - (i mod 8) of byte i / 8, padded with 0. -/
def packBits : List Bool → List Byte
  | a :: b :: c :: d :: e :: f :: g :: h :: r =>
    BitVec.ofNat 8 (([a, b, c, d, e, f, g, h].map Bool.toNat).foldl (fun n x => 2 * n + x) 0) :: packBits r
  | [] => []
  | l => [BitVec.ofNat 8 ((((l ++ List.replicate 7 false).take 8).map Bool.toNat).foldl (fun n x => 2 * n + x) 0)]

/-- The bits of a stream of bytes. -/
def streamBits (bs : List Byte) : List Bool := (bs.map fun b => (List.range 8).map fun i => b.getLsbD (7 - i)).flatten

/-- Decode symbols of a stream: `len` bits of value `code` have been read of the running one. None where a code is not in the table or the
stream ends (R260). -/
def decodeSyms (table : List (Nat × Nat × Nat)) : List Bool → Nat → Nat → Nat → Option (List Nat)
  | _, 0, _, _ => some []
  | [], _ + 1, _, _ => none
  | b :: bs, n + 1, len, code =>
    let c := 2 * code + b.toNat
    match table.find? fun x => x.2.1 == len + 1 && x.2.2 == c with
    | some x => (decodeSyms table bs n 0 0).map (x.1 :: ·)
    | none => if 12 ≤ len + 1 then none else decodeSyms table bs (n + 1) (len + 1) c

/-- The elements of an encoded chunk, from its low nibbles and its top nibbles. -/
def joinNibbles : List Byte → List Nat → List Byte
  | b :: bs, t :: u :: ts => BitVec.ofNat 8 (16 * t + b.toNat % 16) :: BitVec.ofNat 8 (16 * u + b.toNat / 16) :: joinNibbles bs ts
  | _, _ => []

/-- The expansion of a slot of 2,048 bytes stored in the form that NSEC and RAW give (R257), none where it fails (R260). -/
def expandSlot (ls : List Nat) (form : Byte) (slot : List Byte) : Option (List Byte) :=
  let n := form.toNat % 16 + 1
  if form.getLsbD 4 then (if n = 16 then some slot else none)
  else if n = 1 then some (List.replicate 2048 (slot.headD 0))
  else if 9 ≤ n ∧ n ≤ 15 ∧ kraftOk ls then
    (decodeSyms (kvCode ls) (streamBits ((slot.drop 1024).take (128 * (n - 8)))) 2048 0 0).map (joinNibbles (slot.take 1024))
  else none

/-- Whether the page with a header is sealed; without KVC no page is ever compressed (R284). -/
def State.kvSealed (s : State) (hdr : Nat) : Bool := s.feature featKVC && (Memory.get s.mem (hdr + 40)).getLsbD 1

/-- The bytes of chunk `c` of the page with a header, as the BDE serves them; a page that was never sealed holds its bytes as written. -/
def State.chunkBytes (s : State) (hdr page c : Nat) : Option (List Byte) :=
  let slot := Memory.read s.mem (page + 2048 * c) 2048
  if s.kvSealed hdr then expandSlot (s.kvLengths hdr) (Memory.get s.mem (hdr + 8 + c)) slot else some slot

/-- Whether an expansion of the chunk that holds a cell fails. -/
def State.kvBad (s : State) (pa : Nat) : Bool :=
  match s.kvPageHeader pa with
  | none => false
  | some (hdr, o) => (s.chunkBytes hdr (pa - o) (o / 2048)).isNone

/-- A failed expansion: ERR is set in the page, reserved bits written as 0 (R8), and KVERR counts it (R260). -/
def State.kvError (s : State) (pa : Nat) : State :=
  if !s.kvBad pa then s
  else match s.kvPageHeader pa with
    | none => s
    | some (hdr, _) =>
      let st := pa / 2 ^ 36
      let b := s.bdeOf st
      let page : BitVec 32 := BitVec.ofNat 32 ((pa % 2 ^ 36 - b.kvwb.toNat) / 65536)
      { s with
        mem := Memory.set s.mem (hdr + 40) (Memory.get s.mem (hdr + 40) &&& 7 ||| 4),
        bde := s.bde.setIfInBounds st { b with kverr := ((b.kverr.extractLsb' 32 32 : BitVec 32) + 1) ++ page } }

/-- Memory bytes where a window may hold some of them: chunk by chunk in a window, plain between. -/
def State.readWindow (s : State) : Nat → Nat → Nat → List Byte
  | 0, _, _ => []
  | fuel + 1, pa, n =>
    if n = 0 then []
    else match s.kvPageHeader pa with
      | none => let k := min n (65536 - pa % 65536); Memory.read s.mem pa k ++ s.readWindow fuel (pa + k) (n - k)
      | some (hdr, o) =>
        let k := min n (2048 - o % 2048)
        -- a chunk whose expansion fails: its slot's bytes, which no access delivers (checkPlace)
        let bs := (s.chunkBytes hdr (pa - o) (o / 2048)).getD (Memory.read s.mem (pa - o % 2048) 2048)
        (bs.drop (o % 2048)).take k ++ s.readWindow fuel (pa + k) (n - k)

/-- Bytes of memory as an access reads them. -/
def State.readMem (s : State) (pa n : Nat) : List Byte :=
  if s.kvAny then s.readWindow (n + 1) pa n else Memory.read s.mem pa n

def State.numMem (s : State) (pa n : Nat) : Nat := natOf (s.readMem pa n)

/-- A write within one chunk of a page: raw storage where the page is sealed (R259). A chunk whose expansion fails takes no write: the error is
counted and the chunk stays as it is (log 25). -/
def State.writeChunk (s : State) (hdr pa o : Nat) (bs : List Byte) : State :=
  if s.kvSealed hdr then
    match s.chunkBytes hdr (pa - o) (o / 2048) with
    | none => s.kvError pa
    | some old =>
      let i := o % 2048
      let m := Memory.write s.mem (pa - i) (old.take i ++ bs ++ old.drop (i + bs.length))
      { s with mem := Memory.set m (hdr + 8 + o / 2048) 0x1F }
  else { s with mem := Memory.write s.mem pa bs }

/-- A write to a header: SEAL alone is taken, with a store of 1, and not without KVC (R256, R284); the update writes reserved bits as 0 (R8). -/
def State.writeHeader (s : State) (pa o : Nat) (bs : List Byte) : State :=
  if s.feature featKVC ∧ o ≤ 40 ∧ 40 < o + bs.length ∧ (bs.getD (40 - o) 0).getLsbD 0 then
    { s with mem := Memory.set s.mem (pa + (40 - o)) (Memory.get s.mem (pa + (40 - o)) &&& 7 ||| 1) }
  else s

/-- Bytes written where a window may hold some of the cells: header by header, chunk by chunk, plain between. -/
def State.writeWindow (s : State) : Nat → Nat → List Byte → State
  | 0, _, _ => s
  | fuel + 1, pa, bs =>
    if bs.isEmpty then s
    else match s.kvHeaderPage pa, s.kvPageHeader pa with
      | some (_, o), _ =>
        let k := min bs.length (64 - o)
        (s.writeHeader pa o (bs.take k)).writeWindow fuel (pa + k) (bs.drop k)
      | none, some (hdr, o) =>
        let k := min bs.length (2048 - o % 2048)
        (s.writeChunk hdr pa o (bs.take k)).writeWindow fuel (pa + k) (bs.drop k)
      | none, none =>
        let k := min bs.length (64 - pa % 64)
        ({ s with mem := Memory.write s.mem pa (bs.take k) }).writeWindow fuel (pa + k) (bs.drop k)

/-- A write of HBM bytes, which the BDE serves in a window. -/
def State.writeHbm (s : State) (pa : Nat) (bs : List Byte) : State :=
  if s.kvAny then s.writeWindow (bs.length + 1) pa bs else { s with mem := Memory.write s.mem pa bs }

/-! ### Lines that an uncorrectable error has hit (R254) -/

def State.poisoned (s : State) (pa n : Nat) : Bool := s.poison.any fun l => decide (l.toNat < pa + n) && decide (pa < l.toNat + 128)

/-- A line written whole holds good data again (log 50). -/
def State.heal (s : State) (pa n : Nat) : State :=
  { s with poison := s.poison.filter fun l => !(decide (pa ≤ l.toNat) && decide (l.toNat + 128 ≤ pa + n)) }

/-! ### Key domains (R292) -/

/-- The key domain of a line: that of the leaf it was last written through, 0 for one that no leaf of another domain has written (log 56). -/
def State.encOf (s : State) (line : Nat) : BitVec 4 := ((s.encTags.find? (·.1.toNat == line)).map (·.2)).getD 0

/-- Whether a read through a leaf of domain `enc` meets a tag of another one, which is an uncorrectable error (R292, log 56). -/
def State.encLost (s : State) (enc : BitVec 4) (pa : Nat) : Bool := placeOf pa == .hbm && s.encOf (pa / 128 * 128) != enc

/-- A write through a leaf: the line is encrypted under the leaf's domain from now on. -/
def State.retag (s : State) (p : Pa) : State :=
  let line := p.pa.toNat / 128 * 128
  if s.encLost p.enc p.pa.toNat then
    { s with encTags := (s.encTags.filter (·.1.toNat != line)) ++ (if p.enc = 0 then [] else [(BitVec.ofNat 40 line, p.enc)]) }
  else s

/-! ### Reads and writes -/

/-- `n` bytes from byte `o` of register `k` of an image whose register `i` holds `f i`. -/
def imageRead (f : Nat → Word) (k o n : Nat) : List Byte :=
  (((List.range ((o + n + 7) / 8)).flatMap fun i => wordBytes (f (k + i)) 0 8).drop o).take n

/-- Whether a bank belongs to a region of the context. -/
def Ctx.bankHeld (c : Ctx) (b : Nat) : Bool := c.regions.toList.any fun r => match r with | some r => r.banks.contains b | none => false

/-- The context whose data a physical ACM bank holds, which the window shows (R118): the running one's where a region of it has the bank, else the one
whose bank stands there. -/
def State.bankCtx (s : State) (b : Nat) : Option Ctx :=
  if s.live && s.ctx.bankHeld b then some s.ctx else s.contexts.find? fun c => c.acmRes.contains b

/-- Read bytes at a physical address that passes the checks of R114. The queue registers s56 to s63 have no value that a window could show:
their images read 0 (R112, log 49). -/
def State.readPa (s : State) (pa n : Nat) : List Byte :=
  match placeOf pa with
  | .window core off =>
    if core = s.coreNum.toNat then
      match winPart off with
      | .acm o => match s.bankCtx (o / acmBankBytes) with
        | some c => Memory.read c.acm o n
        | none => bytesOf n 0
      | part => match s.windowCtx with
        | none => Memory.read s.mem pa n
        | some c => match part with
          | .spm o => Memory.read c.spm o n
          | .reg k o => imageRead (fun k => if isQueue (BitVec.ofNat 6 k) then 0 else c.rs.get c (BitVec.ofNat 6 k)) k o n
          | .csr k o => imageRead (csrValue s c) k o n
          | _ => bytesOf n 0
    else Memory.read s.mem pa n
  | .hbm => s.readMem pa n
  | _ => Memory.read s.mem pa n

def State.numPa (s : State) (pa n : Nat) : Nat := natOf (s.readPa pa n)

/-- The mailboxes that `n` bytes from byte `o` of the register image touch: number, byte mask and value. -/
def mailboxParts (o : Nat) (bs : List Byte) : List (BitVec 3 × BitVec 8 × Word) :=
  (List.range 8).filterMap fun k =>
    let lo := 0x140 + 8 * k
    let named := (List.range 8).filter fun i => decide (o ≤ lo + i) && decide (lo + i < o + bs.length)
    if named.isEmpty then none
    else some (BitVec.ofNat 3 k, BitVec.ofNat 8 ((named.map fun i => 2 ^ i).foldl (· + ·) 0),
      BitVec.ofNat 64 ((named.map fun i => (bs.getD (lo + i - o) 0).toNat * 256 ^ i).foldl (· + ·) 0))

/-- The bytes of a run in the register image that fall in mailboxes, each with its offset from the run's start (R112). -/
def mailboxBytes (o : Nat) (bs : List Byte) : List (Nat × Byte) :=
  (bs.zipIdx.filter fun b => decide (0x140 ≤ o + b.2) && decide (o + b.2 < 0x180)).map fun b => (b.2, b.1)

/-- Write bytes at a physical address that passes the checks of R114. Through a window only mailboxes change in the register and CSR images
(R112); a mailbox of the core takes effect at the tick boundary (R75). -/
def State.writePa (s : State) (pa : Nat) (bs : List Byte) : State :=
  match placeOf pa with
  | .hbm => (s.writeHbm pa bs).heal pa bs.length
  | .window core off =>
    if core = s.coreNum.toNat then
      match winPart off with
      | .spm o => s.updCtx s.wctx fun c => { c with spm := Memory.write c.spm o bs }
      | .acm o => match s.bankCtx (o / acmBankBytes) with
        | some x => s.updCtx x.id fun c => { c with acm := Memory.write c.acm o bs }
        | none => s
      | .reg k o => (mailboxParts (8 * k + o) bs).foldl (fun s p => s.deliverLater s.wctx (.mailbox p.1 p.2.1 p.2.2)) s
      | _ => s
    else match winPart off with
      | .spm _ | .acm _ => { s with mem := Memory.write s.mem pa bs }
      | .reg k o => { s with mem := (mailboxBytes (8 * k + o) bs).foldl (fun m b => Memory.set m (pa + b.1) b.2) s.mem }
      | _ => s
  | _ => ({ s with mem := Memory.write s.mem pa bs }).heal pa bs.length

/-- Whether bytes of memory meet an uncorrectable error: a line that one has hit, or a chunk of a window whose expansion fails (R254, R260). -/
def State.lostAt (s : State) (pa n : Nat) : Bool := s.poisoned pa n || s.kvBad pa || s.kvBad (pa + (n - 1))

/-- A missing bundle enters the instruction cache of 4,096, unless its bytes are lost; where that is full, one bundle leaves; which one is free
(R74, log 47). -/
def State.bundleFetched (s : State) (pa : BitVec 40) : State :=
  let a := pa.toNat / 32 * 32
  if s.icache.any (·.pa.toNat == a) || s.lostAt a 32 then s
  else
    let s := if s.icache.length < 4096 then s
      else { s with draws := s.draws + 1, icache := s.icache.eraseIdx (Config.pick s.draws % s.icache.length) }
    { s with icache := ⟨BitVec.ofNat 40 a, BitVec.ofNat 256 (s.numPa a 32)⟩ :: s.icache }

/-! ## Full/empty granules (R116) -/

/-- Set or clear the granules `first` to `first + n - 1` of a list. -/
def granSet (l : List Nat) (first n : Nat) : List Nat :=
  ((List.range n).map (first + ·)).foldl (fun l g => if l.contains g then l else g :: l) l
def granClear (l : List Nat) (first n : Nat) : List Nat := l.filter fun g => !(first ≤ g && g < first + n)
def granFull (l : List Nat) (first n : Nat) : Bool := ((List.range n).map (first + ·)).all l.contains

/-- The granules that `n` bytes at an offset touch. -/
def granCount (off n : Nat) : Nat := if n = 0 then 0 else (off + n - 1) / 16 - off / 16 + 1

/-- An engine write: the bytes, with the SPM granules written set full. -/
def State.engineWrite (s : State) (pa : Nat) (bs : List Byte) : State :=
  let t := s.writePa pa bs
  match placeOf pa with
  | .window core off =>
    match winPart off with
    | .spm o =>
      if core = s.coreNum.toNat then t.updCtx s.wctx fun c => { c with full := granSet c.full (o / 16) (granCount o bs.length) }
      else { t with remoteFull := granSet t.remoteFull (pa / 16) (granCount pa bs.length) }
    | _ => t
  | _ => t

/-- Whether every granule of SPM bytes at a physical address is full. -/
def State.granulesFull (s : State) (pa n : Nat) : Bool :=
  match placeOf pa with
  | .window core off =>
    match winPart off with
    | .spm o =>
      if core = s.coreNum.toNat then match s.windowCtx with
        | some c => granFull c.full (o / 16) (granCount o n)
        | none => false
      else granFull s.remoteFull (pa / 16) (granCount pa n)
    | _ => true
  | _ => true

def State.clearGranules (s : State) (pa n : Nat) : State :=
  match placeOf pa with
  | .window core off =>
    match winPart off with
    | .spm o =>
      if core = s.coreNum.toNat then s.updCtx s.wctx fun c => { c with full := granClear c.full (o / 16) (granCount o n) }
      else { s with remoteFull := granClear s.remoteFull (pa / 16) (granCount pa n) }
    | _ => s
  | _ => s

/-! ## What the firmware keeps to itself (R230, R231) -/

/-- Bytes of the published table. -/
def State.probeNum (s : State) (off n : Nat) : Nat := natOf ((s.probes.drop off).take n)

/-- A probe record. -/
structure Probe where
  vec : Nat
  bias : Nat
  thr : Nat
  below : Bool
  action : Nat
  lmask : Nat
  deriving DecidableEq, Repr

/-- A loaded probe set: DMODEL, EPS and its probes. -/
structure ProbeSet where
  dmodel : Nat
  eps : Nat
  probes : List Probe
  deriving DecidableEq, Repr

def State.probeAt (s : State) (set p : Nat) : Probe :=
  let o := 1088 * set + 64 + 64 * p
  { vec := s.probeNum o 8 % 2 ^ 48, bias := s.probeNum (o + 8) 4, thr := s.probeNum (o + 12) 4,
    below := s.probeNum (o + 16) 8 % 2 == 1, action := s.probeNum (o + 16) 8 / 2 % 4, lmask := s.probeNum (o + 32) 16 }

/-- Whether every reserved bit of a probe record is 0. -/
def State.probeClean (s : State) (set p : Nat) : Bool :=
  let o := 1088 * set + 64 + 64 * p
  s.probeNum o 8 / 2 ^ 48 == 0 && s.probeNum (o + 16) 8 / 8 == 0 && s.probeNum (o + 24) 8 == 0 && s.probeNum (o + 48) 16 == 0

/-- Probe set `n`, none where it is unloaded (R231). -/
def State.probeSet (s : State) (n : Nat) : Option ProbeSet :=
  let o := 1088 * n
  let w := s.probeNum o 4
  let dmodel := w % 2 ^ 16
  let np := w / 2 ^ 16 % 32
  if 64 ≤ n ∨ w / 2 ^ 21 ≠ 0 ∨ s.probeNum (o + 8) 56 ≠ 0 ∨ 16 < np ∨ dmodel < 64 ∨ 16384 < dmodel ∨ dmodel % 64 ≠ 0
      ∨ (List.range 16).any (fun p => !s.probeClean n p) then none
  else some { dmodel := dmodel, eps := s.probeNum (o + 4) 4, probes := (List.range np).map (s.probeAt n) }

/-- Whether bytes meet the probe table, a vector of a published set or the score log: device physical addresses that only F mode reaches, a base of
0 naming none (R230, R231, log 28). -/
def State.fwHeld (s : State) (pa n : Nat) : Bool :=
  let meets := fun (a k : Nat) => decide (a < pa + n) && decide (pa < a + k)
  let log := (s.ptlog.extractLsb' 0 48).toNat
  (s.ptbase != 0 && meets s.ptbase.toNat (64 * 1088))
    || (log != 0 && meets log (64 + 32 * 2 ^ (s.ptlog.extractLsb' 48 5).toNat))
    || (!s.probes.isEmpty && (List.range 64).any fun k => match s.probeSet k with
      | some set => set.probes.any fun p => meets p.vec (2 * set.dmodel)
      | none => false)

/-! ## The checks of an access (R114, R118, R133) -/

inductive Acc | read | write | atomic | cas | exec
  deriving DecidableEq, Repr

/-- A failure and its TVAL where that is no address. -/
abbrev AccFail := Cause × Option Word

/-- Whether a read of `n` bytes meets an uncorrectable error. A write does not (log 50), and a fetch does where its bundle is read (State.fetch). -/
def State.readLost (s : State) (acc : Acc) (pa n : Nat) : Bool := acc != .write && acc != .exec && s.lostAt pa n

/-- Whether the host bus answers an access with an error, which is PROT (R287): host addresses are marked as lines of memory are (log 50). -/
def State.busError (s : State) (acc : Acc) (pa n : Nat) : Bool := acc != .exec && s.poisoned pa n

/-- The context of another core that its window shows: a member of the kernel placed there last (R113). -/
def State.windowKernel (s : State) (core : Nat) : Option Kernel := s.occupant core

/-- The checks that depend on where the address falls. `scalar` accesses trap with ACM in the own window; others fail with PROT. -/
def State.placeFail (s : State) (acc : Acc) (scalar : Bool) (pa n : Nat) : Option AccFail :=
  let prot : Option AccFail := some (.prot, none)
  let lost : Option AccFail := if s.readLost acc pa n then some (.mchk, some (BitVec.ofNat 64 pa)) else none
  match placeOf pa with
  | .hbm => lost
  | .host => if !s.feature featHOSTMEM || acc == .atomic || acc == .cas || s.busError acc pa n then prot else none
  | .staging off => if off + n ≤ s.host.staging.toNat * 2 ^ 20 then lost else prot
  | .window core off =>
    match winPart off with
    | .spm o =>
      if core = s.coreNum.toNat then
        match s.windowCtx with
        | some c => if o + n ≤ c.spmBanks * bankBytes then none else prot
        | none => prot
      else match s.windowKernel core with
        | some k => if o + n ≤ k.spmb * bankBytes then none else prot
        | none => prot
    | .acm o =>
      if acc == .atomic || acc == .cas then prot
      else if (if scalar then n ≠ 4 ∧ n ≠ 8 else n % 4 ≠ 0 ∨ o % 4 ≠ 0) then some (.align, none)
      else if core = s.coreNum.toNat then
        if s.ctx.bankHeld (o / acmBankBytes) then none
        else some (if scalar then .acm else .prot, if scalar then some (BitVec.ofNat 64 (o / acmBankBytes)) else none)
      else match s.windowKernel core with
        | some _ => if s.remoteAcm.contains (32 * core + o / acmBankBytes) then none else prot
        | none => prot
    | .reg _ _ | .csr _ _ => if acc == .atomic || acc == .cas then prot else none
    | .unassigned => prot
  | .unassigned => prot

/-- The checks of an access by where it falls; what the firmware keeps to itself is no core's and no engine's (R231). -/
def State.checkPlace (s : State) (acc : Acc) (scalar : Bool) (pa n : Nat) : Option AccFail :=
  if s.fwHeld pa n then some (.prot, none) else s.placeFail acc scalar pa n

/-! ## Page tables (R104 to R108) -/

/-- The shifts and index widths of the walk's levels (Table 5.1). -/
def walkLevels : List (Nat × Nat) := [(39, 9), (30, 9), (21, 9), (16, 5)]

/-- A leaf: page-size bits, physical base, flags and key domain. -/
structure Leaf where
  bits : Nat
  pa : Nat
  flags : BitVec 9
  enc : BitVec 4
  deriving DecidableEq, Repr

/-- Walk from a table at physical address `tab`; none where R107 gives TFAULT. The table addresses are local-view addresses (R110, log 55). -/
def State.walk (s : State) (va : Nat) : List (Nat × Nat) → Nat → Option Leaf
  | [], _ => none
  | (sh, ib) :: ls, tab =>
    let e := BitVec.ofNat 64 (s.numPa (tab + 8 * (va / 2 ^ sh % 2 ^ ib)) 8)
    if !e.getLsbD 0 then none
    else if e.extractLsb' 2 3 == (0 : BitVec 3) then s.walk va ls ((e.extractLsb' 12 28).toNat * 4096)
    else
      let pa := (e.extractLsb' 16 24).toNat * 65536
      if sh = 39 ∨ pa % 2 ^ sh ≠ 0 then none else some ⟨sh, pa, e.extractLsb' 0 9, e.extractLsb' 12 4⟩

def State.asid (s : State) : BitVec 16 := s.ctx.csr.atp.extractLsb' 48 16
def rootOf (atp : Word) : Nat := (atp.extractLsb' 12 28).toNat * 4096

def TlbEntry.covers (asid : BitVec 16) (va : Nat) (e : TlbEntry) : Bool := e.asid == asid && e.va.toNat / 2 ^ e.bits == va / 2 ^ e.bits

/-- The entry of an address space that covers an address: the core's, else the die's (R108). -/
def State.tlbHit (s : State) (asid : BitVec 16) (va : Nat) : Option TlbEntry := (s.tlb.find? (·.covers asid va)).or (s.dieTlb.find? (·.covers asid va))

/-- The physical address of the first entry of a walk whose data an uncorrectable error has hit (R254, R260). -/
def State.walkLost (s : State) (va : Nat) : List (Nat × Nat) → Nat → Option Nat
  | [], _ => none
  | (sh, ib) :: ls, tab =>
    let a := tab + 8 * (va / 2 ^ sh % 2 ^ ib)
    if s.lostAt a 8 then some a
    else
      let e := BitVec.ofNat 64 (s.numPa a 8)
      if e.getLsbD 0 && e.extractLsb' 2 3 == (0 : BitVec 3) then s.walkLost va ls ((e.extractLsb' 12 28).toNat * 4096) else none

/-- The entry that a translation would read and finds lost. -/
def State.tableLost (s : State) (atp : Word) (va : Nat) : Option Nat :=
  if (s.tlbHit (atp.extractLsb' 48 16) va).isSome then none else s.walkLost va walkLevels (rootOf atp)

/-- The leaf that maps an address of an address space, from the caches or by a walk. -/
def State.leafIn (s : State) (atp : Word) (va : Nat) : Option Leaf :=
  match s.tlbHit (atp.extractLsb' 48 16) va with
  | some e => some ⟨e.bits, e.pa.toNat, e.flags, e.enc⟩
  | none => s.walk va walkLevels (rootOf atp)

/-- Put an entry into a cache of `n` entries where none covers the address; the oldest one leaves a full cache. -/
def tlbPut (n va : Nat) (e : TlbEntry) (l : List TlbEntry) : List TlbEntry := if l.any (·.covers e.asid va) then l else (e :: l).take n

/-- A leaf that an access has used stands in the core's 256 entries and in the die's 16,384 (R108). -/
def State.tlbFill (s : State) (atp : Word) (va : Nat) (l : Leaf) : State :=
  let e : TlbEntry := ⟨atp.extractLsb' 48 16, BitVec.ofNat 48 va, l.bits, BitVec.ofNat 40 l.pa, l.flags, l.enc⟩
  { s with tlb := tlbPut 256 va e s.tlb, dieTlb := tlbPut 16384 va e s.dieTlb }

/-- An engine's access fills the die's cache alone. -/
def State.dieFill (s : State) (atp va : Word) : State :=
  match s.leafIn atp va.toNat with
  | some l => { s with dieTlb := tlbPut 16384 va.toNat ⟨atp.extractLsb' 48 16, BitVec.ofNat 48 va.toNat, l.bits, BitVec.ofNat 40 l.pa, l.flags, l.enc⟩ s.dieTlb }
  | none => s

/-- The checks of Table 5.4 against a leaf. -/
def permOk (acc : Acc) (mode : Mode) (f : BitVec 9) : Bool :=
  let r := f.getLsbD 2
  let w := f.getLsbD 3
  (match acc with | .read => r | .write => w | .atomic => r && w | .cas => r | .exec => f.getLsbD 4)
    && (mode != .u || f.getLsbD 5)

/-- The physical address a leaf gives. -/
def Leaf.addr (l : Leaf) (va : Nat) : Nat := canonPa (l.flags.getLsbD 8) (l.pa + va % 2 ^ l.bits)

/-- A cell of a KV window, its headers included, must be reached in the local view (R255). An access stays within a line. -/
def State.viewOk (s : State) (l : Leaf) (pa n : Nat) : Bool := !(l.flags.getLsbD 8 && (s.kvCell pa || s.kvCell (pa + (n - 1))))

/-- What a leaf gives for an access: its V and RCA bits count for nothing in a line that holds cells which the BDE serves (R255). -/
def State.paOf (s : State) (l : Leaf) (pa : Nat) : Pa :=
  ⟨BitVec.ofNat 40 pa, l.flags.getLsbD 6 && !s.kvLine pa, l.flags.getLsbD 7 && !s.kvLine pa, l.enc⟩

/-- Translate and check an access of `n` bytes in an address space (R104, R107, R114, R119). -/
def State.translate (s : State) (atp : Word) (mode : Mode) (acc : Acc) (scalar : Bool) (va : Word) (n : Nat) : Except AccFail Pa :=
  if va.extractLsb' 48 16 ≠ (0 : BitVec 16) then .error (.tfault, none)
  else if scalar ∧ va.toNat % n ≠ 0 then .error (.align, none)
  else match s.tableLost atp va.toNat, s.leafIn atp va.toNat with
    | some a, _ => .error (.mchk, some (BitVec.ofNat 64 a))
    | none, none => .error (.tfault, none)
    | none, some l =>
      if !permOk acc mode l.flags then .error (.prot, none)
      else
        let pa := l.addr va.toNat
        if !s.viewOk l pa n then .error (.prot, none)
        else match s.checkPlace acc scalar pa n with
        | some f => .error f
        | none => if acc != .write && s.encLost l.enc pa then .error (.mchk, some (BitVec.ofNat 64 pa)) else .ok (s.paOf l pa)

/-- The running context's own-SPM offset of `n` bytes at a virtual address, as an engine or a check of an own-SPM operand needs it. -/
def State.ownSpm (s : State) (acc : Acc) (va : Word) (n : Nat) : Option Nat :=
  match s.translate s.ctx.csr.atp s.mode acc false va n with
  | .error _ => none
  | .ok p => match placeOf p.pa.toNat with
    | .window core off => match winPart off with
      | .spm o => if core = s.coreNum.toNat then some o else none
      | _ => none
    | _ => none

/-- The physical address of an own-window offset. -/
def State.ownPa (s : State) (off : Nat) : Nat := windowBase s.coreNum.toNat + off

/-! ## The scalar L1 (R119, R120) -/

/-- The lines that the L1 holds, 512 at most. -/
def State.l1Lines (s : State) : List Nat := (s.l1.map (·.addr.toNat / 128)).eraseDups

/-- Room for a line in the L1 of 64 KiB: where it is full, one of its lines leaves; which one is free (log 47). Memory already holds owned values, so
the write-back of R120 changes nothing. -/
def State.l1Room (s : State) (pa : Nat) : State :=
  if s.l1Lines.contains (pa / 128) || s.l1Lines.length < 512 then s
  else
    let gone := s.l1Lines.getD (Config.pick s.draws % 512) 0
    { s with draws := s.draws + 1, l1 := s.l1.filter fun w => w.addr.toNat / 128 != gone }

/-- A write ends the registration of its words to contexts of other cores (R54, R120). -/
def State.unregister (s : State) (pa n : Nat) : State :=
  { s with asleep := s.asleep.filter fun w => !(decide (w.toNat < pa + n) && decide (pa < w.toNat + 8)) }

/-- Words of other cores, engines and the host: an owned word they write leaves the L1, a clean copy stays and may be stale. -/
def State.dropOwned (s : State) (pa n : Nat) : State :=
  { s.unregister pa n with l1 := s.l1.filter fun w => !(w.owned && decide (w.addr.toNat < pa + n) && decide (pa < w.addr.toNat + 8)) }

/-- An acquire: every word that the core does not own leaves the L1. -/
def State.acquireL1 (s : State) : State := { s with l1 := s.l1.filter (·.owned) }

/-- The words of a range leave the L1; memory already holds owned values. -/
def State.evictL1 (s : State) (pa n : Nat) : State :=
  { s with l1 := s.l1.filter fun w => !(decide (w.addr.toNat < pa + n) && decide (pa < w.addr.toNat + 8)) }

/-! ## Reader-counted lines (R123, R124) -/

def lineOf (pa : Nat) : Nat := pa / 128 * 128

/-- A read served by the home slice: it lowers the count of its line, and the last one drops the line. -/
def State.countRead (s : State) (pa : Nat) : State :=
  match s.counted.find? (·.line.toNat == lineOf pa) with
  | none => s
  | some c =>
    if c.count ≤ 1 then
      { s with counted := s.counted.filter (·.line.toNat != lineOf pa),
               mem := Memory.setNum s.mem (lineOf pa) 128 c.beneath.toNat }
    else { s with counted := updFirst (·.line.toNat == lineOf pa) (fun c => { c with count := c.count - 1 }) s.counted }

/-- An uncounted write or an atomic makes the line ordinary. -/
def State.uncount (s : State) (pa : Nat) : State := { s with counted := s.counted.filter (·.line.toNat != lineOf pa) }

/-- The count and the line's contents beneath, before a write that carries reader count `n`. -/
def State.countWrite (s : State) (pa n : Nat) : State :=
  match s.counted.find? (·.line.toNat == lineOf pa) with
  | some _ => { s with counted := updFirst (·.line.toNat == lineOf pa) (fun c => { c with count := n }) s.counted }
  | none =>
    { s with counted := ⟨BitVec.ofNat 40 (lineOf pa), n, BitVec.ofNat 1024 (s.numMem (lineOf pa) 128)⟩ :: s.counted }

/-- A plain write of an agent: the line's count is set or ends, owned L1 words of the core are invalidated. -/
def State.agentWrite (s : State) (p : Pa) (rcn : Nat) (bs : List Byte) : State :=
  let a := p.pa.toNat
  let t := if placeOf a = .hbm then (if p.rca ∧ !p.v ∧ 1 ≤ rcn then s.countWrite a rcn else s.uncount a) else s
  ((t.retag p).dropOwned a bs.length).engineWrite a bs

end Sys2Proof.Machine
end

