-- ==== Sys2Proof/Machine/Versions.lean ====
section
/-! DEFINITION. Versioned memory (chapter 7): version chains at the home slices, stamps, the read rule, transactional stores, one-line
commits, validation and the mucker. A line without a chain holds one committed entry of stamp 0, its bytes in memory (log 12);
memory always holds a line's newest committed entry. -/

namespace Sys2Proof.Machine

/-! ## Chains -/

def VEntry.isCommitted (e : VEntry) : Bool := e.st == .committed

/-- The entries of a line, newest first. -/
def State.lineEntries (s : State) (line : Nat) : List VEntry :=
  match s.chains.find? (·.line.toNat == line) with
  | some l => l.entries
  | none => [⟨0, 0, .committed, BitVec.ofNat 1024 (Memory.num s.mem line 128), false⟩]

def State.setEntries (s : State) (line : Nat) (es : List VEntry) : State :=
  if s.chains.any (·.line.toNat == line) then
    { s with chains := updFirst (·.line.toNat == line) (fun l => { l with entries := es }) s.chains }
  else { s with chains := ⟨BitVec.ofNat 40 line, es⟩ :: s.chains }

/-- The committed entry with the greatest stamp up to a limit. -/
def newestUpTo (limit : Option Nat) (es : List VEntry) : Option VEntry :=
  es.foldl (fun best e =>
    if e.isCommitted && (match limit with | some l => decide (e.stamp ≤ l) | none => true) then
      match best with
      | some b => if b.stamp < e.stamp then some e else some b
      | none => some e
    else best) none

/-- The tentative or locked entry of a TID. -/
def entryOf (tid : BitVec 12) (es : List VEntry) : Option VEntry := es.find? fun e => !e.isCommitted && e.tid == tid

/-- The contents of a line as a copy with the given view reads it (R153): committed entries only. -/
def State.viewLine (s : State) (view : Option Nat) (line : Nat) : BitVec 1024 :=
  match newestUpTo view (s.lineEntries line) with
  | some e => e.data
  | none => BitVec.ofNat 1024 (Memory.num s.mem line 128)

/-- The contents of a line as a scalar read returns it (R153): the entry of the transaction open at issue while that lives and is not
doomed, else the newest committed one of the snapshot at issue. -/
def State.scalarLine (s : State) (c : Ctx) (txn : Option Nat) (view : Option Nat) (line : Nat) : BitVec 1024 :=
  match txn, c.txn with
  | some num, some t =>
    match (if t.doom.isSome || t.num != num then none else entryOf t.tid (s.lineEntries line)) with
    | some e => e.data
    | none => s.viewLine view line
  | _, _ => s.viewLine view line

/-- Bytes of a line image. -/
def lineBytes (d : BitVec 1024) (off n : Nat) : List Byte := bytesOf n (d.toNat / 256 ^ off)

/-- A line image with bytes merged at an offset. -/
def mergeLine (d : BitVec 1024) (off : Nat) (bs : List Byte) : BitVec 1024 := setBits d (8 * off) (8 * bs.length) (natOf bs)

/-! ## The mucker and space (R151, R161) -/

/-- Whether a newer committed entry with a stamp at or below the low-water mark makes `e` reclaimable. -/
def reclaimable (lwm : Nat) (es : List VEntry) (e : VEntry) : Bool :=
  e.isCommitted && es.any fun w => w.isCommitted && decide (e.stamp < w.stamp) && decide (w.stamp ≤ lwm)

/-- Reclaim what R161 allows in one line. -/
def State.reclaimLine (s : State) (line : Nat) : State :=
  if s.chains.any (·.line.toNat == line) then
    let es := s.lineEntries line
    let keep := es.filter fun e => !reclaimable s.lwm es e
    { s.setEntries line keep with vrcl := s.vrcl + BitVec.ofNat 64 (es.length - keep.length) }
  else s

/-- Entries that the HBM version pool has room for: 2^23 lines of 128 bytes a GiB. -/
def State.poolRoom (s : State) : Nat := s.host.pool.toNat * 2 ^ 23 - s.poolEntries

/-- Whether a read at one of the live stamps returns the entry. -/
def reached (stamps : List Nat) (es : List VEntry) (e : VEntry) : Bool :=
  stamps.any fun n => (newestUpTo (some n) es).any fun b => b.stamp == e.stamp

/-- The smallest stamp of some entries. -/
def oldestStamp (es : List VEntry) : Option Nat :=
  es.foldl (fun b e => match b with | some x => if e.stamp < x then some e.stamp else some x | none => some e.stamp) none

/-- Move the oldest committed entry of the version store that a live snapshot can still reach to the pool (R150); where the store holds none that one
reaches, its oldest committed entry (log 12). -/
def spillOldest (stamps : List Nat) (es : List VEntry) : List VEntry :=
  let here := es.filter fun e => e.isCommitted && !e.pool
  match (oldestStamp (here.filter (reached stamps es))).or (oldestStamp here) with
  | none => es
  | some st => updFirst (fun e => e.isCommitted && !e.pool && e.stamp == st) (fun e => { e with pool := true }) es

/-- Room for an entry of a line as the slice stands: in the version store, in the pool for one that moves there, or, where none can move, in the pool for
itself (R151, log 12). -/
def State.placeEntry (s : State) (line : Nat) (e : VEntry) : Option State :=
  let es := s.lineEntries line
  if (es.filter (!·.pool)).length < 8 then some (s.setEntries line (e :: es))
  else if s.poolRoom = 0 then none
  else if es.any (fun e => e.isCommitted && !e.pool) then
    some { s.setEntries line (e :: spillOldest s.liveStamps es) with vspl := s.vspl + 1 }
  else some (s.setEntries line ({ e with pool := true } :: es))

/-- The index of a line's home slice among the package's 128 (R111). -/
def homeSlice (pa : Nat) : Nat :=
  let l := pa % 2 ^ 36
  (pa / 2 ^ 36) % 8 * 16 + ((l / 2 ^ 7 % 16) ^^^ (l / 2 ^ 11 % 16))

/-- Reclaim what R161 allows in every line of a slice. -/
def State.reclaimSlice (s : State) (slice : Nat) : State :=
  ((s.chains.filter fun l => homeSlice l.line.toNat == slice).map (·.line.toNat)).foldl State.reclaimLine s

/-- Add an entry to a line after reclaiming; a need that finds no room is refused once the slice has reclaimed all it can (R150, R151). -/
def State.addEntry (s : State) (line : Nat) (e : VEntry) : Option State :=
  ((s.reclaimLine line).placeEntry line e).or ((s.reclaimSlice (homeSlice line)).placeEntry line e)

/-! ## One-line commits (R159) -/

/-- Whether a line has a LOCKED entry, for which a one-line commit waits. -/
def State.lineLocked (s : State) (line : Nat) : Bool := (s.lineEntries line).any (·.st == .locked)

/-- A one-line commit of bytes at a physical address of a versioned page: the new state, or none where space is refused. -/
def State.oneLineCommit (s : State) (pa : Nat) (bs : List Byte) : Option State :=
  let line := lineOf pa
  let c := s.vsuLast + 1
  let d := mergeLine (s.viewLine none line) (pa - line) bs
  match ({ s with vsuLast := c }).addEntry line ⟨c, 0, .committed, d, false⟩ with
  | none => none
  | some t => some { t with mem := Memory.setNum t.mem line 128 d.toNat }

/-! ## Transactions (R155 to R158) -/

/-- Discard every tentative and locked entry of a TID, counted as reclaimed. -/
def State.discardTid (s : State) (tid : BitVec 12) : State :=
  let n := (s.chains.map fun l => (l.entries.filter fun e => !e.isCommitted && e.tid == tid).length).foldl (· + ·) 0
  { s with chains := s.chains.map (fun l => { l with entries := l.entries.filter fun e => e.isCommitted || e.tid != tid }),
           vrcl := s.vrcl + BitVec.ofNat 64 n }

/-- Doom the open transaction of a context: only the first cause is kept, and its entries go at once (R156). -/
def Ctx.doomed (c : Ctx) (cause : BitVec 8) : Ctx :=
  match c.txn with
  | some t => { c with txn := some { t with doom := some (t.doom.getD cause) } }
  | none => c

def State.doom (s : State) (id : BitVec 16) (cause : BitVec 8) : State :=
  match s.findCtx id with
  | none => s
  | some c => match c.txn with
    | none => s
    | some t => (if c.commit.isSome then s else s.discardTid t.tid).updCtx id fun c => if c.commit.isSome then c else c.doomed cause

/-- What a transactional store finds: the transaction's entry of the line, which it changes; none, and it creates one; too many lines; no space. -/
inductive Tentative | merged (s : State) | created (s : State) | tooLarge | refused

/-- Put bytes into the tentative entry of a TID in a line; a new one copies what the read rule gives (R156). -/
def State.putTentative (s : State) (tid : BitVec 12) (tsnap : Nat) (full : Bool) (pa : Nat) (bs : List Byte) : Tentative :=
  let line := lineOf pa
  let es := s.lineEntries line
  if (entryOf tid es).isSome then
    .merged (s.setEntries line (updFirst (fun e => !e.isCommitted && e.tid == tid) (fun e => { e with data := mergeLine e.data (pa - line) bs }) es))
  else if full then .tooLarge
  else match s.addEntry line ⟨0, tid, .tentative, mergeLine (s.viewLine (some tsnap) line) (pa - line) bs, false⟩ with
    | none => .refused
    | some t => .created t

/-- A transactional store to a versioned line (R156). -/
def State.storeTxn (s : State) (id : BitVec 16) (pa : Nat) (bs : List Byte) : State :=
  match s.findCtx id with
  | none => s
  | some c => match c.txn with
    | none => s
    | some t =>
      if t.doom.isSome then s
      else match s.putTentative t.tid t.tsnap (1024 ≤ t.lines) pa bs with
        | .merged u => u
        | .tooLarge => s.doom id 4
        | .refused => s.doom id 2
        | .created u => u.updCtx id fun c => { c with txn := some { t with lines := t.lines + 1, slices := t.slices ||| BitVec.ofNat 128 (2 ^ homeSlice pa) } }

/-- TIDs in use: the contexts' and the other agents'. -/
def State.usedTids (s : State) : List (BitVec 12) := s.contexts.filterMap (fun c => c.txn.map (·.tid)) ++ s.foreignTxns.map (·.tid)

/-- The first free TID at or after a start, over the whole pool of 4,096 (log 14). -/
def freeTidFrom (used : List (BitVec 12)) (start : BitVec 12) : Nat → Option (BitVec 12)
  | 0 => none
  | k + 1 => if used.contains start then freeTidFrom used (start + 1) k else some start

def State.freeTid (s : State) : Option (BitVec 12) :=
  freeTidFrom s.usedTids (BitVec.ofNat 12 (Config.pickTid s.draws)) (s.usedTids.length + 1)

/-- The slices of a write-set mask. -/
def maskSlices (m : BitVec 128) : List Nat := (List.range 128).filter m.getLsbD

/-! ## Validation and finalising (R157) -/

/-- How one line answers a validation: wait, abort, or lock. -/
inductive Vote | wait | abort | lock
  deriving DecidableEq, Repr

def voteLine (tid : BitVec 12) (tsnap stamp : Nat) (es : List VEntry) : Vote :=
  if es.any (fun e => e.st == .locked && e.tid != tid && decide (e.stamp < stamp)) then .wait
  else if es.any (fun e => (e.st == .locked && e.tid != tid && decide (stamp < e.stamp)) ||
      (e.isCommitted && decide (tsnap < e.stamp))) then .abort
  else .lock

/-- The lines of a slice that hold an entry of a TID. -/
def State.linesOf (s : State) (tid : BitVec 12) (slice : Nat) : List Nat :=
  (s.chains.filter fun l => homeSlice l.line.toNat == slice && (entryOf tid l.entries).isSome).map (·.line.toNat)

def lockLine (tid : BitVec 12) (stamp : Nat) (es : List VEntry) : List VEntry :=
  updFirst (fun e => !e.isCommitted && e.tid == tid) (fun e => { e with st := .locked, stamp := stamp }) es

/-- Validate the lines of a slice one after another: none while one must wait, else whether the slice votes commit. -/
def State.validateLines (s : State) (tid : BitVec 12) (tsnap stamp : Nat) : List Nat → Option (State × Bool)
  | [] => some (s, true)
  | l :: ls =>
    match voteLine tid tsnap stamp (s.lineEntries l) with
    | .wait => none
    | .abort => match s.validateLines tid tsnap stamp ls with
      | some (t, _) => some (t, false)
      | none => none
    | .lock => (s.setEntries l (lockLine tid stamp (s.lineEntries l))).validateLines tid tsnap stamp ls

/-- Finalise the lines of a slice: commit writes each entry through to memory, abort frees it. -/
def State.finaliseLines (s : State) (tid : BitVec 12) (stamp : Nat) (commit : Bool) : List Nat → State
  | [] => s
  | l :: ls =>
    let es := s.lineEntries l
    let s' :=
      if commit then
        match entryOf tid es with
        | some e =>
          { s.setEntries l (updFirst (fun e => !e.isCommitted && e.tid == tid)
              (fun e => { e with st := .committed, stamp := stamp }) es) with
            mem := if (newestUpTo none es).all (fun w => decide (w.stamp < stamp)) then Memory.setNum s.mem l 128 e.data.toNat
                   else s.mem }
        | none => s
      else
        { s.setEntries l (es.filter fun e => e.isCommitted || e.tid != tid) with vrcl := s.vrcl + 1 }
    s'.finaliseLines tid stamp commit ls

/-- End the transaction of a context, landing nothing (R158): cause 3, EXIT 0, the end of a context. A commit whose validations were sent goes on without
it: the votes alone decide (R157). -/
def State.abortTxn (s : State) (id : BitVec 16) : State :=
  match s.findCtx id with
  | none => s
  | some c => match c.txn with
    | none => s
    | some t =>
      let s := match c.commit with
        | none => s.discardTid t.tid
        | some k => if k.toFinalise.isEmpty then s
          else { s with foreignTxns := ⟨t.tid, t.tsnap, false⟩ :: s.foreignTxns, foreignCommits := (t.tid, k) :: s.foreignCommits }
      s.updCtx id fun c => { c with txn := none, commit := none, csr := { c.csr with txc := 0 } }

/-- Release the snapshot of a context. -/
def State.releaseSnap (s : State) (id : BitVec 16) : State := s.updCtx id fun c => { c with snap := none }

/-! ## A SQM transaction's writes (R229) -/

/-- Whether a physical line stands in a versioned page is the page's matter; the SQM writes each of its structures there in one
step: every line of the request takes one stamp. -/
def State.commitLines (s : State) (stamp : Nat) : List (Nat × List Byte) → Option State
  | [] => some s
  | (pa, bs) :: r =>
    let line := lineOf pa
    let es := s.lineEntries line
    let d := mergeLine (s.viewLine none line) (pa - line) bs
    let mem := Memory.setNum s.mem line 128 d.toNat
    if es.any (fun e => e.isCommitted && e.stamp == stamp) then
      { s.setEntries line (updFirst (fun e => e.isCommitted && e.stamp == stamp) (fun e => { e with data := d }) es) with
        mem := mem }.commitLines stamp r
    else match s.addEntry line ⟨stamp, 0, .committed, d, false⟩ with
      | none => none
      | some t => { t with mem := Memory.setNum t.mem line 128 d.toNat }.commitLines stamp r

end Sys2Proof.Machine
end

