-- ==== Sys2Proof/Machine/Traps.lean ====
section
/-! DEFINITION. Which trap is taken first, double traps and kills (R245, R248, R251), host interrupts (R286) and the firmware error log. -/

namespace Sys2Proof.Machine

/-! ## Host interrupts (R286) -/

/-- The vector's mask bit in its MSI-X entry (vector control, bit 0 of the last word). -/
def msixMasked (e : BitVec 128) : Bool := e.getLsbD 96

/-- Vector `n` is due: pending while it or the function is masked, else sent; an adapter whose MSI-X is disabled does neither (R286, log 17). -/
def HostIf.vector (h : HostIf) (n : Nat) : HostIf :=
  if !h.msixOn then h
  else if h.msixMask || msixMasked (h.msix.toList.getD n 0) then { h with msixPending := h.msixPending ||| BitVec.ofNat 5 (2 ^ n) }
  else { h with messages := h.messages ++ [BitVec.ofNat 3 n] }

/-- An event of source `n`: INTST is set; as it goes from 0 to 1 with its enable, its vector is due. -/
def HostIf.interrupt (h : HostIf) (n : Nat) : HostIf :=
  let b : BitVec 5 := BitVec.ofNat 5 (2 ^ n)
  let rises := h.intst &&& b == 0
  let h := { h with intst := h.intst ||| b }
  if rises && (h.inten &&& b != 0) then h.vector n else h

def srcDEVST : Nat := 0
def srcERRLOG : Nat := 1
def srcATTEST : Nat := 2
def srcQSTOP : Nat := 3
def srcKDONE : Nat := 4

def State.interrupt (s : State) (n : Nat) : State := { s with host := s.host.interrupt n }

/-- DEVST takes a value; a change is an interrupt source. -/
def State.setDevst (s : State) (v : BitVec 8) : State :=
  if s.host.devst = v then s else ({ s with host := { s.host with devst := v } } : State).interrupt srcDEVST

/-- A record of the firmware error log. -/
def State.logError (s : State) (code : BitVec 8) (detail : Word) : State :=
  ({ s with errorLog := s.errorLog ++ [(code, detail)] } : State).interrupt srcERRLOG

/-! ## Kernels end (R33, R48) -/

/-- The result word's cause part (R33). -/
def resultWord (cause notice : BitVec 8) (rank : BitVec 8) : Word :=
  at_ rank.toNat 16 + at_ (if cause = 0xFF then notice.toNat else 0) 8 + cause.toNat |> BitVec.ofNat 64

/-- A core of a kernel has retired; the first abnormal end fixes the result word. -/
def Kernel.retire (k : Kernel) (core : Nat) (res : Word) : Kernel :=
  let live := k.live.filter (· != core)
  { k with live := live, result := if k.result = 0 then res else k.result }

def State.updKernel (s : State) (id : Nat) (f : Kernel → Kernel) : State :=
  { s with kernels := updFirst (·.id == id) f s.kernels }

/-! ## Domains break (R45) -/

def Dom.break_ (d : Dom) : Dom := { d with broken := true }

/-- Every domain of a kernel breaks for its contexts here: a member ended without LEAVE. -/
def State.breakDomains (s : State) (kernel : Nat) : State :=
  let f := fun (c : Ctx) => if c.kernel = kernel then { c with doms := c.doms.map Dom.break_ } else c
  { s with ctx := f s.ctx, parked := s.parked.map f }

/-! ## Kill (R251) -/

/-- Work that no engine of the core queues: the report of a skipped destination, another core's weight stream, the SQM's bitmap. -/
def CopyOp.aside : CopyOp → Bool
  | .skip _ _ | .wstrIn _ _ | .bitmap _ _ => true
  | _ => false

/-- Whether a killed context has copies or drains that still run to completion. -/
def State.lingers (s : State) (c : Ctx) : Bool :=
  s.jobs.any (fun j => j.ctx == c.id && !CopyOp.aside j.op) || match c.running with | some r => !r.drains.isEmpty | none => false

/-- Killed contexts with nothing left to complete are gone. -/
def State.reap (s : State) : State := { s with parked := s.parked.filter fun c => !c.dead || s.lingers c }

/-- The messages of msgout that are addressed to the core itself wait in the network when their context ends: a push sends one message (R204). -/
def State.sentMessages (s : State) : List Instr :=
  let pos : BitVec 3 := s.coreNum.setWidth 3
  (s.ctx.msgout.filter fun w => w.extractLsb' 61 3 == pos).map fun w => .messageDelivery false pos (w.setWidth 61)

/-- A context ends: its transaction aborts, its snapshot is released, its copies lose their local counters, its banks, its micro-store tag and its
calls go (R47, R251). -/
def State.dropCtx (s : State) (id : BitVec 16) : State :=
  let s := ((s.doom id 5).abortTxn id).releaseSnap id
  let s := { s with jobs := s.jobs.map fun (j : Job) => if j.ctx = id then { j with orphan := true } else j }
  let dying := match s.findCtx id with
    | some c => if !s.lingers c then [] else
      [{ c with dead := true, bankSet := false, acmRes := [], spmRes := 0, later := [], calls := [], taps := [], csr := { c.csr with sqrole := 0 },
                running := c.running.map fun (r : Running) => { r with ended := true }, ports := Vector.replicate 32 .unbound, pend := [] }]
    | none => []
  let s := { s with microTag := if (s.findCtx id).any (fun (c : Ctx) => c.kernel == s.microTag) then 0 else s.microTag }
  if s.live && s.ctx.id == id then
    { s with live := false, pending := [], comb := [], parked := s.parked ++ dying, agenda := s.agenda ++ s.sentMessages }
  else { s with parked := s.parked.filter (·.id != id) ++ dying }

/-- Kill a context: cause 0xFF where no trap caused it. -/
def State.kill (s : State) (id : BitVec 16) (cause : BitVec 8) : State :=
  match s.findCtx id with
  | none => s
  | some c =>
    let notice := match s.kernels.find? (·.id == c.kernel) with | some k => k.lastNotice | none => 0
    let s := s.breakDomains c.kernel
    let s := s.updKernel c.kernel fun k => k.retire s.coreNum.toNat (resultWord cause notice c.rank)
    let s := { s with preloaded := if s.preloaded.isSome && s.live && s.ctx.id == id then none else s.preloaded,
                      busy := if s.live && s.ctx.id == id then s.busy.filter (· != s.coreNum.toNat) else s.busy }
    s.dropCtx id

/-- The supervisor set after a double trap (R248). -/
def supReset (tick : Nat) : RegSet := { RegSet.reset with tick := tick }

/-- A cause raised in S mode (R248): the supervisor set is reset, the trapped context killed with its first trap's cause, the event
logged; the core returns to the KDS. -/
def State.doubleTrap (s : State) (t : Trap) : State :=
  let first : BitVec 8 := s.trap.tcause.extractLsb' 0 8
  let s1 := s.kill s.ctx.id (if first = 0 then 0xFF else first)
  let s2 := s1.logError t.cause.code s.sup.pc
  { s2 with mode := .u, sup := supReset s.sup.tick, supBounds := [], trap := { s.trap with busy := false, ctxcmd := none } }

/-- A cause that S mode raises: a double trap, but MCHK, which waits for the trapped context (R248, R254; log 51). -/
def State.inSupervisor (s : State) (t : Trap) : State := if t.cause = .mchk then s.pend t else s.doubleTrap t

/-- The core leaves S mode because its supervisor set is lost. -/
def State.dropSupervisor (s : State) : State :=
  { s with mode := .u, sup := supReset s.sup.tick, supBounds := [], trap := { s.trap with busy := false, ctxcmd := none } }

/-- An error of what the contexts share: the DMP kills every context of the core, which is offline until firmware clears it (R254). -/
def State.coreLost (s : State) : State :=
  { ((s.contexts.map (·.id)).foldl (fun (s : State) id => s.kill id 0x20) s).dropSupervisor with offline := true }

/-- Lost data that a bundle meets as it issues is delivered to the DMP first (R254); a failed expansion counts (R260). -/
def State.lostMet (s : State) (t : Trap) : State := if t.cause = .mchk then (s.kvError t.tval.toNat).logError 0x20 t.tval else s

/-- A bundle's trap is taken: entry from U mode, a double trap in S mode, where a bundle that lost data keeps from issuing ends the core's work
(log 51). -/
def State.raise (s : State) (t : Trap) : State :=
  match s.mode with
  | .u => (s.lostMet t).enterTrap t
  | .s => if t.cause = .mchk then (s.lostMet t).coreLost else s.doubleTrap t

/-- A boundary cause found for the running set: it waits for the boundary, or is a double trap at once in S mode. -/
def State.found (s : State) (t : Trap) : State :=
  match s.mode with
  | .u => s.pend t
  | .s => s.inSupervisor t

/-! ## Precedence at one boundary (R245) -/

/-- The class of a pending cause: MCHK, then boundary causes, then COPYFAULT, then BUSMISS. -/
def trapClass (t : Trap) : Nat :=
  match t.cause, t.kind with
  | .mchk, _ => 0
  | _, .boundary => 1
  | .copyfault, _ => 2
  | _, _ => 3

/-- Whether `a` is taken before `b`: by class, then by issue tick. -/
def trapBefore (a b : Trap) : Bool := trapClass a < trapClass b || (trapClass a == trapClass b && decide (a.ttick < b.ttick))

/-- The pending cause that is taken first. -/
def firstTrap : List Trap → Option Trap
  | [] => none
  | t :: ts => match firstTrap ts with
    | none => some t
    | some u => if trapBefore u t then some u else some t

/-- Whether trap entry must wait for a reply of a request that a unit has accepted (R246). -/
def entryHeld (c : Ctx) : Bool :=
  match c.rs.wait with
  | .tcommit _ => c.commit.isSome
  | _ => false

end Sys2Proof.Machine
end

