-- ==== Sys2Proof/Machine/CsrWrite.lean ====
section
/-! DEFINITION. What a write to a CSR does when it lands (R341 to R343): the fields the mode may write, and the operations that the writes of
some CSRs are: arming a range, runs of full/empty bits, the answers of the supervisor. -/

namespace Sys2Proof.Machine

/-! ## Writes that are operations -/

/-- RGLEN arms the range that RGSEL selects, owned by the writer's PD (R50). -/
def State.armRange (s : State) (v : BitVec 32) : State :=
  let g := s.rgcfg
  let chunk : BitVec 16 := g.extractLsb' 0 16
  let p : BitVec 8 := g.extractLsb' 16 8
  let k : BitVec 4 := g.extractLsb' 24 4
  let r : Range := { next := s.rgbase, rem := v, chunk := if chunk = 0 then 1 else chunk, p := if p = 0 then 1 else p,
                     k := if k = 0 then 1 else k, owner := s.ctx.csr.dmr.extractLsb' 32 8 }
  { s with ranges := s.ranges.set s.rgsel.toNat r }

/-- FEOP clears or sets a run of granules of the running context (R117). -/
def State.feop (s : State) (set : Bool) (first count : Nat) : State :=
  { s with ctx := { s.ctx with full := if set then granSet s.ctx.full first count else granClear s.ctx.full first count } }

/-- VKILL dooms the open transaction of a TID with cause 5, and its tentative entries go at once (R149, R156); once its validations are sent it changes nothing
(R157). -/
def State.vkill (s : State) (tid : BitVec 12) : State :=
  match s.contexts.find? (fun c => c.txn.any (·.tid == tid)) with
  | some c => s.doom c.id 5
  | none =>
    if s.foreignTxns.any (·.tid == tid) && !s.foreignCommits.any (·.1 == tid) then
      { s.discardTid tid with foreignTxns := s.foreignTxns.map fun (f : ForeignTxn) => if f.tid = tid then { f with doomed := true } else f }
    else s

/-- CTXDAT writes the selected register of the selected context (Table 12.2). -/
def State.ctxdat (s : State) (v : Word) : State :=
  s.updCtx (s.trap.ctxsel.extractLsb' 0 16) fun c => { c with rs := c.rs.set (s.trap.ctxsel.extractLsb' 16 6) v }

/-! ### Engines (R191) -/

def Job.isBlat (j : Job) : Bool := match j.op with | .blat _ => true | _ => false
def State.armed (s : State) (j : Job) : Bool := s.latches.any (·.job == j.id)

/-- The entries of an engine, in queue order: chain records enter none, and an armed latch has left it. -/
def State.engineJobs (s : State) (c : CSlot) : List Job :=
  s.jobs.filter fun j => j.slot == c && j.chain.isNone && !CopyOp.aside j.op && !s.armed j

/-- Copies that an engine runs at once, and entries of its queue. -/
def engineWidth : Nat := 4
def engineQueue : Nat := 16

/-- Whether a job has been started by its engine. -/
def State.started (s : State) (j : Job) : Bool :=
  j.chain.isSome || s.armed j || ((s.engineJobs j.slot).take engineWidth).any (·.id == j.id)

/-- A latch is armed when its engine takes up the BLAT, at most four for one driver (R327). -/
def State.armOne (s : State) (j : Job) : State :=
  match j.op with
  | .blat pos =>
    if j.fail.isNone && s.started j && !s.armed j && decide (j.done.length < j.nch)
        && decide ((s.latches.filter (·.driver == pos)).length < 4) then
      { s with latches := s.latches ++ [⟨j.id, pos, j.done.length⟩] }
    else s
  | _ => s
def State.armLatches (s : State) : State := s.jobs.foldl State.armOne s

def State.updJob (s : State) (id : Nat) (f : Job → Job) : State := { s with jobs := updFirst (·.id == id) f s.jobs }
def State.findJob (s : State) (id : Nat) : Option Job := s.jobs.find? (·.id == id)
/-- A job leaves its engine, complete or dropped, with the latch it armed. -/
def State.endJob (s : State) (id : Nat) : State :=
  (State.armLatches { s with jobs := s.jobs.filter (·.id != id), latches := s.latches.filter (·.job != id) }).reap

/-- The channel of a chain record. -/
def State.setChan (s : State) (ch : BitVec 3) (c : Chain) : State := { s with chan := s.chan.set ch.toNat c }

/-- The chunks of a failed copy that have not succeeded run again; a BLAT that goes on arms its latch again (R198, R202). -/
def State.resumeJob (s : State) (id : Nat) : State := State.armLatches (s.updJob id fun j => { j with fail := none, failed := [] })

/-- CFRES 1 resumes the failed copy, 2 discards it; either clears VALID and nothing else of the record (R198). -/
def State.cfres (s : State) (resume : Bool) : State :=
  if !s.frec.valid then s
  else
    let t := { s with frec := { s.frec with valid := false, job := none } }
    match s.frec.job with
    | none => t
    | some id =>
      match s.jobs.find? (·.id == id) with
      | none => t
      | some j =>
        if resume then
          match j.chain with
          | some (ch, rec) =>
            let c := t.chan[ch.toNat]
            if j.nch = 0 then (t.setChan ch { c with walking := true, next := rec }).endJob id
            else (t.setChan ch { c with walking := true }).resumeJob id
          | none => t.resumeJob id
        else t.endJob id

/-! ## The stored CSRs -/

def State.updCsr (s : State) (f : CtxCsr → CtxCsr) : State := { s with ctx := { s.ctx with csr := f s.ctx.csr } }

/-- FPCSR as stored: RM 4 to 7 store 0 (Table 4.2). -/
def fpcsrStore (v : Word) : BitVec 8 :=
  if v.getLsbD 2 then (v.extractLsb' 0 8) &&& 0xF8 else v.extractLsb' 0 8

/-- DMR as stored: U mode writes SLVL alone (R40). -/
def dmrStore (mode : Mode) (old v : Word) : Word :=
  match mode with
  | .u => (old &&& ~~~7#64) ||| (v &&& 7#64)
  | .s => v &&& 0xFFFF00FFFFFF0007#64

/-- The value `op` gives a CSR that holds `old` (R341). -/
def csrCombine (op : CsrOp) (old v : Word) : Word :=
  match op with
  | .write => v
  | .set => old ||| v
  | .clear => old &&& ~~~v

/-- A CSR write that a core may make lands: `v` is the whole new value, fields of other modes still in it. -/
def State.csrStore (s : State) (n : Nat) (v : Word) : State :=
  if n = 0x008 then s.updCsr fun k => { k with fpcsr := fpcsrStore v }
  else if n = 0x010 then (s.updCsr fun k => { k with dmr := dmrStore s.mode k.dmr v }).applyCeiling
  else if n = 0x030 then { s with rgsel := v.extractLsb' 0 6 }
  else if n = 0x031 then { s with rgbase := v.extractLsb' 0 32 }
  else if n = 0x032 then s.armRange (v.extractLsb' 0 32)
  else if n = 0x033 then { s with rgcfg := v.extractLsb' 0 28 }
  else if n = 0x040 then s.updCsr fun k => { k with mbxf := v.extractLsb' 0 8 }
  else if n = 0x052 then
    if v.extractLsb' 62 2 = (1 : BitVec 2) then s.feop false (v.extractLsb' 0 18).toNat (v.extractLsb' 24 20).toNat
    else if v.extractLsb' 62 2 = (2 : BitVec 2) then s.feop true (v.extractLsb' 0 18).toNat (v.extractLsb' 24 20).toNat
    else s
  else if n = 0x053 then s.updCsr fun k => { k with rcnt := v.extractLsb' 0 4 }
  else if h : 0x200 ≤ n ∧ n ≤ 0x207 then
    s.updCsr fun k => { k with ccfg := k.ccfg.set (n - 0x200) (v &&& 0xF000FFFFFFFFFFFF#64) (by omega) }
  else if h : 0x208 ≤ n ∧ n ≤ 0x20F then
    { s with ctx := { s.ctx with ec := s.ctx.ec.set (n - 0x208) (v.extractLsb' 0 32) (by omega) } }
  else match s.mode with
    | .u => s
    | .s =>
      if n = 0x050 then s.updCsr fun k => { k with atp := v &&& 0xFFFF00FFFFFFF000#64 }
      else if n = 0x051 then { s with wctx := v.extractLsb' 0 16 }
      else if n = 0x216 then
        if v.extractLsb' 0 2 = (1 : BitVec 2) then s.cfres true
        else if v.extractLsb' 0 2 = (2 : BitVec 2) then s.cfres false else s
      else if n = 0x309 then s.vkill (v.extractLsb' 0 12)
      else if n = 0x310 then s.updCsr fun k => { k with sqrole := (v &&& 0x1FF03#64).setWidth 17 }
      else if n = 0x320 then s.updCsr fun k => { k with tapgnt := v }
      else if n = 0x321 then s.updCsr fun k => { k with stbase := v.extractLsb' 0 48 }
      else if n = 0x322 then s.updCsr fun k => { k with stcnt := v.extractLsb' 0 16 }
      else if n = 0x324 then { s with tevr := v.extractLsb' 0 53 }
      else if n = 0x401 then
        s.updCsr fun k => { k with oppctl := (v &&& (if s.feature featAUTO then 0xFFFF01#64 else 0xFFFF00#64)).setWidth 24 }
      else if n = 0x501 then { s with trap := { s.trap with tepc := v.extractLsb' 0 48 } }
      else if n = 0x505 then { s with trap := { s.trap with tvec := (v &&& ~~~31#64).extractLsb' 0 48 } }
      else if n = 0x506 then { s with trap := { s.trap with tscr := v } }
      else if n = 0x508 then { s with trap := { s.trap with bken := v.getLsbD 63, bkaddr := v.extractLsb' 0 48 } }
      else if n = 0x509 then { s with trap := { s.trap with ctxsel := v.extractLsb' 0 22 } }
      else if n = 0x50A then s.ctxdat v
      else if n = 0x50B then
        if v.extractLsb' 16 2 = (0 : BitVec 2) then s
        else { s with trap := { s.trap with ctxcmd := some (v.extractLsb' 16 2, v.extractLsb' 0 16) } }
      else s

/-- A CSR instruction lands: read and write in one step (R341). CSRs that read as 0 combine with 0. -/
def State.csrLand (s : State) (op : CsrOp) (n : BitVec 12) (v : Word) : State :=
  s.csrStore n.toNat (csrCombine op (csrRead s n) v)

/-- A firmware write of the KV window of a stack (R255). -/
def State.bdeStore (s : State) (die n : Nat) (v : Word) : State :=
  let b := s.bdeOf die
  let b' : StackBde :=
    if n = 0xF20 then { b with kvwb := (v &&& 0xFFFFF0000#64).extractLsb' 0 36 }
    else if n = 0xF21 then { b with kvwn := v.extractLsb' 0 20 }
    else { b with kvhb := (v &&& 0xFFFFFFFC0#64).extractLsb' 0 36 }
  { s with bde := s.bde.setIfInBounds die b' }

/-- A firmware write through the management port, to the other F-mode CSRs that a value is stored in (R231, R276, R289). -/
def State.fStore (s : State) (n : Nat) (v : Word) : State :=
  if n = 0xF10 then { s with ptbase := (v &&& ~~~63#64).extractLsb' 0 48 }
  else if n = 0xF11 then { s with ptlog := v.extractLsb' 0 53 }
  else if h : 0xF38 ≤ n ∧ n ≤ 0xF3F then
    { s with power := { s.power with pwt := s.power.pwt.set (n - 0xF38) (v.extractLsb' 0 32) (by omega) } }
  else if n = 0xF40 then { s with pexb := v }
  else if n = 0xF41 then { s with pexl := v }
  else s

end Sys2Proof.Machine
end

