-- ==== Sys2Proof/Machine/Land.lean ====
section
/-! DEFINITION. Results land at tick boundaries (R60 to R65), and a tick ends. -/

namespace Sys2Proof.Machine

/-! ## Stream ports -/

/-- Element size in bits as the patterns take it (R80). -/
def hElemBits (h : Handle) : Nat :=
  match (hEtypeBits h).toNat with
  | 0 | 5 | 6 => 32
  | 1 | 2 | 7 | 8 => 16
  | 11 => 64
  | 12 => 2
  | 13 => 4
  | _ => 8

def dim1s (n : Nat) : Nat := if n = 0 then 1 else n

/-- Bytes of a row, beats of a row, beats of the whole pattern (R80). -/
def rowBytes (h : Handle) : Nat := (dim1s (hDim0 h) * hElemBits h + 7) / 8
def rowBeats (h : Handle) : Nat := (rowBytes h + 255) / 256
def patternBeats (h : Handle) : Nat := rowBeats h * dim1s (hDim1 h) * dim1s (hDim2 h)
/-- The byte offset from BASE of beat `k` of a pattern, and its valid bytes. -/
def beatOffset (h : Handle) (k : Nat) : Int × Nat :=
  let b := rowBeats h
  let j := k % b
  let i1 := k / b % dim1s (hDim1 h)
  let i2 := k / b / dim1s (hDim1 h)
  ((256 * j : Nat) + hStride1 h * i1 + hStride2 h * i2, min 256 (rowBytes h - 256 * j))

/-- Beats that a port's write queue takes before a push holds (log 16). -/
def portDepth : Nat := 64

def State.updPort (s : State) (p : PortNo) (f : Port → Port) : State :=
  { s with ctx := { s.ctx with ports := s.ctx.ports.set p.toNat (f s.ctx.ports[p.toNat]) } }

/-- Slot `k` of a ring or of a versioned buffer (R80, R162). -/
def slotBase (h : Handle) (k : Nat) : Word :=
  hBase h + (if hVERS h then 64 else 0) + BitVec.ofNat 64 (64 * hSlotsz h * k)

def hRing (h : Handle) : Bool := hKind h == 2

/-- The handle of a port. -/
def State.portH (s : State) (q : Port) : Handle := s.ctx.rs.h[q.h.toNat]

/-- A header of a versioned buffer, bytes 0 to 7, at a virtual address (Table 7.4). -/
def State.header (s : State) (va : Word) : Option (Pa × Word) :=
  match s.translate s.ctx.csr.atp s.mode .read true va 8 with
  | .ok p => some (p, BitVec.ofNat 64 (s.numPa p.pa.toNat 8))
  | .error _ => none

abbrev vhRead (w : Word) (k : Nat) : Nat := (w.toNat / 256 ^ k) % 256
abbrev vhBufver (w : Word) : Nat := (w.toNat / 2 ^ 32) % 256
abbrev vhNslot (w : Word) : Nat := (w.toNat / 2 ^ 40) % 256
abbrev vhPslot (w : Word) : Nat := (w.toNat / 2 ^ 48) % 4
abbrev vhWslot (w : Word) : Nat := (w.toNat / 2 ^ 50) % 4
abbrev vhPub (w : Word) : Nat := (w.toNat / 2 ^ 52) % 2
/-- The header word without its reserved bits, which an update writes as 0 (R8, Table 7.4). -/
abbrev vhKeep (w : Word) : Word := w &&& 0x1FFFFFFFFFFFFF

/-- Where a port's pattern starts for its beat `k`: the region, a ring slot, the writer's or the bound reader's version slot
(R80, R163, R164). A KIND 2 handle applies its pattern within one slot, as R194 says of copies. -/
def State.portBase (s : State) (q : Port) (k : Nat) : Option Word :=
  let h := s.portH q
  if hRing h then
    let n := if hNslot h = 0 then 1 else hNslot h
    some (slotBase h (if q.wr then hTail h else (hHead h + (k / patternBeats h - q.taken / patternBeats h)) % n))
  else if hVERS h then
    if q.wr then (s.header (hBase h)).map fun w => slotBase h (vhWslot w.2)
    else (s.ctx.bounds.find? (·.h == q.h)).map fun b => slotBase h b.slot
  else some (hBase h)

/-- The address and valid bytes of a port's beat `k`. -/
def State.portAddr (s : State) (q : Port) (k : Nat) : Option (Word × Nat) :=
  let h := s.portH q
  let o := beatOffset h (k % patternBeats h)
  (s.portBase q k).map fun b => (b + BitVec.ofInt 64 o.1, o.2)

/-- Whether a write port has space for its pattern beat `last`, with `queued` beats waiting: the ring has a free slot, the writer's version
slot has no reader, the queue has room (R65, R80, R163). -/
def State.portSpace (s : State) (q : Port) (last queued : Nat) : Bool :=
  let h := s.portH q
  let b := patternBeats h
  (!hRing h || decide (hFilled h + (last / b - q.taken / b) < hNslot h))
    && decide (queued ≤ portDepth)
    && !(hVERS h && match s.header (hBase h) with | some (_, w) => vhRead w (vhWslot w) != 0 | none => false)

/-- A popped beat is consumed: an FE stream in consume mode clears its granules, a ring gives up the slot read whole, whose pop is an acquire
at CORE scope (R143). -/
def State.portAdv (s : State) (p : PortNo) : State :=
  let q := s.ctx.ports[p.toNat]
  let h := s.portH q
  let s := if hFE h && !q.peek then
      match s.portAddr q q.taken with
      | some (va, n) => match s.ownSpm .read va n with
        | some o => { s with ctx := { s.ctx with full := granClear s.ctx.full (o / 16) (granCount o n) } }
        | none => s
      | none => s
    else s
  let s := s.updPort p fun q => { q with taken := q.taken + 1 }
  if hRing h && (q.taken + 1) % patternBeats h == 0 then ({ s with ctx := s.ctx.updH q.h false 1 } : State).acquireL1 else s

/-- A ring slot begun through a write port counts as filled when the port is unbound (R330). -/
def State.closePort (s : State) (p : PortNo) : State :=
  let q := s.ctx.ports[p.toNat]
  let s := if q.bound && q.wr && hRing (s.portH q) && q.taken % patternBeats (s.portH q) != 0
    then { s with ctx := s.ctx.updH q.h true 1 } else s
  s.updPort p fun _ => .unbound

/-! ## One landing -/

/-- A bit write to gr (R62): bit 0 stays 1. -/
def RegSet.setGr (r : RegSet) (n : BitVec 4) (b : Bool) : RegSet :=
  r.set 50 (setBits r.s[50] n.toNat 1 (if b then 1 else 0))

/-- Zero the banks of a region (R181). -/
def zeroBanks (m : Mem) (banks : List Nat) : Mem := m.filter fun c => !(banks.contains (c.1 / acmBankBytes))

/-- What a result does at its landing tick. -/
def State.applyLand (s : State) (a : Land) : State :=
  match a with
  | .sreg n v => if isPush n then s.pushOut n v else s.setRs (s.rs.set n v)
  | .greg n b => s.setRs (s.rs.setGr n b)
  | .hfield h f v => s.setRs (s.rs.setH h (setField (s.hreg h) f v))
  | .himage h v => s.setRs (s.rs.setH h v)
  | .hadv h tail pos filled => s.setRs (s.rs.setH h (setBits (setBits (s.hreg h) (if tail then 208 else 200) 8 pos) 216 8 filled))
  | .engine h tail k => s.setRs (s.rs.setH h (ringStep tail k (s.hreg h)))
  | .mp n v => { s with ctx := { s.ctx with mp := s.ctx.mp.set n.toNat v } }
  | .csr op n v => s.csrLand op n v
  | .latch k v => { s with ctx := { s.ctx with latches := s.ctx.latches.set (if k = .v0 then 0 else 1) v (by split <;> omega) } }
  | .mask k m => { s with ctx := { s.ctx with masks := s.ctx.masks.set (if k = .v0 then 0 else 1) m (by split <;> omega) } }
  | .push k p v b t => s.updPort p fun q =>
    if q.bound && q.wr then { q with beats := q.beats ++ [v], pos := q.pos + 1, pushers := q.pushers ++ [(k, b, t)] } else q
  | .fflags f => s.updCsr fun k => { k with fpcsr := k.fpcsr ||| f }
  | .bindPort p h wr peek => s.updPort p fun _ => { Port.unbound with bound := true, wr := wr, peek := peek, h := h }
  | .unbindPort p => s.closePort p
  | .portAdv p => s.portAdv p
  | .vpub h v => s.setRs (s.rs.setH h (setBits (setBits (s.hreg h) 224 8 v.toNat) 232 8 (v.toNat / 256)))
  | .acquireBanks k banks =>
    { s with ctx := { s.ctx with regions := s.ctx.regions.set k.toNat (some ⟨banks, 0⟩), acm := zeroBanks s.ctx.acm banks } }
  | .reseed id key ctr => s.updCtx id fun c => { c with rngq := [], rngKey := key, rngCtr := ctr }

/-- CSR writes come first, then other results; gr bit writes, flags and the engines' ring updates last (R62, R89, R343, R361). -/
def Land.rank : Land → Nat
  | .csr .. | .portAdv _ => 0
  | .greg .. | .fflags _ | .engine .. => 2
  | _ => 1

def applyLands : List Land → State → State
  | [], s => s
  | a :: as, s => applyLands as (s.applyLand a)

/-- Pushes to one queue port among results. -/
def pushCount (n : SReg) (fs : List Flight) : Nat :=
  (fs.filter fun f => match f.act with | .sreg m _ => m == n | _ => false).length

/-- Beats for one port among results. -/
def beatCount (p : PortNo) (fs : List Flight) : Nat :=
  (fs.filter fun f => match f.act with | .push _ q _ _ _ => q == p | _ => false).length

/-- Whether every beat due at a port has space. -/
def State.beatsFit (s : State) (fs : List Flight) : Bool :=
  (List.finRange 32).all fun i =>
    let k := beatCount (BitVec.ofFin i) fs
    let q := s.ctx.ports[i]
    k == 0 || !q.bound || s.portSpace q (q.pos + k - 1) (q.beats.length + k)

/-- Whether every result due is present and every queue and port it is pushed to has room (R65). -/
def State.landReady (s : State) : Bool :=
  let fs := s.rs.due
  fs.all (fun f => f.req.isNone) && s.beatsFit fs &&
    [61, 62, 63].all fun n => pushCount n fs == 0 || s.pushRoom n (pushCount n fs - 1)

/-- What waits for the context's tick boundary takes effect after what lands there: a local result wins over a mailbox write, a count adds to the
value written (R62, R66). In S mode the context has no boundary. -/
def State.takeLater (s : State) (acts : List Land) : State :=
  match s.mode with
  | .u => { s with ctx := s.ctx.takeAll (acts.filterMap fun a => match a with | .sreg n _ => some n.toNat | _ => none) }
  | .s => s

/-- Land every result due at the running tick, in issue order within each rank, and what waits for the boundary. -/
def State.landAll (s : State) : State :=
  let acts := s.rs.due.map (·.act)
  let r := s.rs
  let s := s.setRs { r with flights := r.flights.filter fun f => !decide (f.due ≤ r.tick) }
  (applyLands (acts.filter (·.rank == 2)) (applyLands (acts.filter (·.rank == 1)) (applyLands (acts.filter (·.rank == 0)) s))).takeLater acts

/-- A load due at this tick whose data an uncorrectable error has hit (R254). -/
def State.lostDue (s : State) : Option Req :=
  s.rs.due.findSome? fun f => f.req.bind fun id => s.rs.reqs.find? fun q => q.id == id && q.lost.isSome

/-- MCHK at the boundary before the load's landing tick. In S mode, where MCHK is no double trap (R248), the destination is not written and the
trap waits for the context (log 51). -/
def State.machineCheck (s : State) (q : Req) : State :=
  let t := mkBoundary .mchk 0 q.bundle q.tick (q.lost.getD 0)
  let s := s.pendOnce t
  match s.mode with
  | .u => s
  | .s => s.setRs { s.rs with reqs := s.rs.reqs.filter (·.id != q.id), flights := s.rs.flights.filter (·.req != some q.id) }

/-- RESULT_LANDING: what is due lands, unless something due is not present. -/
def State.landDue (s : State) : State :=
  match s.lostDue with
  | some q => s.machineCheck q
  | none => if s.landReady then s.landAll else s

/-! ## The end of a tick -/

/-- Energy is charged to a context, a debit absorbing it first (R280). -/
def Ctx.charge (c : Ctx) (e : Nat) : Ctx :=
  let paid := min e c.debit
  { c with debit := c.debit - paid, csr := { c.csr with ecnt := c.csr.ecnt + BitVec.ofNat 64 (e - paid) } }

/-- The estimate of a tick's energy is charged to the context in whose behalf the core runs (R280, R346); its amount is free (log 13). -/
def State.charge (s : State) : State :=
  let e := (Config.tickEnergy s.draws).toNat
  { s.updServed (fun c => { c.charge e with estimate := c.estimate + e }) with draws := s.draws + 1 }

/-- The tick in progress: its mode, its context and its number. -/
def State.tickName (s : State) : Mode × BitVec 16 × Nat := (s.mode, s.ctx.id, s.rs.tick)

/-- A tick ends in a settling window; the requesting tick itself does not count (R267). -/
def Power.tickWindow (p : Power) (tick : Mode × BitVec 16 × Nat) : Power :=
  if !p.settling then p
  else if p.fresh = some tick then { p with fresh := none }
  else { p with rem := p.rem - 1, settling := decide (1 < p.rem) }

/-- The per-tick marks of the ports and of the bundle's random word end with the tick. -/
def Ctx.endTick (c : Ctx) : Ctx :=
  { c with ports := c.ports.map (fun p => { p with popped := none }), bundleRnd := none }

/-- Waits that last over several ticks go on: those that pass empty ticks (R67). -/
def Wait.afterTick (w : Wait) (tick : Nat) : Wait :=
  match w with
  | .exitDrain n l m => .exitDrain n l m
  | .emptyUntil m => if tick ≤ m then .emptyUntil m else .none
  | _ => .none

/-- The tick boundary: the tick count rises, due results land (R60). -/
def State.boundary (s : State) : State :=
  let r := s.rs
  let s := { s.setRs { r with tick := r.tick + 1, wait := Wait.afterTick r.wait (r.tick + 1), mid := false } with
    power := s.power.tickWindow s.tickName }
  let s := { s with ctx := s.ctx.endTick }
  (s.charge).landDue

/-! ## The transpose unit (R206) -/

/-- The width in bits of an XPOSE's elements. -/
def xposeWidth (w : BitVec 2) : Nat := 32 / 2 ^ w.toNat
/-- Rows of the block per beat. -/
def xposeRows (w : BitVec 2) : Nat := 32 / xposeWidth w

/-- Element (r, c) of a 64 × 64 block held in beats. -/
def xposeElem (wd rows : Nat) (beats : List Beat) (r c : Nat) : Nat :=
  (beats.getD (r / rows) 0).toNat / 2 ^ (wd * (64 * (r % rows) + c)) % 2 ^ wd

/-- Output beat `j` of the transpose. -/
def xposeOut (w : BitVec 2) (beats : List Beat) (j : Nat) : Beat :=
  let wd := xposeWidth w
  let rows := xposeRows w
  BitVec.ofNat 2048 ((List.range (64 * rows)).foldl (fun acc i =>
    acc + xposeElem wd rows beats (i % 64) (j * rows + i / 64) * 2 ^ (wd * i)) 0)

/-- Push beat `v` to a port `lat` ticks from now. -/
def State.pushBeat (s : State) (slot : BitVec 3) (p : PortNo) (lat : Nat) (v : Beat) : State := s.inFlight lat (.push slot p v s.rs.pc s.rs.tick)

/-- Pop a port's beat, once a tick (R81); it is consumed at the boundary. -/
def State.popPort (s : State) (p : PortNo) : Beat × State :=
  let q := s.ctx.ports[p.toNat]
  match q.popped with
  | some b => (b, s)
  | none => match q.beats with
    | b :: bs => (b, (s.updPort p fun q => { q with beats := bs, popped := some b }).inFlight 1 (.portAdv p))
    | [] => (0, s)

/-- The outputs of the transpose unit among the results in flight take their values: they have been there, in issue order, since XPOSE issued
(R62, R206). -/
def RegSet.fillPushes (r : RegSet) (order : Nat) (outs : List Beat) : RegSet :=
  { r with flights := r.flights.map fun f =>
      match f.act with
      | .push k p _ b t => if order ≤ f.order ∧ f.order < order + outs.length then { f with act := .push k p (outs.getD (f.order - order) 0) b t } else f
      | _ => f }

/-- The transpose unit takes its beat of this tick; with the last its outputs have their values. -/
def State.xposeTake (s : State) : State :=
  match s.mode, s.ctx.xpose with
  | _, none => s
  | .s, _ => s
  | .u, some x =>
    let (b, s) := s.popPort x.src
    let beats := x.beats ++ [b]
    if x.left ≤ 1 then
      let s := s.setRs (s.rs.fillPushes x.order ((List.range beats.length).map fun j => xposeOut x.w beats j))
      { s with ctx := { s.ctx with xpose := none } }
    else { s with ctx := { s.ctx with xpose := some { x with beats := beats, left := x.left - 1 } } }

/-- A port has a beat to give: popped in this tick already, or queued. -/
def Port.ready (q : Port) : Bool := q.popped.isSome || !q.beats.isEmpty

/-- Whether the transpose unit can take its beat of this tick. -/
def State.xposeReady (s : State) : Bool :=
  match s.mode, s.ctx.xpose with
  | _, none => true
  | .s, _ => true
  | .u, some x => s.ctx.ports[x.src.toNat].ready

/-- An empty tick (R67): no bundle issues, the transpose unit goes on, the tick ends. -/
def State.emptyTick (s : State) : State := if s.xposeReady then s.xposeTake.boundary else s

/-! ## A slot instruction -/

/-- What an instruction of a slot does: the trap it raises before it issues, the last landing tick it awaits before issue (R67, 0 for none), whether it
holds (R65), and its effect. Everything reads the state of the issue tick (R60). -/
structure Slot where
  trap : State → Option Trap
  empty : State → Nat
  hold : State → Bool
  act : State → State

/-- An instruction that acts: its trap is taken, or it waits, or it has its effect. -/
def Slot.run (m : Slot) (s : State) : State :=
  match s.rs.wait with
  | .emptyUntil _ => s.emptyTick
  | _ =>
    if s.rs.tick < m.empty s then (s.setRs { s.rs with wait := .emptyUntil (m.empty s) }).emptyTick
    else match m.trap s with
      | some t => s.raise t
      | none => if m.hold s then s else m.act s

/-- A slot instruction under its guard; one that is guarded off does nothing (R72). -/
def runSlot (g : Guard) (m : Slot) (s : State) : Host.Outcome State Fault Refusal :=
  .next (if guardOn g s then m.run s else s)

/-- An instruction of the S slot: traps of queue ports first (R70), then its own, on its operands' values; it holds while a pop port it
names is empty. -/
def Slot.scalar (srcs dsts : List SReg) (trap : List Word → State → Option Trap) (hold : List Word → State → Bool)
    (act : List Word → State → State) : Slot where
  trap s :=
    match srcs.find? (fun n => isPush n || (isQueue n && s.mode == .s)) with
    | some n => some (mkTrap .queue 0 (n.setWidth 64))
    | none => match dsts.find? (fun n => isPop n || (isQueue n && s.mode == .s)) with
      | some n => some (mkTrap .queue 0 (n.setWidth 64))
      | none => if operandsReady srcs s then trap (operands srcs s).1 s else none
  empty _ := 0
  hold s := !operandsReady srcs s || hold (operands srcs s).1 s
  act s := act (operands srcs s).1 (operands srcs s).2

def noTrap (_ : List Word) (_ : State) : Option Trap := none
def noHold (_ : List Word) (_ : State) : Bool := false

/-- Operand `i` of the values. -/
def arg (vs : List Word) (i : Nat) : Word := vs.getD i 0

end Sys2Proof.Machine
end

