-- ==== Sys2Proof/Machine/Flags.lean ====
section
/-! DEFINITION. Conditions and flags: integer conditions (Table 16.5), branch conditions (R299), guard-bit and flag results, the FPCSR controls
as the units read them (R89). -/

namespace Sys2Proof.Machine

/-- An integer condition on two words of one width (R337, R385): codes 10 and 11 are none and never hold. -/
def intCond {w : Nat} (cc : Cond) (x y : BitVec w) : Bool :=
  match cc with
  | .eq => x == y
  | .ne => x != y
  | .lt => x.slt y
  | .ge => !x.slt y
  | .ltu => x.ult y
  | .geu => !x.ult y
  | .gt => y.slt x
  | .le => !y.slt x
  | .gtu => y.ult x
  | .leu => !y.ult x
  | .un | .ord => false

/-- A branch condition on the tested register (R299). -/
def brCond (c : BrCond) (v : Word) : Bool :=
  match c with
  | .always => true
  | .eqz => v == 0
  | .nez => v != 0
  | .ltz => v.slt 0
  | .gez => !v.slt 0
  | .gtz => (0 : Word).slt v
  | .lez => !(0 : Word).slt v

/-- Land a compare: 1 or 0 in a register, or a bit write to gr (R337, R353). -/
def State.landCond (s : State) (toReg : Bool) (d : SReg) (lat : Nat) (b : Bool) : State :=
  if toReg then s.landS d lat (if b then 1 else 0) else s.inFlight lat (.greg (d.extractLsb' 0 4) b)

/-- The rounding mode of FPCSR.RM (Table 4.2). -/
def rmOf (f : BitVec 8) : Rnd :=
  match (f.extractLsb' 0 2).toNat with
  | 0 => .rne | 1 => .rtz | 2 => .rdn | _ => .rup

def State.fpMode (s : State) : Rnd := rmOf s.ctx.csr.fpcsr
def State.ftz (s : State) : Bool := s.ctx.csr.fpcsr.getLsbD 3

/-- The mode a conversion's selector names (Table 4.3); `r` is the lane's random bits for SRND. -/
def selMode (s : State) (rm : RSel) (r : Nat) : Rnd :=
  match rm with
  | .rne => .rne | .rtz => .rtz | .rdn => .rdn | .rup => .rup | .srnd => .srnd r | .fpcsr => s.fpMode

/-- The random bits of a lane from the bundle's word (R92). -/
def laneRandom (w : BitVec 32) (lane : Nat) : Nat := (mix32 (w ^^^ BitVec.ofNat 32 lane)).toNat % 65536

/-- Land an FP32 result and its flags (R86, R89). -/
def State.landF (s : State) (d : SReg) (lat : Nat) (r : FRes) : State :=
  (s.landS d lat (BitVec.ofNat 64 r.1)).inFlight lat (.fflags r.2)

/-! ## The bundle's random word (R92) -/

/-- Whether a user of the bundle's word can have it: popped already, or queued after `before` earlier pops of the bundle. -/
def State.rndReady (s : State) (before : Nat) : Bool := s.ctx.bundleRnd.isSome || decide (before < s.ctx.rngq.length)

/-- The bundle's word, popped once. -/
def State.popRnd (s : State) : BitVec 32 × State :=
  match s.ctx.bundleRnd with
  | some w => (w, s)
  | none =>
    let w := s.ctx.rngq.headD 0
    (w, { s with ctx := { s.ctx with rngq := s.ctx.rngq.tail, bundleRnd := some w } })

end Sys2Proof.Machine
end

