-- ==== Sys2Proof/Machine/ScalarAlu.lean ====
section
/-! DEFINITION. The scalar integer instructions (R319, R320, R336, R337, R345, R350, R367, R369, R370, R374). -/

namespace Sys2Proof.Machine

/-- Two operands, one result of a fixed latency, no trap on any value. -/
def alu2 (lat : Nat) (d a b : SReg) (f : Word → Word → Word) : Slot :=
  Slot.scalar [a, b] [d] noTrap noHold fun vs s => s.landS d lat (f (arg vs 0) (arg vs 1))

/-- One operand, one result. -/
def alu1 (lat : Nat) (d a : SReg) (f : Word → Word) : Slot :=
  Slot.scalar [a] [d] noTrap noHold fun vs s => s.landS d lat (f (arg vs 0))

/-- No operand, one result. -/
def alu0 (lat : Nat) (d : SReg) (v : Word) : Slot := Slot.scalar [] [d] noTrap noHold fun _ s => s.landS d lat v

def slotNop : Slot := ⟨fun _ => none, fun _ => 0, fun _ => false, id⟩

/-! ### Functions (Table 17.1) -/

def smin (x y : Word) : Word := if y.slt x then y else x
def smax (x y : Word) : Word := if x.slt y then y else x
def umin (x y : Word) : Word := if y.ult x then y else x
def umax (x y : Word) : Word := if x.ult y then y else x
def shl6 (x : Word) (n : Word) : Word := x <<< (n.toNat % 64)
def shr6 (x : Word) (n : Word) : Word := x >>> (n.toNat % 64)
def sra6 (x : Word) (n : Word) : Word := x.sshiftRight (n.toNat % 64)

/-- The upper halves of the exact products (R370). -/
def mulhS (x y : Word) : Word := BitVec.ofInt 64 ((x.toInt * y.toInt) / 2 ^ 64)
def mulhU (x y : Word) : Word := BitVec.ofNat 64 ((x.toNat * y.toNat) / 2 ^ 64)

/-- The quotients of R345, truncated toward zero. -/
def divS (x y : Word) : Word := if y = 0 then BitVec.allOnes 64 else BitVec.ofInt 64 (Int.tdiv x.toInt y.toInt)
def divU (x y : Word) : Word := if y = 0 then BitVec.allOnes 64 else BitVec.ofNat 64 (x.toNat / y.toNat)

/-- Leading zeros and ones of a word, by its bits (R336). -/
def clzGo (x : Word) : Nat → Nat
  | 0 => 64
  | k + 1 => if x.getLsbD k then 63 - k else clzGo x k
def popGo (x : Word) : Nat → Nat
  | 0 => 0
  | k + 1 => (if x.getLsbD k then 1 else 0) + popGo x k
def clz64 (x : Word) : Word := BitVec.ofNat 64 (clzGo x 64)
def pop64 (x : Word) : Word := BitVec.ofNat 64 (popGo x 64)

/-- Bit fields (R350). -/
def extField (x : Word) (pos len : Nat) (sx : Bool) : Word :=
  let f := x.toNat / 2 ^ pos % 2 ^ len
  if sx then sext len f else BitVec.ofNat 64 f
def insField (old x : Word) (pos len : Nat) : Word := setBits old pos len x.toNat

def imm30 (i : BitVec 30) : Word := i.signExtend 64
def imm25 (i : BitVec 25) : Word := i.signExtend 64

/-! ### Meanings -/

def meaningAdd (d a b : SReg) : Slot := alu2 1 d a b (· + ·)
def meaningSub (d a b : SReg) : Slot := alu2 1 d a b (· - ·)
def meaningAnd (d a b : SReg) : Slot := alu2 1 d a b (· &&& ·)
def meaningOr (d a b : SReg) : Slot := alu2 1 d a b (· ||| ·)
def meaningXor (d a b : SReg) : Slot := alu2 1 d a b (· ^^^ ·)
def meaningAndn (d a b : SReg) : Slot := alu2 1 d a b fun x y => x &&& ~~~y
def meaningShl (d a b : SReg) : Slot := alu2 1 d a b shl6
def meaningShr (d a b : SReg) : Slot := alu2 1 d a b shr6
def meaningSra (d a b : SReg) : Slot := alu2 1 d a b sra6
def meaningMin (d a b : SReg) : Slot := alu2 1 d a b smin
def meaningMinu (d a b : SReg) : Slot := alu2 1 d a b umin
def meaningMax (d a b : SReg) : Slot := alu2 1 d a b smax
def meaningMaxu (d a b : SReg) : Slot := alu2 1 d a b umax
def meaningMul (d a b : SReg) : Slot := alu2 3 d a b (· * ·)
def meaningMulh (d a b : SReg) : Slot := alu2 3 d a b mulhS
def meaningMulhu (d a b : SReg) : Slot := alu2 3 d a b mulhU
def meaningDiv (d a b : SReg) : Slot := alu2 20 d a b divS
def meaningDivu (d a b : SReg) : Slot := alu2 20 d a b divU
def meaningClz (d a : SReg) : Slot := alu1 1 d a clz64
def meaningPopc (d a : SReg) : Slot := alu1 1 d a pop64
/-- SEL reads its guard code at issue (R374). -/
def meaningSel (d a b : SReg) (code : Guard) : Slot :=
  Slot.scalar [a, b] [d] noTrap noHold fun vs s => s.landS d 1 (if guardOn code s then arg vs 0 else arg vs 1)
def meaningCmp (toReg : Bool) (d a b : SReg) (cc : Cond) : Slot :=
  Slot.scalar [a, b] (if toReg then [d] else []) noTrap noHold fun vs s => s.landCond toReg d 1 (intCond cc (arg vs 0) (arg vs 1))
def meaningCmpi (toReg : Bool) (d a : SReg) (cc : Cond) (imm : BitVec 25) : Slot :=
  Slot.scalar [a] (if toReg then [d] else []) noTrap noHold fun vs s => s.landCond toReg d 1 (intCond cc (arg vs 0) (imm25 imm))
def meaningLea (d a b : SReg) (n : BitVec 3) : Slot := alu2 1 d a b fun x y => x + (y <<< n.toNat)
def meaningExt (d a : SReg) (pos : BitVec 6) (len : BitVec 7) (sx : Bool) : Slot :=
  alu1 1 d a fun x => extField x pos.toNat len.toNat sx
/-- INS reads its destination as a source. -/
def meaningIns (d a : SReg) (pos : BitVec 6) (len : BitVec 7) : Slot :=
  Slot.scalar [d, a] [d] noTrap noHold fun vs s => s.landS d 1 (insField (arg vs 0) (arg vs 1) pos.toNat len.toNat)
def meaningAddi (d a : SReg) (imm : BitVec 30) : Slot := alu1 1 d a (· + imm30 imm)
def meaningAndi (d a : SReg) (imm : BitVec 30) : Slot := alu1 1 d a (· &&& imm30 imm)
def meaningOri (d a : SReg) (imm : BitVec 30) : Slot := alu1 1 d a (· ||| imm30 imm)
def meaningXori (d a : SReg) (imm : BitVec 30) : Slot := alu1 1 d a (· ^^^ imm30 imm)
def meaningShli (d a : SReg) (n : BitVec 6) : Slot := alu1 1 d a (shl6 · (n.setWidth 64))
def meaningShri (d a : SReg) (n : BitVec 6) : Slot := alu1 1 d a (shr6 · (n.setWidth 64))
def meaningSrai (d a : SReg) (n : BitVec 6) : Slot := alu1 1 d a (sra6 · (n.setWidth 64))
def meaningMovi (d : SReg) (imm : BitVec 30) : Slot := alu0 1 d (imm30 imm)
def meaningMovk (d : SReg) (v : BitVec 16) (k : BitVec 2) : Slot :=
  Slot.scalar [d] [d] noTrap noHold fun vs s => s.landS d 1 (setBits (arg vs 0) (16 * k.toNat) 16 v.toNat)

/-! ### One definition per instruction -/

def execNop (g : Guard) (s : State) : Host.Outcome State Fault Refusal := runSlot g slotNop s
def execAdd (g : Guard) (d a b : SReg) (s : State) : Host.Outcome State Fault Refusal := runSlot g (meaningAdd d a b) s
def execSub (g : Guard) (d a b : SReg) (s : State) : Host.Outcome State Fault Refusal := runSlot g (meaningSub d a b) s
def execAnd (g : Guard) (d a b : SReg) (s : State) : Host.Outcome State Fault Refusal := runSlot g (meaningAnd d a b) s
def execOr (g : Guard) (d a b : SReg) (s : State) : Host.Outcome State Fault Refusal := runSlot g (meaningOr d a b) s
def execXor (g : Guard) (d a b : SReg) (s : State) : Host.Outcome State Fault Refusal := runSlot g (meaningXor d a b) s
def execAndn (g : Guard) (d a b : SReg) (s : State) : Host.Outcome State Fault Refusal := runSlot g (meaningAndn d a b) s
def execShl (g : Guard) (d a b : SReg) (s : State) : Host.Outcome State Fault Refusal := runSlot g (meaningShl d a b) s
def execShr (g : Guard) (d a b : SReg) (s : State) : Host.Outcome State Fault Refusal := runSlot g (meaningShr d a b) s
def execSra (g : Guard) (d a b : SReg) (s : State) : Host.Outcome State Fault Refusal := runSlot g (meaningSra d a b) s
def execMin (g : Guard) (d a b : SReg) (s : State) : Host.Outcome State Fault Refusal := runSlot g (meaningMin d a b) s
def execMinu (g : Guard) (d a b : SReg) (s : State) : Host.Outcome State Fault Refusal := runSlot g (meaningMinu d a b) s
def execMax (g : Guard) (d a b : SReg) (s : State) : Host.Outcome State Fault Refusal := runSlot g (meaningMax d a b) s
def execMaxu (g : Guard) (d a b : SReg) (s : State) : Host.Outcome State Fault Refusal := runSlot g (meaningMaxu d a b) s
def execMul (g : Guard) (d a b : SReg) (s : State) : Host.Outcome State Fault Refusal := runSlot g (meaningMul d a b) s
def execMulh (g : Guard) (d a b : SReg) (s : State) : Host.Outcome State Fault Refusal := runSlot g (meaningMulh d a b) s
def execMulhu (g : Guard) (d a b : SReg) (s : State) : Host.Outcome State Fault Refusal := runSlot g (meaningMulhu d a b) s
def execDiv (g : Guard) (d a b : SReg) (s : State) : Host.Outcome State Fault Refusal := runSlot g (meaningDiv d a b) s
def execDivu (g : Guard) (d a b : SReg) (s : State) : Host.Outcome State Fault Refusal := runSlot g (meaningDivu d a b) s
def execClz (g : Guard) (d a : SReg) (s : State) : Host.Outcome State Fault Refusal := runSlot g (meaningClz d a) s
def execPopc (g : Guard) (d a : SReg) (s : State) : Host.Outcome State Fault Refusal := runSlot g (meaningPopc d a) s
def execSel (g : Guard) (d a b : SReg) (code : Guard) (s : State) : Host.Outcome State Fault Refusal :=
  runSlot g (meaningSel d a b code) s
def execCmpGuard (g : Guard) (n : BitVec 4) (a b : SReg) (cc : Cond) (s : State) : Host.Outcome State Fault Refusal :=
  runSlot g (meaningCmp false (n.setWidth 6) a b cc) s
def execCmpRegister (g : Guard) (d a b : SReg) (cc : Cond) (s : State) : Host.Outcome State Fault Refusal :=
  runSlot g (meaningCmp true d a b cc) s
def execCmpi (g : Guard) (toReg : Bool) (d a : SReg) (cc : Cond) (imm : BitVec 25) (s : State) :
    Host.Outcome State Fault Refusal := runSlot g (meaningCmpi toReg d a cc imm) s
def execLea (g : Guard) (d a b : SReg) (n : BitVec 3) (s : State) : Host.Outcome State Fault Refusal :=
  runSlot g (meaningLea d a b n) s
def execExt (g : Guard) (d a : SReg) (pos : BitVec 6) (len : BitVec 7) (sx : Bool) (s : State) :
    Host.Outcome State Fault Refusal := runSlot g (meaningExt d a pos len sx) s
def execIns (g : Guard) (d a : SReg) (pos : BitVec 6) (len : BitVec 7) (s : State) : Host.Outcome State Fault Refusal :=
  runSlot g (meaningIns d a pos len) s
def execAddi (g : Guard) (d a : SReg) (imm : BitVec 30) (s : State) : Host.Outcome State Fault Refusal :=
  runSlot g (meaningAddi d a imm) s
def execAndi (g : Guard) (d a : SReg) (imm : BitVec 30) (s : State) : Host.Outcome State Fault Refusal :=
  runSlot g (meaningAndi d a imm) s
def execOri (g : Guard) (d a : SReg) (imm : BitVec 30) (s : State) : Host.Outcome State Fault Refusal :=
  runSlot g (meaningOri d a imm) s
def execXori (g : Guard) (d a : SReg) (imm : BitVec 30) (s : State) : Host.Outcome State Fault Refusal :=
  runSlot g (meaningXori d a imm) s
def execShli (g : Guard) (d a : SReg) (n : BitVec 6) (s : State) : Host.Outcome State Fault Refusal :=
  runSlot g (meaningShli d a n) s
def execShri (g : Guard) (d a : SReg) (n : BitVec 6) (s : State) : Host.Outcome State Fault Refusal :=
  runSlot g (meaningShri d a n) s
def execSrai (g : Guard) (d a : SReg) (n : BitVec 6) (s : State) : Host.Outcome State Fault Refusal :=
  runSlot g (meaningSrai d a n) s
def execMovi (g : Guard) (d : SReg) (imm : BitVec 30) (s : State) : Host.Outcome State Fault Refusal :=
  runSlot g (meaningMovi d imm) s
def execMovk (g : Guard) (d : SReg) (v : BitVec 16) (k : BitVec 2) (s : State) : Host.Outcome State Fault Refusal :=
  runSlot g (meaningMovk d v k) s

end Sys2Proof.Machine
end

