-- ==== Sys2Proof/Machine/ScalarFp.lean ====
section
/-! DEFINITION. The scalar floating-point instructions (R351 to R355). -/

namespace Sys2Proof.Machine

/-- A member of Table 18.1 of two operands: FTZ and the mode are those of FPCSR at issue. -/
def fp2 (lat : Nat) (d a b : SReg) (f : Bool → Rnd → Nat → Nat → FRes) : Slot :=
  Slot.scalar [a, b] [d] noTrap noHold fun vs s =>
    s.landF d lat (f s.ftz s.fpMode ((arg vs 0).toNat % 2 ^ 32) ((arg vs 1).toNat % 2 ^ 32))

def meaningFadd (d a b : SReg) : Slot := fp2 4 d a b (fpAdd fmtF32)
def meaningFsub (d a b : SReg) : Slot := fp2 4 d a b (fpSub fmtF32)
def meaningFmul (d a b : SReg) : Slot := fp2 4 d a b (fpMul fmtF32)
def meaningFfma (d a b c : SReg) : Slot :=
  Slot.scalar [a, b, c] [d] noTrap noHold fun vs s =>
    s.landF d 5 (fpFma fmtF32 s.ftz s.fpMode ((arg vs 0).toNat % 2 ^ 32) ((arg vs 1).toNat % 2 ^ 32) ((arg vs 2).toNat % 2 ^ 32))
def meaningFmin (d a b : SReg) : Slot := fp2 4 d a b fun ftz _ => fpPick fmtF32 ftz false
def meaningFmax (d a b : SReg) : Slot := fp2 4 d a b fun ftz _ => fpPick fmtF32 ftz true

/-- FCMP: NV is the only flag (R353). -/
def meaningFcmp (toReg : Bool) (d a b : SReg) (cc : Cond) : Slot :=
  Slot.scalar [a, b] (if toReg then [d] else []) noTrap noHold fun vs s =>
    let r := FV.cond cc (readFtz fmtF32 s.ftz ((arg vs 0).toNat % 2 ^ 32)) (readFtz fmtF32 s.ftz ((arg vs 1).toNat % 2 ^ 32))
    (s.landCond toReg d 4 r.1).inFlight 4 (.fflags (flagIf r.2 flagNV))

/-- How a converted pattern stands in the destination register (R354). -/
def landedAs (t : EType) (n : Nat) : Word := if EType.signed t then sext (EType.bitWidth t) n else BitVec.ofNat 64 n

/-- FCVT: SRND pops the bundle's word after the operand's own pops, lane 0 (R92, R354). In S mode rngq is out of reach (R246). -/
def meaningFcvt (d a : SReg) (dst src : EType) (nsat : Bool) (rm : RSel) : Slot :=
  Slot.scalar [a] [d] (fun _ s => if rm == .srnd && s.mode == .s then some (mkTrap .queue 0 57) else none) (fun _ s => rm == .srnd && !s.rndReady (if a = 57 then 1 else 0)) fun vs s =>
    let (w, s') := if rm = .srnd then s.popRnd else (0, s)
    let r := convert dst src nsat (selMode s rm (laneRandom w 0)) (arg vs 0).toNat
    (s'.landS d 3 (landedAs dst r.1)).inFlight 3 (.fflags r.2)

def execFadd (g : Guard) (d a b : SReg) (s : State) : Host.Outcome State Fault Refusal := runSlot g (meaningFadd d a b) s
def execFsub (g : Guard) (d a b : SReg) (s : State) : Host.Outcome State Fault Refusal := runSlot g (meaningFsub d a b) s
def execFmul (g : Guard) (d a b : SReg) (s : State) : Host.Outcome State Fault Refusal := runSlot g (meaningFmul d a b) s
def execFfma (g : Guard) (d a b c : SReg) (s : State) : Host.Outcome State Fault Refusal := runSlot g (meaningFfma d a b c) s
def execFmin (g : Guard) (d a b : SReg) (s : State) : Host.Outcome State Fault Refusal := runSlot g (meaningFmin d a b) s
def execFmax (g : Guard) (d a b : SReg) (s : State) : Host.Outcome State Fault Refusal := runSlot g (meaningFmax d a b) s
def execFcmp (g : Guard) (toReg : Bool) (d a b : SReg) (cc : Cond) (s : State) : Host.Outcome State Fault Refusal :=
  runSlot g (meaningFcmp toReg d a b cc) s
def execFcvt (g : Guard) (d a : SReg) (dst src : EType) (nsat : Bool) (rm : RSel) (s : State) :
    Host.Outcome State Fault Refusal := runSlot g (meaningFcvt d a dst src nsat rm) s

end Sys2Proof.Machine
end

