-- ==== Sys2Proof/Machine/Requests.lean ====
section
/-! DEFINITION. Scalar requests: sending, translation, the order of Table 6.3, acceptance at the serialisation point and the arrival of data
(R63, R109, R120, R128 to R139, R246), the combining buffer (R138) and the arrivals at domains (R41 to R45). -/

namespace Sys2Proof.Machine

/-! ## Kinds of request -/

def ReqKind.acc : ReqKind → Acc
  | .load _ | .loadH _ | .touch | .loadFe _ | .grab | .csrRemote _ => .read
  | .store _ | .storeH _ _ | .storeFe _ | .vpub _ => .write
  | .atomic .. | .atomicRemote .. | .red .. => .atomic
  | .cas .. => .cas

def ReqKind.writes (k : ReqKind) : Bool :=
  match k with
  | .store _ | .storeH _ _ | .storeFe _ | .atomic .. | .atomicRemote .. | .red .. | .cas .. | .vpub _ => true
  | _ => false

/-- Reads whose data an acquiring fence waits for (Table 6.5). -/
def ReqKind.reads (k : ReqKind) : Bool :=
  match k with
  | .load _ | .loadH _ | .loadFe _ | .atomic .. | .atomicRemote .. | .cas .. | .grab | .csrRemote _ => true
  | _ => false

/-- Requests whose data lands in a register. -/
def ReqKind.lands (k : ReqKind) : Bool :=
  match k with
  | .load _ | .loadH _ | .loadFe _ | .atomic .. | .cas .. | .grab | .csrRemote _ | .vpub _ => true
  | _ => false

def ordAcquires : Order → Bool
  | .acq | .acqrel => true
  | _ => false
def ordReleases : Order → Bool
  | .rel | .acqrel => true
  | _ => false

def sizeBytes : Size → Nat
  | .b => 1 | .h => 2 | .w => 4 | .d => 8

/-- Whether two byte ranges touch one 8-byte word. -/
def sameWords (a n b m : Nat) : Bool := decide (a / 8 ≤ (b + m - 1) / 8) && decide (b / 8 ≤ (a + n - 1) / 8)

/-- An acquire, a CAS that acquires only where it fails among them: later accesses wait until it has read (R129, R137). -/
def Req.acquires (q : Req) : Bool := ordAcquires q.ord || match q.kind with | .cas _ _ fa => fa | _ => false

/-- The physical address behind a virtual one, as the page tables stand; an address that nothing maps stands for itself. -/
def State.physIn (s : State) (atp va : Word) : Nat :=
  match s.leafIn atp va.toNat with
  | some l => l.addr va.toNat
  | none => 2 ^ 64 + va.toNat
def State.physOf (s : State) (va : Word) : Nat := s.physIn s.ctx.csr.atp va

/-- The bytes a request touches: address and length; AMOR's destination too. Words are physical (R128). -/
def State.touches (s : State) (q : Req) : List (Nat × Nat) :=
  let own := (match q.pa with | some p => p.pa.toNat | none => s.physIn q.atp q.va, q.bytes)
  match q.kind with
  | .grab => []
  | .atomicRemote _ _ dest _ => [own, (s.physIn q.atp dest, 8)]
  | _ => [own]

def State.overlap (s : State) (q r : Req) : Bool := (s.touches q).any fun a => (s.touches r).any fun b => sameWords a.1 a.2 b.1 b.2

/-! ## The combining buffer -/

/-- Flush the combining buffer: its entries are sent in age order (R138). -/
def State.flushComb (s : State) : State :=
  { s with comb := [] }.setRs { s.rs with reqs := s.rs.reqs ++ s.comb }

/-- Flush the entries of the words an access touches. -/
def State.flushWord (s : State) (va : Word) (n : Nat) : State :=
  let hit := fun (q : Req) => (s.touches q).any fun a => sameWords a.1 a.2 (s.physOf va) n
  { s with comb := s.comb.filter (fun q => !hit q) }.setRs { s.rs with reqs := s.rs.reqs ++ s.comb.filter hit }

/-! ## Sending -/

/-- A request of the running bundle; its number is the state's sequence counter. -/
def State.newReq (s : State) (kind : ReqKind) (va : Word) (n : Nat) (ord : Order) (scope : Scope) (rcn : BitVec 4) : Req :=
  { id := s.seq, kind := kind, va := va, bytes := n, ord := ord, scope := scope, rcn := rcn, bundle := s.rs.pc, tick := s.rs.tick,
    mode := s.mode, pa := none, reply := none, gate := none, txn := s.ctx.txn.map (·.num), view := s.ctx.copyView, atp := s.ctx.csr.atp }

/-- A request joins those sent. -/
def State.enqueue (s : State) (kind : ReqKind) (va : Word) (n : Nat) (ord : Order) (scope : Scope) (rcn : BitVec 4) : State :=
  let r := s.rs
  { s.setRs { r with reqs := r.reqs ++ [s.newReq kind va n ord scope rcn] } with seq := s.seq + 1 }

/-- An atomic invalidates the core's own L1 copy of its word as it issues (R120, R135); memory already holds an owned value. -/
def State.atomicIssues (s : State) (kind : ReqKind) (va : Word) (n : Nat) : State :=
  match kind.acc with
  | .atomic | .cas => s.evictL1 (s.physOf va) n
  | _ => s

/-- Send a request: a release flushes the combining buffer, any other the entries of its words (R138). -/
def State.send (s : State) (kind : ReqKind) (va : Word) (n : Nat) (ord : Order) (scope : Scope) (rcn : BitVec 4) : State :=
  let s := s.atomicIssues kind va n
  (if ordReleases ord then s.flushComb else s.flushWord va n).enqueue kind va n ord scope rcn

/-- Enter a result that awaits the request sent last. -/
def State.await (s : State) (lat : Nat) (a : Land) : State :=
  let r := s.rs
  s.setRs { r with flights := r.flights ++ [⟨r.tick + lat, r.tick, s.seq, some (s.seq - 1), a⟩] }


/-- The requests of the running context and of the supervisor. -/
def State.allReqs (s : State) : List Req := if s.live then s.ctx.rs.reqs ++ s.sup.reqs else s.sup.reqs

/-- The requests of one context, running or not, of the supervisor and of the combining buffer. -/
def State.reqsOf (s : State) (id : BitVec 16) : List Req := (match s.findCtx id with | some c => c.rs.reqs | none => []) ++ s.sup.reqs ++ s.comb

/-- Whether a release fence between a request that has not replied and what has the number `n` keeps a write of it back (Table 6.5). -/
def Req.gates (q : Req) (n : Nat) : Bool := q.reply.isNone && q.gate.any fun g => decide (g < n)

/-- Whether an earlier request that is not performed keeps `r` back (Table 6.3). -/
def State.blocks (s : State) (q r : Req) : Bool :=
  q.reply.isNone && (s.overlap q r || q.acquires || ordReleases r.ord || (q.gates r.id && r.kind.writes))

/-- Whether a request is withdrawn, or kept back by an earlier one of its register set that is. -/
def State.waits (s : State) (q : Req) : Bool :=
  q.away || s.allReqs.any fun r => r.away && decide (r.id < q.id) && r.mode == q.mode && s.blocks r q

/-- The requests that the memory system can perform: the running context's and the supervisor's, but for those that a trap has withdrawn and those that
these keep back (R128, R129, R246). -/
def State.liveReqs (s : State) : List Req := s.allReqs.filter fun q => !s.waits q

/-- Change both register sets: request numbers are unique. -/
def State.bothSets (s : State) (f : RegSet → RegSet) : State := { s with ctx := { s.ctx with rs := f s.ctx.rs }, sup := f s.sup }

def State.findReq (s : State) (id : Nat) : Option Req := s.liveReqs.find? (·.id == id)
def State.updReq (s : State) (id : Nat) (f : Req → Req) : State :=
  s.bothSets fun r => { r with reqs := updFirst (·.id == id) f r.reqs }
def State.dropReq (s : State) (id : Nat) : State :=
  s.bothSets fun r => { r with reqs := r.reqs.filter (·.id != id), flights := r.flights.filter fun f => f.req != some id }

/-- A boundary cause of an access: one that S mode issued is a double trap (R248); the context's, found in S mode, waits with its access until the
return. -/
def State.foundFor (s : State) (q : Req) (t : Trap) : State :=
  match q.mode with
  | .u => (if s.mode == .s then s.updReq q.id fun q => { q with away := true } else s).pend t
  | .s => s.inSupervisor t

/-- The data of a request that lands in a register is lost, at a physical address: MCHK at the boundary before the landing tick (R254). -/
def State.loseReq (s : State) (id : Nat) (pa : Word) : State :=
  let s := s.updReq id fun q => { q with lost := some pa, reply := some (q.reply.getD 0) }
  if s.rs.mid then s else s.landDue

/-- Hold the core until the request sent last has been performed or refused (R159, R366). -/
def State.waitPerformed (s : State) : State := s.setRs { s.rs with wait := .performed (s.seq - 1) }

/-- Whether a virtual address stands in a versioned page, as its leaf says now. -/
def State.versionedAt (s : State) (va : Word) : Bool :=
  match s.leafIn s.ctx.csr.atp va.toNat with
  | some l => (s.paOf l (l.addr va.toNat)).v
  | none => false

/-- A write outside a transaction to a versioned page holds the core as a one-line commit (R159). -/
def State.holdIfVersioned (s : State) (joinsTxn : Bool) (va : Word) : State :=
  if s.versionedAt va && !(joinsTxn && s.ctx.txn.isSome) then s.waitPerformed else s

/-! ## Translation (R109) -/

/-- A boundary trap of a request's access. -/
def Req.trap (q : Req) (f : AccFail) : Trap := mkBoundary f.1 0 q.bundle q.tick (f.2.getD q.va)

/-- Which word of a handle image a request moves. -/
def ReqKind.part : ReqKind → Option Nat
  | .loadH i | .storeH i _ => some i
  | _ => none

/-- Whether the context that a core's window shows is a member of the running context's domain at a level (R40, R136): a context of its kernel, in
the cluster, die or package. -/
def State.inDomain (s : State) (level : BitVec 3) (core : Nat) : Bool :=
  let me := s.coreNum.toNat
  let near := if level = 1 then core / 8 == me / 8 else if level = 2 then core / 32 == me / 32 else level == 3
  near && (if core = me then s.windowCtx.any fun c => c.kernel == s.ctx.kernel
    else (s.windowKernel core).any fun k => k.id == s.ctx.kernel)

/-- The destination of an AMOR: 8-byte aligned SPM of a member of the domain (R136). -/
def State.remoteDest (s : State) (atp : Word) (mode : Mode) (dest : Word) (level : BitVec 3) : Except AccFail Pa :=
  match s.translate atp mode .write true dest 8 with
  | .error f => .error f
  | .ok p => match placeOf p.pa.toNat with
    | .window core off => match winPart off with
      | .spm _ => if s.inDomain level core then .ok p else .error (.barrier, some (level.setWidth 64))
      | _ => .error (.barrier, some (level.setWidth 64))
    | _ => .error (.barrier, some (level.setWidth 64))

/-- The checks of a request's addresses: its own, and what its kind asks of it. -/
def State.resolve (s : State) (q : Req) : Except AccFail Pa :=
  let base := q.va - BitVec.ofNat 64 (8 * q.kind.part.getD 0)
  if q.kind.part.isSome && base.toNat % 32 != 0 then .error (.align, some base)
  else match s.translate q.atp q.mode q.kind.acc true q.va q.bytes with
  | .error f => .error f
  | .ok p =>
    let own := match placeOf p.pa.toNat with
      | .window core off => (match winPart off with | .spm _ => core == s.coreNum.toNat | _ => false)
      | _ => false
    match q.kind with
    | .loadFe _ | .storeFe _ | .vpub _ => if own then .ok p else .error (.prot, none)
    | .atomicRemote _ _ dest level => (s.remoteDest q.atp q.mode dest level).map fun _ => p
    | _ => .ok p

/-- Whether a request's fault is pending already. -/
def State.faulted (s : State) (q : Req) : Bool := s.pending.any (·.ofReq q)

/-- The value an operation gives two operands of `n` bytes (Table 6.6). -/
def combineOp (op : AtomOp) (x y : Word) (n : Nat) : Word :=
  let w := 8 * n
  let xi := toInt true w x.toNat
  let yi := toInt true w y.toNat
  let xu := x.toNat % 2 ^ w
  let yu := y.toNat % 2 ^ w
  match op with
  | .swap => BitVec.ofNat 64 yu
  | .add => BitVec.ofNat 64 ((xu + yu) % 2 ^ w)
  | .and => BitVec.ofNat 64 (xu &&& yu)
  | .or => BitVec.ofNat 64 (xu ||| yu)
  | .xor => BitVec.ofNat 64 (xu ^^^ yu)
  | .min => BitVec.ofNat 64 (ofIntW w (min xi yi))
  | .minu => BitVec.ofNat 64 (min xu yu)
  | .max => BitVec.ofNat 64 (ofIntW w (max xi yi))
  | .maxu => BitVec.ofNat 64 (max xu yu)
  | .fadd => BitVec.ofNat 64 (fpAdd fmtF32 false .rne xu yu).1

def Req.merges (q r : Req) : Bool :=
  match q.kind, r.kind with
  | .red o _, .red p _ => o == p && o != .fadd && q.pa.map (·.pa) == r.pa.map (·.pa) && q.bytes == r.bytes && q.scope == r.scope
  | _, _ => false

/-- An entry takes a newer RED in; what keeps the newer one back keeps the entry back too. -/
def Req.merge (q r : Req) : Req :=
  match q.kind, r.kind with
  | .red o x, .red _ y => { q with kind := .red o (combineOp o x y q.bytes), last := r.id }
  | _, _ => q

/-- A translated relaxed RED enters the combining buffer: merged with an entry of the same word, operation, size and scope, FADD never; a full
buffer sends its oldest (R138). -/
def State.enterComb (s : State) (q : Req) : State :=
  if s.comb.any (·.merges q) then { s with comb := updFirst (·.merges q) (·.merge q) s.comb }
  else match s.comb with
    | old :: rest =>
      if 16 ≤ s.comb.length then { s with comb := rest ++ [q] }.setRs { s.rs with reqs := s.rs.reqs ++ [old] }
      else { s with comb := s.comb ++ [q] }
    | [] => { s with comb := [q] }

/-- What an access's translation leaves in the caches of translations. -/
def State.tlbFor (s : State) (atp va : Word) : State :=
  match s.leafIn atp va.toNat with
  | some l => s.tlbFill atp va.toNat l
  | none => s

/-- A relaxed RED is translated at issue: one that faults, or whose page is versioned, is sent by itself, any other enters the buffer (R138). -/
def State.sendRed (s : State) (op : AtomOp) (v : Word) (va : Word) (n : Nat) (scope : Scope) : State :=
  let s := s.atomicIssues (.red op v) va n
  let q := s.newReq (.red op v) va n .rlx scope 0
  match s.resolve q with
  | .error _ => s.enqueue (.red op v) va n .rlx scope 0
  | .ok p => if p.v then s.enqueue (.red op v) va n .rlx scope 0
    else { (s.tlbFor q.atp va).enterComb { q with pa := some p } with seq := s.seq + 1 }

/-- A failed translation or check: a touch is dropped; data that an uncorrectable error has hit is lost, its error logged and a failed expansion
counted (R254, R260), and where no register awaits it MCHK is asynchronous (Table 12.1); any other cause waits for the boundary (R109). -/
def State.accessFailed (s : State) (q : Req) (f : AccFail) : State :=
  let pa := f.2.getD 0
  let bad := fun (s : State) => if f.1 = .mchk then (s.kvError pa.toNat).logError 0x20 pa else s
  if q.kind == .touch then ((bad s).dropReq q.id).post 0x0001 0 0 q.bundle
  else if f.1 = .mchk then (if q.kind.lands then (bad s).loseReq q.id pa else ((bad s).dropReq q.id).foundFor q (mkAsync pa))
  else s.foundFor q (q.trap f)

/-- TRANSLATION_COMPLETE: the request has its physical address, or it fails. -/
def State.translated (s : State) (id : Nat) : State :=
  match s.findReq id with
  | none => s
  | some q =>
    if q.pa.isSome || q.kind == .grab || q.lost.isSome || s.faulted q then s
    else match s.resolve q with
      | .error f => s.accessFailed q f
      | .ok p => (s.tlbFor q.atp q.va).updReq id fun q => { q with pa := some p }

/-! ## Order within the core (Table 6.3) -/

/-- Whether everything that must come before a request has been performed: earlier requests, acquires that came before the last RED merged into
it, and entries of the combining buffer that its release or its words flush. -/
def State.ordered (s : State) (q : Req) : Bool :=
  !(s.liveReqs.any fun r => (decide (r.id < q.id) && s.blocks r q) || (decide (r.id < q.last) && r.reply.isNone && r.acquires))
    && !(s.comb.any fun c => decide (c.id < q.id) && (ordReleases q.ord || s.overlap c q))

/-! ## Domains (R41 to R45) -/

/-- The level that DMR addresses has a live domain (R44): levels 4, 6 and 7 have none, and an ID of 0 is none. -/
def Ctx.levelOk (c : Ctx) (level : BitVec 3) : Bool :=
  let d := c.csr.dmr
  let id := if level = 0 then true else if level = 1 then d.extractLsb' 16 8 != (0 : BitVec 8)
    else if level = 2 then d.extractLsb' 24 8 != (0 : BitVec 8) else if level = 3 then d.extractLsb' 32 8 != (0 : BitVec 8)
    else level == 5 && d.extractLsb' 48 16 != (0 : BitVec 16)
  id && !(c.doms.toList.getD level.toNat Dom.reset).broken

def Ctx.dom (c : Ctx) (level : BitVec 3) : Dom := c.doms.toList.getD level.toNat Dom.reset
def Ctx.updDom (c : Ctx) (level : BitVec 3) (f : Dom → Dom) : Ctx :=
  { c with doms := c.doms.setIfInBounds level.toNat (f (c.dom level)) }

/-- The phase completes when its arrivals equal the expected count (R41): the next phase starts with the arrivals made ahead. -/
def Dom.settleOnce (d : Dom) : Dom :=
  if d.exp.toNat ≤ d.arrived ∧ d.exp ≠ 0 then
    { d with phc := d.phc + 1, arrived := d.ahead, ahead := 0, near := d.nearAhead, nearAhead := 0, own := d.own - 1,
             exp := d.exp - BitVec.ofNat 32 d.pendingLeave, pendingLeave := 0 }
  else d

/-- Every phase that has its arrivals completes: the running one, and the next where as many members as are left have arrived ahead. -/
def Dom.settle (d : Dom) : Dom := d.settleOnce.settleOnce

/-- One counted arrival: for the running phase, or for the next where the member has arrived already. -/
def Dom.count (ahead : Bool) (d : Dom) : Dom := (if ahead then { d with ahead := d.ahead + 1 } else { d with arrived := d.arrived + 1 }).settle

/-- The core's own arrivals that have been counted. -/
def Dom.ownCounted (d : Dom) : Nat := d.own - d.held.length

/-- The group agrees on a ceiling: a core above it is lowered, one that an earlier agreement lowered returns to its last granted request within the
limits (R265, R278). -/
def State.agreed (s : State) : State :=
  let p := s.power
  if s.limit < p.reach then { s with power := { p with lowered := true } }.pwcPoint s.limit
  else if p.lowered then { s with power := { p with lowered := decide (s.limit < p.granted) } }.pwcPoint (s.within p.granted)
  else s

/-- A level-5 phase has completed: the member takes the least point carried to it (R278). -/
def Ctx.takeGroup (c : Ctx) : Ctx := { c with gopp := c.carried, carried := c.carriedNext, carriedNext := 7 }

/-- The member takes the point of each level-5 phase that has completed. -/
def Ctx.agree (c : Ctx) (before : BitVec 32) : Ctx :=
  let n := ((c.dom 5).phc - before).toNat
  if n = 0 then c else if n = 1 then c.takeGroup else c.takeGroup.takeGroup

/-- At level 5 an arrival carries its package's token point (R278). -/
def Ctx.carry (c : Ctx) (level : BitVec 3) (point : BitVec 3) (ahead : Bool) : Ctx :=
  if level ≠ 5 then c
  else if ahead then { c with carriedNext := min3 c.carriedNext point } else { c with carried := min3 c.carried point }

/-- An arrival is counted at a level of the context: `d` is the domain as the arriving member leaves it before the count. -/
def Ctx.counted (c : Ctx) (level : BitVec 3) (d : Dom) (point : BitVec 3) (ahead : Bool) : Ctx :=
  ((c.updDom level fun _ => d.count ahead).carry level point ahead).agree (c.dom 5).phc

/-- Where a level-5 phase of the running context has completed, its core follows the point agreed. -/
def State.followGroup (s t : State) : State :=
  if s.live && t.live && s.ctx.id == t.ctx.id && (s.ctx.dom 5).phc != (t.ctx.dom 5).phc then t.agreed else t

/-- An arrival of the core itself is counted (R42). -/
def State.ownArrive (s : State) (level : BitVec 3) : State :=
  let d := s.ctx.dom level
  { s with ctx := s.ctx.counted level { d with held := d.held.tail } s.tokenPoint (decide (1 ≤ d.ownCounted)) }

/-- Make the core's arrival: kept back until the requests issued so far have been performed (R42). -/
def State.arrive (s : State) (level : BitVec 3) : State :=
  { s with ctx := s.ctx.updDom level fun d => { d with own := d.own + 1, held := d.held ++ [s.seq] } }

/-- Whether the release of the oldest arrival kept back has been performed; in S mode the context's own requests, withdrawn, are not. -/
def State.arrivalReady (s : State) (level : BitVec 3) : Bool :=
  match (s.ctx.dom level).held with
  | [] => false
  | n :: _ => !((s.ctx.rs.reqs ++ s.sup.reqs).any fun q => q.reply.isNone && decide (q.id < n)) && !(s.comb.any fun q => decide (q.id < n))

/-- Arrivals of other members counted for the running phase, and for the next. -/
def Dom.others (d : Dom) : Nat × Nat := (d.arrived - (if 1 ≤ d.ownCounted then 1 else 0), d.ahead - (if 2 ≤ d.ownCounted then 1 else 0))

/-- Whether one more arrival of the members counted is possible, and for which phase: each is at most one phase ahead (R43). `now` and `next` of them have
arrived for the two phases, of `m` and `m'`. -/
def phaseRoom (now next m m' : Nat) : Option Bool := if now < m then some false else if next < m' then some true else none

/-- Whether one more arrival of another member is possible: of a member that leaves only the running phase still expects one (R45). `near` is none where
every member is of this package, else how many other members here are live: they are told apart from those of the other packages of a group. -/
def Dom.otherRoom (d : Dom) (near : Option Nat) (elsewhere : Bool) : Option Bool :=
  let (a, b) := d.others
  let m := d.exp.toNat - 1
  let m' := d.exp.toNat - d.pendingLeave - 1
  match near, elsewhere with
  | none, false => phaseRoom a b m m'
  | none, true => none
  | some n, false => phaseRoom d.near d.nearAhead n n
  | some n, true => phaseRoom (a - d.near) (b - d.nearAhead) (m - n) (m' - n)

/-- The other members of this package at a level, where members of other packages share it: level 5 of a group (R278). -/
def State.nearMembers (s : State) (level : BitVec 3) : Option Nat :=
  (s.kernelOf s.ctx).bind fun k => if level = 5 ∧ 1 < k.gcnt then some (k.live.length - 1) else none

/-- Another member's arrival: one of this package carries its token point, one of another package its own (R278). -/
def State.otherArrive (s : State) (level : BitVec 3) (elsewhere : Bool) (point : BitVec 3) : State :=
  let d := s.ctx.dom level
  match d.otherRoom (s.nearMembers level) elsewhere with
  | none => s
  | some ahead =>
    let d := if elsewhere then d else if ahead then { d with nearAhead := d.nearAhead + 1 } else { d with near := d.near + 1 }
    { s with ctx := s.ctx.counted level d point ahead }

/-- DOMAIN_ARRIVAL: the core's own arrival once its release is performed, or another member's (R42, R43). -/
def State.domainArrival (s : State) (level : BitVec 3) (who : Arriver) : State :=
  if !s.live || (s.ctx.dom level).broken || level.toNat > 5 then s
  else match who with
    | .own => if s.arrivalReady level then s.ownArrive level else s
    | .package => s.otherArrive level false s.tokenPoint
    | .elsewhere p => s.otherArrive level true p

/-! ## Acceptance at the serialisation point -/

/-- Install a line's words in the L1, keeping the words it has. -/
def State.l1Fill (s : State) (pa : Nat) : State :=
  let line := lineOf pa
  let s := s.l1Room pa
  let new := (List.range 16).filterMap fun i =>
    let a := line + 8 * i
    if s.l1.any (·.addr.toNat == a) then none
    else some (⟨BitVec.ofNat 40 a, BitVec.ofNat 64 (s.numPa a 8), false, 0⟩ : L1Word)
  { s with l1 := s.l1 ++ new }

def l1Cached (p : Pa) : Bool := !p.v && !p.rca && placeOf p.pa.toNat == .hbm

/-- A scalar read at acceptance (R120, R124, R153): the number read and what it leaves. What the L1 holds is read there; a line that is fetched from its home
counts as one read of it. -/
def State.scalarRead (s : State) (q : Req) (p : Pa) (n : Nat) : Nat × State :=
  let a := p.pa.toNat
  if p.v && placeOf a == .hbm then (natOf (lineBytes (s.scalarLine s.ctx q.txn q.view (lineOf a)) (a - lineOf a) n), s)
  else if l1Cached p then
    match s.l1.find? (·.addr.toNat == a / 8 * 8) with
    | some w => (w.value.toNat / 256 ^ (a % 8) % 256 ^ n, s)
    | none => (s.numPa a n, (s.l1Fill a).countRead a)
  else (s.numPa a n, s.countRead a)

/-- A donation ends when the owner writes the word (R54). -/
def Ctx.endBoost (a n : Nat) (c : Ctx) : Ctx := { c with boost := c.boost.filter fun b => !sameWords b.2.toNat 1 a n }

def State.endBoost (s : State) (a n : Nat) : State := { s.unregister a n with ctx := s.ctx.endBoost a n }

/-- A plain scalar store at acceptance: memory, and ownership of the word in the L1 (R120, R123). -/
def State.scalarStore (s : State) (p : Pa) (rcn : Nat) (bs : List Byte) : State :=
  let a := p.pa.toNat
  let s := if placeOf a = .hbm then (if p.rca ∧ 1 ≤ rcn then s.countWrite a rcn else s.uncount a) else s
  let s := ((s.retag p).writePa a bs).endBoost a bs.length
  if l1Cached p then
    let word := a / 8 * 8
    let s := s.l1Room a
    { s with l1 := ⟨BitVec.ofNat 40 word, BitVec.ofNat 64 (s.numPa word 8), true, s.ctx.id⟩
        :: s.l1.filter (·.addr.toNat != word) }
  else s.evictL1 a bs.length      -- the word bypasses the L1: no copy of it that another mapping left stays

/-- The new value an atomic leaves (Table 6.6). -/
def atomNew (op : AtomOp) (old operand : Nat) (n : Nat) : Nat := (combineOp op (BitVec.ofNat 64 old) (BitVec.ofNat 64 operand) n).toNat % 256 ^ n

/-- What a home slice, an SPM or a versioned line answers to a read-modify-write: wait, refuse, or the old value, whether it wrote, and the state. -/
inductive Rmw | wait | refused | done (old : Nat) (wrote : Bool) (s : State)

/-- A read-modify-write of `n` bytes: `f` gives the new value, none for no write (R133, R137, R139). On a versioned line the newest version decides; one that
does not write is a read, which takes the view's value. -/
def State.rmw (s : State) (q : Req) (p : Pa) (n : Nat) (f : Nat → Option Nat) : Rmw :=
  let a := p.pa.toNat
  let s := s.evictL1 a n
  if p.v && placeOf a == .hbm then
    let old := natOf (lineBytes (s.viewLine none (lineOf a)) (a - lineOf a) n)
    match f old with
    | none => .done (natOf (lineBytes (s.scalarLine s.ctx q.txn q.view (lineOf a)) (a - lineOf a) n)) false s
    | some v =>
      if s.lineLocked (lineOf a) then .wait
      else match s.oneLineCommit a (bytesOf n v) with
        | none => .refused
        | some t => .done old true ((t.retag p).endBoost a n)
  else
    let old := s.numPa a n
    match f old with
    | none => .done old false (s.countRead a)
    | some v => .done old true ((((s.uncount a).retag p).writePa a (bytesOf n v)).endBoost a n)

/-- A GRAB at the RGU (R51): the chunk, or none for a range that is not the caller's. -/
def State.grabRange (s : State) (sa : Word) : Option (Word × State) :=
  if h : sa.toNat < 64 then
    let r := s.ranges[sa.toNat]
    if r.owner ≠ s.ctx.csr.dmr.extractLsb' 32 8 then none
    else
      let kp := max 1 (r.k.toNat * r.p.toNat)
      let len := min r.rem.toNat (max r.chunk.toNat ((r.rem.toNat + kp - 1) / kp))
      let l : BitVec 32 := BitVec.ofNat 32 len
      some (l ++ r.next, { s with ranges := s.ranges.set sa.toNat { r with next := r.next + l, rem := r.rem - l } })
  else none

/-- A reply is recorded; its data arrives later (R64). -/
def State.replied (s : State) (id : Nat) (v : Word) : State := s.updReq id fun q => { q with reply := some v }

/-- A refused one-line commit (R159): VSTATE at the boundary, the write not sent again. -/
def State.refuse (s : State) (q : Req) : State :=
  (s.dropReq q.id).foundFor q (mkBoundary .vstate 0 q.bundle q.tick q.va)

def loadValue (sx : Bool) (n v : Nat) : Word := if sx then sext (8 * n) v else BitVec.ofNat 64 v

/-- The scalar CSR image a remote read returns: what the issuer's mode may not read locally reads as 0, for either mode a CSR from 0xF00 on (R344). -/
def State.remoteCsr (s : State) (mode : Mode) (csr : BitVec 12) (pa : Nat) : Word :=
  if 0xF00 ≤ csr.toNat ∨ (mode = .u ∧ !csrUReads csr.toNat) then 0 else BitVec.ofNat 64 (s.numPa pa 8)

/-- The header step of VPUB (R163), once the beats pushed to the slot are written; the reply holds BUFVER and READERS. -/
def State.publish (s : State) (q : Req) (h : HReg) (p : Pa) : State :=
  -- ports are bound to the context's handles alone: the supervisor's VPUB finds none
  let mine := fun (x : Port) => q.mode == .u && x.bound && x.wr && x.h == h
  if s.ctx.ports.toList.any fun x => mine x && !x.beats.isEmpty then s
  else
    let w := BitVec.ofNat 64 (s.numPa p.pa.toNat 8)
    let n := (vhBufver w + vhPub w) % 256
    let slot := (vhWslot w + 1) % vhNslot w
    let w' := setBits (setBits (setBits (setBits (vhKeep w) 32 8 n) 48 2 (vhWslot w)) 50 2 slot) 52 1 1
    let s := (s.retag p).writePa p.pa.toNat (bytesOf 8 w'.toNat)
    { s with ctx := { s.ctx with ports := s.ctx.ports.map fun x => if mine x then { x with taken := 0 } else x } }.replied q.id
      (BitVec.ofNat 64 (n + 256 * vhRead w slot))

/-- Perform a request whose turn has come. -/
def State.perform (s : State) (q : Req) (p : Pa) : State :=
  let a := p.pa.toNat
  let acq := fun (s : State) => if ordAcquires q.ord then s.acquireL1 else s
  match q.kind with
  | .touch => (((acq s).scalarRead q p q.bytes).2).dropReq q.id
  | .load sx =>
    let (v, t) := (acq s).scalarRead q p q.bytes
    t.replied q.id (loadValue sx q.bytes v)
  | .loadH _ =>
    let (v, t) := (acq s).scalarRead q p q.bytes
    t.replied q.id (BitVec.ofNat 64 v)
  | .vpub h => s.publish q h p
  | .csrRemote csr => s.replied q.id (s.remoteCsr q.mode csr a)
  | .loadFe peek =>
    if s.granulesFull a q.bytes then
      let v := s.numPa a q.bytes
      let t := acq s
      (if peek then t else t.clearGranules a q.bytes).replied q.id (BitVec.ofNat 64 v)
    else s
  | .storeFe v =>
    if s.granulesFull a q.bytes then s
    else ((s.engineWrite a (bytesOf q.bytes v.toNat)).endBoost a q.bytes).dropReq q.id
  | .store v | .storeH _ v =>
    if p.v && placeOf a == .hbm then
      if q.txn.isSome then
        -- a store of a transaction that has ended meanwhile is discarded with it
        (if q.txn == s.ctx.txn.map (·.num) then (s.retag p).storeTxn s.ctx.id a (bytesOf q.bytes v.toNat) else s).dropReq q.id
      else if s.lineLocked (lineOf a) then s
      else match s.oneLineCommit a (bytesOf q.bytes v.toNat) with
        | none => s.refuse q
        | some t => (((t.retag p).evictL1 a q.bytes).endBoost a q.bytes).dropReq q.id
    else (s.scalarStore p q.rcn.toNat (bytesOf q.bytes v.toNat)).dropReq q.id
  | .atomic op v =>
    match s.rmw q p q.bytes (fun old => some (atomNew op old v.toNat q.bytes)) with
    | .wait => s
    | .refused => s.refuse q
    | .done old _ t => (acq t).replied q.id (BitVec.ofNat 64 old)
  | .cas e v fa =>
    let w := match s.leafIn q.atp q.va.toNat with | some l => l.flags.getLsbD 3 | none => false
    -- a CAS that would write needs W; one that fails is a read (R107, R137)
    let denied := s.foundFor q (q.trap (.prot, none))
    match s.rmw q p q.bytes (fun old => if old == e.toNat % 256 ^ q.bytes then some (v.toNat % 256 ^ q.bytes) else none) with
    | .wait => if w then s else denied
    | .refused => if w then s.refuse q else denied
    | .done old wrote t =>
      if !wrote then (if fa then t.acquireL1 else t).replied q.id (BitVec.ofNat 64 old)
      else if w then (acq t).replied q.id (BitVec.ofNat 64 old)
      else denied
  | .red op v =>
    match s.rmw q p q.bytes (fun old => some (atomNew op old v.toNat q.bytes)) with
    | .wait => s
    | .refused => s.refuse q
    | .done _ _ t => t.dropReq q.id
  | .atomicRemote op v dest level =>
    match s.remoteDest q.atp q.mode dest level with
    | .error f => s.foundFor q (q.trap f)
    | .ok d =>
      match s.rmw q p q.bytes (fun old => some (atomNew op old v.toNat q.bytes)) with
      | .wait => s
      | .refused => s.refuse q
      | .done old _ t =>
        ((t.engineWrite d.pa.toNat (bytesOf 8 old)).endBoost d.pa.toNat 8).dropReq q.id
  | .grab =>
    match s.grabRange q.va with
    | none => s.foundFor q (q.trap (.prot, some q.va))
    | some (v, t) => (acq t).replied q.id v

/-- REQUEST_ACCEPTED: a translated request that nothing keeps back is performed; at a hold the oldest entry of the combining buffer
is sent. -/
def State.accepted (s : State) (id : Nat) : State :=
  match s.findReq id with
  | some q =>
    if q.reply.isSome || s.faulted q || !s.ordered q then s
    else match q.kind, q.pa with
      | .grab, _ => s.perform q ⟨0, false, false, 0⟩
      | _, some p => s.perform q p
      | _, none => s
  | none => match s.comb with
    | c :: rest => if c.id = id then { s with comb := rest }.setRs { s.rs with reqs := c :: s.rs.reqs } else s
    | [] => s

/-- DATA_ARRIVAL: a reply's data fills its result; data the core is held for lands at once (R64, R65). -/
def State.arrived (s : State) (id : Nat) : State :=
  match s.findReq id with
  | some q => match q.reply with
    | some v =>
      if q.lost.isSome then s
      else
        let s := s.bothSets (·.deliver id v)
        if s.rs.mid then s else s.landDue
    | none => s
  | none => s

end Sys2Proof.Machine
end

