-- ==== Sys2Proof/Machine/ScalarMem.lean ====
section
/-! DEFINITION. The scalar memory instructions: LD, ST, LDFE, STFE, AMO, AMOR, CAS, RED, FENCE, GRAB, remote CSRR, HLD and HST (R132 to R138,
R321 to R323, R333, R344, R356, R358, R362 to R366). -/

namespace Sys2Proof.Machine

/-- A slot's bits, right-aligned, for TVAL (Table 12.1). -/
def slotBits (i : Instr) : Word :=
  match encode i with
  | some (.header w) => w.setWidth 64
  | some (.s w) => w.setWidth 64
  | some (.v _ w) => w.setWidth 64
  | some (.m w) => w.setWidth 64
  | some (.c _ w) => w.setWidth 64
  | some (.x w) => w.setWidth 64
  | none => 0

/-- The ILLOP of an instruction whose registers or state exclude it (R72). -/
def illopOf (slot : BitVec 3) (i : Instr) : Trap := mkTrap .illop slot (slotBits i)

/-- base + sext(disp16). -/
def effAddr (base : Word) (disp : BitVec 16) : Word := base + disp.signExtend 64

/-- The reader count a store carries (R123). -/
def State.storeCount (s : State) : BitVec 4 := s.ctx.csr.rcnt

def sizeMask (n : Nat) (v : Word) : Word := BitVec.ofNat 64 (v.toNat % 256 ^ n)

/-! ### Handles that instructions may not rewrite (R79, R168) -/

def State.portBound (s : State) (h : HReg) : Bool := s.mode == .u && s.ctx.ports.toList.any fun p => p.bound && p.h == h
def State.namedByCopy (s : State) (h : HReg) : Bool :=
  s.jobs.any fun j => j.ctx == s.ctx.id && j.sup == (s.mode == .s) && !j.orphan && j.named.contains h
def CallEntry.named : CallEntry → List HReg
  | .call _ _ _ _ _ _ _ named _ _ _ _ => named
  | .mask .. => []
/-- Entries queued or running, the running one first. -/
def Ctx.allCalls (c : Ctx) : List CallEntry := (match c.running with | some r => [r.entry] | none => []) ++ c.calls
def State.namedByCall (s : State) (h : HReg) : Bool := s.mode == .u && s.ctx.allCalls.any fun e => (CallEntry.named e).contains h
def handleTrap (slot : BitVec 3) (h : HReg) : Trap := mkTrap .handle slot (h.setWidth 64)
/-- The HANDLE trap of HLD, HSET and VBIND on a register in use. -/
def State.handleInUse (s : State) (h : HReg) : Option Trap :=
  if s.portBound h || s.namedByCopy h || s.namedByCall h then some (handleTrap 0 h) else none

/-! ### Meanings -/

def meaningLd (d base : SReg) (disp : BitVec 16) (size : Size) (sx : Bool) (ord : Order) (scope : Scope) (lat : Lat) : Slot :=
  Slot.scalar [base] [d] noTrap noHold fun vs s =>
    let a := effAddr (arg vs 0) disp
    if d = 0 then s.send .touch a (sizeBytes size) ord scope 0
    else (s.send (.load sx) a (sizeBytes size) ord scope 0).await (latTicks lat) (.sreg d 0)

def meaningSt (data base : SReg) (disp : BitVec 16) (size : Size) (ord : Order) (scope : Scope) : Slot :=
  Slot.scalar [base, data] [] noTrap noHold fun vs s =>
    let a := effAddr (arg vs 0) disp
    (s.send (.store (sizeMask (sizeBytes size) (arg vs 1))) a (sizeBytes size) ord scope s.storeCount).holdIfVersioned true a

def meaningLdfe (d base : SReg) (disp : BitVec 16) (size : Size) (peek : Bool) (ord : Order) (scope : Scope) (lat : Lat) : Slot :=
  Slot.scalar [base] [d] noTrap noHold fun vs s =>
    (s.send (.loadFe peek) (effAddr (arg vs 0) disp) (sizeBytes size) ord scope 0).await (latTicks lat) (.sreg d 0)

def meaningStfe (data base : SReg) (disp : BitVec 16) (size : Size) (ord : Order) (scope : Scope) : Slot :=
  Slot.scalar [base, data] [] noTrap noHold fun vs s =>
    (s.send (.storeFe (sizeMask (sizeBytes size) (arg vs 1))) (effAddr (arg vs 0) disp) (sizeBytes size) ord scope 0).waitPerformed

def meaningAmo (d a b : SReg) (op : AtomOp) (size : Size) (ord : Order) (scope : Scope) (lat : Lat) : Slot :=
  Slot.scalar [a, b] [d] noTrap noHold fun vs s =>
    ((s.send (.atomic op (sizeMask (sizeBytes size) (arg vs 1))) (arg vs 0) (sizeBytes size) ord scope 0).holdIfVersioned false
      (arg vs 0)).await (latTicks lat) (.sreg d 0)

def meaningCas (d a b c : SReg) (failAcq : Bool) (size : Size) (ord : Order) (scope : Scope) (lat : Lat) : Slot :=
  Slot.scalar [a, b, c] [d] noTrap noHold fun vs s =>
    ((s.send (.cas (sizeMask (sizeBytes size) (arg vs 1)) (sizeMask (sizeBytes size) (arg vs 2)) failAcq) (arg vs 0) (sizeBytes size)
      ord scope 0).holdIfVersioned false (arg vs 0)).await (latTicks lat) (.sreg d 0)

/-- A relaxed RED enters the buffer, where an entry of its word may take it in (R138). -/
def meaningRed (a b : SReg) (op : AtomOp) (size : Size) (ord : Order) (scope : Scope) : Slot :=
  Slot.scalar [a, b] [] noTrap noHold fun vs s =>
    let n := sizeBytes size
    let v := sizeMask n (arg vs 1)
    (if ord = .rlx then s.sendRed op v (arg vs 0) n scope else s.send (.red op v) (arg vs 0) n ord scope 0).holdIfVersioned false (arg vs 0)

/-- BARRIER names the level; TEPC is the bundle after (Table 12.1). -/
def barrierTrap (s : State) (level : BitVec 3) : Trap :=
  { mkTrap .barrier 0 (level.setWidth 64) with tepc := some (s.rs.pc + 32) }

/-- Levels 1 to 3 alone (R136). -/
def amorLevelOk (level : BitVec 3) : Bool := level == 1 || level == 2 || level == 3

/-- AMOR: sent with its arrival, or kept for the end of the phase-ahead hold (R136, R323). -/
def meaningAmor (d a b : SReg) (op : AtomOp) (size : Size) (level : BitVec 3) : Slot :=
  Slot.scalar [a, b, d] []
    (fun _ s => if amorLevelOk level && s.ctx.levelOk level then none else some (barrierTrap s level)) noHold fun vs s =>
    let n := sizeBytes size
    let k := ReqKind.atomicRemote op (sizeMask n (arg vs 1)) (arg vs 2) level
    if 2 ≤ (s.ctx.dom level).own then s.setRs { s.rs with wait := .amorAhead (s.newReq k (arg vs 0) n .rel level 0) }
    else ((s.send k (arg vs 0) n .rel level 0).holdIfVersioned false (arg vs 0)).arrive level

/-- What FENCE awaits: earlier loads have their data, earlier writes are accepted (Table 6.5), those of both register sets: a handler's accesses
follow the context's, and the context's the handler's. -/
def fenceHold (sc : Bool) (ord : Order) (s : State) : Bool :=
  let acq := sc || ordAcquires ord
  let rel := sc || ordReleases ord
  (acq && s.liveReqs.any fun q => q.reply.isNone && q.kind.reads)
    || (rel && (!s.comb.isEmpty || s.liveReqs.any fun q => q.reply.isNone && q.kind.writes))

/-- A release fence numbered `n` comes behind the requests of a register set; a withdrawn one is sent again behind it. -/
def RegSet.fence (n : Nat) (r : RegSet) : RegSet :=
  { r with reqs := r.reqs.map fun q => if q.away then q else { q with gate := some (q.gate.getD n) } }

def meaningFence (sc : Bool) (ord : Order) : Slot where
  trap _ := none
  empty _ := 0
  hold := fenceHold sc ord
  act s :=
    let s := s.flushComb
    let s := if sc || ordAcquires ord then s.acquireL1 else s
    if sc || ordReleases ord then { s.bothSets (RegSet.fence s.seq) with seq := s.seq + 1 } else s

/-- GRAB (R51, R358). -/
def meaningGrab (d base : SReg) (ord : Order) (scope : Scope) (lat : Lat) : Slot :=
  Slot.scalar [base] [d] noTrap noHold fun vs s =>
    (s.enqueue .grab (arg vs 0) 8 ord scope 0).await (latTicks lat) (.sreg d 0)

/-- Remote CSRR: a relaxed load in the CSR image of a core window (R344). -/
def meaningCsrrRemote (d a : SReg) (csr : BitVec 12) (lat : Lat) : Slot :=
  Slot.scalar [a] [d]
    (fun vs _ => if (arg vs 0).toNat % 2 ^ 23 ≠ 0 then some (mkTrap .align 0 (arg vs 0)) else none) noHold fun vs s =>
    (s.send (.csrRemote csr) (arg vs 0 + 0x488000 + BitVec.ofNat 64 (8 * csr.toNat)) 8 .rlx 0 0).await (latTicks lat) (.sreg d 0)

/-- The four words of a handle image. -/
def handleWord (h : Handle) (i : Nat) : Word := h.extractLsb' (64 * i) 64
def wordField (i : Nat) : HField := if i = 0 then .word0 else if i = 1 then .word1 else if i = 2 then .word2 else .word3

/-- HLD: four loads, due at t + 1 (R362). -/
def meaningHld (h : HReg) (base : SReg) (disp : BitVec 16) (ord : Order) (scope : Scope) : Slot :=
  Slot.scalar [base] [] (fun _ s => s.handleInUse h) noHold fun vs s =>
    [0, 1, 2, 3].foldl (fun s i =>
      (s.send (.loadH i) (effAddr (arg vs 0) disp + BitVec.ofNat 64 (8 * i)) 8 ord scope 0).await 1 (.hfield h (wordField i) 0)) s

/-- HST: four stores of the image as it stands at issue (R362). Outside a transaction each to a versioned page is a one-line commit, and the core holds until
all four have been performed or refused (R159). -/
def meaningHst (h : HReg) (base : SReg) (disp : BitVec 16) (ord : Order) (scope : Scope) : Slot :=
  Slot.scalar [base] [] noTrap noHold fun vs s =>
    let img := s.hreg h
    let a := effAddr (arg vs 0) disp
    let t := [0, 1, 2, 3].foldl (fun s i =>
      s.send (.storeH i (handleWord img i)) (a + BitVec.ofNat 64 (8 * i)) 8 ord scope s.storeCount) s
    if t.versionedAt a && t.ctx.txn.isNone then t.setRs { t.rs with wait := .requests ((List.range 4).map (s.seq + ·)) } else t

/-! ### WAITM (R394) -/

def waitmReq (s : State) (a : Word) (n : Nat) (scope : Scope) : Req := s.newReq (.load false) a n .acq scope 0

/-- Where the word stands, or why the wait cannot read it. -/
def State.waitmPlace (s : State) (a : Word) (n : Nat) : Except AccFail Pa := s.translate s.ctx.csr.atp s.mode .read true a n

/-- Whether the condition holds on the word at its serialisation point. -/
def waitmTrue (cc : Cond) (n v w : Nat) : Bool := if n = 4 then intCond cc (BitVec.ofNat 32 v) (BitVec.ofNat 32 w) else intCond cc (BitVec.ofNat 64 v) (BitVec.ofNat 64 w)

/-- Whether WAITM holds: an earlier access that orders it is not performed, or the condition fails. -/
def State.waitmHolds (s : State) (a comparand : Word) (n : Nat) (scope : Scope) (cc : Cond) : Bool :=
  let q := waitmReq s a n scope
  s.liveReqs.any (s.blocks · q) || s.comb.any (s.overlap · q) ||
    match s.waitmPlace a n with
    | .error _ => false
    | .ok p => !waitmTrue cc n (s.numPa p.pa.toNat n) comparand.toNat

def meaningWaitm (data base : SReg) (disp : BitVec 16) (size : Size) (scope : Scope) (cc : Cond) : Slot :=
  let n := sizeBytes size
  Slot.scalar [base, data] []
    (fun vs s =>
      let a := effAddr (arg vs 0) disp
      match s.waitmPlace a n with
      | .error f => some (mkBoundary f.1 0 s.rs.pc s.rs.tick (f.2.getD a))
      | .ok _ => none)
    (fun vs s => s.waitmHolds (effAddr (arg vs 0) disp) (arg vs 1) n scope cc)
    fun _ s => s.acquireL1

/-! ### One definition per instruction -/

def execLd (g : Guard) (d base : SReg) (disp : BitVec 16) (size : Size) (sx : Bool) (ord : Order) (scope : Scope) (lat : Lat) (s : State) : Host.Outcome State Fault Refusal :=
  runSlot g (meaningLd d base disp size sx ord scope lat) s
def execSt (g : Guard) (data base : SReg) (disp : BitVec 16) (size : Size) (ord : Order) (scope : Scope) (s : State) : Host.Outcome State Fault Refusal :=
  runSlot g (meaningSt data base disp size ord scope) s
def execLdfe (g : Guard) (d base : SReg) (disp : BitVec 16) (size : Size) (peek : Bool) (ord : Order) (scope : Scope) (lat : Lat) (s : State) : Host.Outcome State Fault Refusal :=
  runSlot g (meaningLdfe d base disp size peek ord scope lat) s
def execStfe (g : Guard) (data base : SReg) (disp : BitVec 16) (size : Size) (ord : Order) (scope : Scope) (s : State) : Host.Outcome State Fault Refusal :=
  runSlot g (meaningStfe data base disp size ord scope) s
def execAmo (g : Guard) (d a b : SReg) (op : AtomOp) (size : Size) (ord : Order) (scope : Scope) (lat : Lat) (s : State) : Host.Outcome State Fault Refusal :=
  runSlot g (meaningAmo d a b op size ord scope lat) s
def execAmor (g : Guard) (d a b : SReg) (op : AtomOp) (size : Size) (level : BitVec 3) (s : State) : Host.Outcome State Fault Refusal :=
  runSlot g (meaningAmor d a b op size level) s
def execCas (g : Guard) (d a b c : SReg) (failAcq : Bool) (size : Size) (ord : Order) (scope : Scope) (lat : Lat) (s : State) : Host.Outcome State Fault Refusal :=
  runSlot g (meaningCas d a b c failAcq size ord scope lat) s
def execRed (g : Guard) (a b : SReg) (op : AtomOp) (size : Size) (ord : Order) (scope : Scope) (s : State) : Host.Outcome State Fault Refusal :=
  runSlot g (meaningRed a b op size ord scope) s
def execFence (g : Guard) (sc : Bool) (ord : Order) (_scope : Scope) (s : State) : Host.Outcome State Fault Refusal :=
  runSlot g (meaningFence sc ord) s
def execGrab (g : Guard) (d base : SReg) (ord : Order) (scope : Scope) (lat : Lat) (s : State) : Host.Outcome State Fault Refusal :=
  runSlot g (meaningGrab d base ord scope lat) s
def execCsrrRemote (g : Guard) (d a : SReg) (csr : BitVec 12) (lat : Lat) (s : State) : Host.Outcome State Fault Refusal :=
  runSlot g (meaningCsrrRemote d a csr lat) s
def execHld (g : Guard) (h : HReg) (base : SReg) (disp : BitVec 16) (ord : Order) (scope : Scope) (s : State) : Host.Outcome State Fault Refusal :=
  runSlot g (meaningHld h base disp ord scope) s
def execHst (g : Guard) (h : HReg) (base : SReg) (disp : BitVec 16) (ord : Order) (scope : Scope) (s : State) : Host.Outcome State Fault Refusal :=
  runSlot g (meaningHst h base disp ord scope) s
def execWaitm (g : Guard) (data base : SReg) (disp : BitVec 16) (size : Size) (scope : Scope) (cc : Cond) (s : State) : Host.Outcome State Fault Refusal :=
  runSlot g (meaningWaitm data base disp size scope cc) s

end Sys2Proof.Machine
end

