-- ==== Sys2Proof/Machine/Control.lean ====
section
/-! DEFINITION. Control instructions (R73, R331, R332, R347, R348, R378, R393, R395, R325): branches, EXIT, TRAP, SVC, waits on counters,
domain arrivals and YIELD. ERET stands in Dispatcher.lean, beside the answers of the supervisor. -/

namespace Sys2Proof.Machine

/-! ### Branches -/

/-- 32 × sext(offset, 30). -/
def bundleOffset (o : BitVec 30) : Word := (o.signExtend 64) <<< 5

/-- The next bundle is at `a` (R332). -/
def State.branch (s : State) (a : Word) : State := s.setRs { s.rs with npc := a }

/-- A register target must be a bundle's address (R74). -/
def targetTrap (a : Word) : Option Trap := if a &&& 31 ≠ 0 then some (mkTrap .align 0 a) else none

def meaningBr (cond : BrCond) (a : SReg) (offset : BitVec 30) : Slot :=
  Slot.scalar (if cond = .always then [] else [a]) [] noTrap noHold fun vs s =>
    if brCond cond (arg vs 0) then s.branch (s.rs.pc + bundleOffset offset) else s

def meaningJmp (a : SReg) (offset : BitVec 30) : Slot :=
  Slot.scalar [a] [] (fun vs _ => targetTrap (arg vs 0 + bundleOffset offset)) noHold fun vs s =>
    s.branch (arg vs 0 + bundleOffset offset)

/-- CALL lands the following bundle's address in lr (R332). -/
def meaningCall (offset : BitVec 30) : Slot :=
  Slot.scalar [] [] noTrap noHold fun _ s => (s.landS 49 1 (s.rs.pc + 32)).branch (s.rs.pc + bundleOffset offset)

def meaningCallRegister (a : SReg) (offset : BitVec 30) : Slot :=
  Slot.scalar [a] [] (fun vs _ => targetTrap (arg vs 0 + bundleOffset offset)) noHold fun vs s =>
    (s.landS 49 1 (s.rs.pc + 32)).branch (arg vs 0 + bundleOffset offset)

def meaningRet : Slot :=
  Slot.scalar [49] [] (fun vs _ => targetTrap (arg vs 0)) noHold fun vs s => s.branch (arg vs 0)

/-- BLOOP (R73, R331). -/
def meaningBloop (offset : BitVec 30) : Slot :=
  Slot.scalar [48, 55, 51] [] noTrap noHold fun vs s =>
    let (lc, ec, sr) := (arg vs 0, arg vs 1, arg vs 2)
    let target := s.rs.pc + bundleOffset offset
    if lc ≠ 0 then ((s.landS 48 1 (lc - 1)).landS 51 1 (((sr <<< 1) ||| 1) &&& 0xFFFF)).branch target
    else if ec ≠ 0 then ((s.landS 55 1 (ec - 1)).landS 51 1 ((sr <<< 1) &&& 0xFFFF)).branch target
    else s

/-! ### EXIT, TRAP, SVC -/

/-- EXIT begins its drain (R348); the drain's end is fixed when the bundle has issued. -/
def meaningExit (g : Guard) (n : BitVec 8) (leave : Bool) : Slot :=
  Slot.scalar [] []
    (fun _ s => match s.mode with
      | .s => some (mkTrap .priv 0 0)
      | .u => if s.ntask < n.toNat then some (illopOf 0 (if leave then .exitLeave g else .exit g n)) else none)
    noHold fun _ s => s.flushComb.setRs { s.flushComb.rs with wait := .exitDrain n leave 0 }

/-- TRAP and SVC: a bundle trap that resumes at the following bundle (R378). -/
def meaningTrap (cause : Cause) (code : BitVec 16) : Slot :=
  Slot.scalar [] [] (fun _ s => some { mkTrap cause 0 (code.setWidth 64) with tepc := some (s.rs.pc + 32) }) noHold fun _ s => s

/-! ### Waits and arrivals -/

/-- Whether counter `n` has reached its target (R393). -/
def counterReached (ec target : BitVec 32) : Bool := !(ec - target).msb

def meaningWaitc (n : BitVec 3) (a : SReg) (imm : BitVec 30) : Slot :=
  Slot.scalar [a] [] noTrap
    (fun vs s => !counterReached s.ctx.ec[n.toNat] ((arg vs 0 + imm.setWidth 64).setWidth 32))
    fun _ s => s.acquireL1

/-- The level that DMR addresses. -/
def Ctx.slvl (c : Ctx) : BitVec 3 := c.csr.dmr.extractLsb' 0 3

/-- Whether the caller is one phase ahead already (R43). -/
def Ctx.phaseAhead (c : Ctx) (level : BitVec 3) : Bool := 2 ≤ (c.dom level).own

/-- Arrive; SYNC then waits for the phase it arrived for. -/
def State.arriveNow (s : State) (level : BitVec 3) (sync : Bool) : State :=
  let d := s.ctx.dom level
  let t := s.arrive level
  if sync then t.setRs { t.rs with wait := .phase level (d.phc + BitVec.ofNat 32 d.own + 1) } else t

/-- SYNC and ARRIVE (R42, R43, R325). -/
def meaningArrive (sync : Bool) : Slot :=
  Slot.scalar [] [] (fun _ s => if s.ctx.levelOk s.ctx.slvl then none else some (barrierTrap s s.ctx.slvl)) noHold fun _ s =>
    let s := s.flushComb
    if s.ctx.phaseAhead s.ctx.slvl then s.setRs { s.rs with wait := .arriveFirst s.ctx.slvl sync } else s.arriveNow s.ctx.slvl sync

/-! ### YIELD -/

/-- The class a context runs at: its own, or a higher donated one (R54). -/
def Ctx.effClass (c : Ctx) : Nat := c.boost.foldl (fun m b => max m b.1.toNat) c.cls.toNat

/-- Whether a resident or saved context could run: one that sleeps in WAITM does when its word has changed (R54). -/
def State.wakes (s : State) (c : Ctx) : Bool := !c.dead && match c.sleep with | some (a, v) => s.numPa a.toNat 8 != v.toNat | none => true

/-- YIELD: the switch comes at the boundary, if a context of the same or a higher class is ready (R395). -/
def meaningYield : Slot :=
  Slot.scalar [] [] noTrap noHold fun _ s =>
    if s.mode == .u && s.parked.any (fun c => s.wakes c && decide (s.ctx.effClass ≤ c.effClass)) then
      s.setRs { s.rs with wait := .yield } else s

/-! ### One definition per instruction -/

def execBr (g : Guard) (cond : BrCond) (a : SReg) (offset : BitVec 30) (s : State) : Host.Outcome State Fault Refusal :=
  runSlot g (meaningBr cond a offset) s
def execJmp (g : Guard) (a : SReg) (offset : BitVec 30) (s : State) : Host.Outcome State Fault Refusal := runSlot g (meaningJmp a offset) s
def execCall (g : Guard) (offset : BitVec 30) (s : State) : Host.Outcome State Fault Refusal := runSlot g (meaningCall offset) s
def execCallRegister (g : Guard) (a : SReg) (offset : BitVec 30) (s : State) : Host.Outcome State Fault Refusal :=
  runSlot g (meaningCallRegister a offset) s
def execRet (g : Guard) (s : State) : Host.Outcome State Fault Refusal := runSlot g meaningRet s
def execBloop (g : Guard) (offset : BitVec 30) (s : State) : Host.Outcome State Fault Refusal := runSlot g (meaningBloop offset) s
def execExit (g : Guard) (n : BitVec 8) (s : State) : Host.Outcome State Fault Refusal := runSlot g (meaningExit g n false) s
def execExitLeave (g : Guard) (s : State) : Host.Outcome State Fault Refusal := runSlot g (meaningExit g 0 true) s
def execTrap (g : Guard) (code : BitVec 16) (s : State) : Host.Outcome State Fault Refusal := runSlot g (meaningTrap .trap code) s
def execSvc (g : Guard) (code : BitVec 16) (s : State) : Host.Outcome State Fault Refusal := runSlot g (meaningTrap .svc code) s
def execWaitc (g : Guard) (n : BitVec 3) (a : SReg) (imm : BitVec 30) (s : State) : Host.Outcome State Fault Refusal :=
  runSlot g (meaningWaitc n a imm) s
def execSync (g : Guard) (s : State) : Host.Outcome State Fault Refusal := runSlot g (meaningArrive true) s
def execArrive (g : Guard) (s : State) : Host.Outcome State Fault Refusal := runSlot g (meaningArrive false) s
def execYield (g : Guard) (s : State) : Host.Outcome State Fault Refusal := runSlot g meaningYield s

end Sys2Proof.Machine
end

