-- ==== Sys2Proof/Machine/System.lean ====
section
/-! DEFINITION. The system instructions: local CSR access (R341 to R343, R117), TLBI (R380), CFLUSH and CINV (R334), and the landing of the CSR
writes that the opcode table lists as steps of their own (log 9). -/

namespace Sys2Proof.Machine

/-! ### CSRs -/

def meaningCsrr (d : SReg) (csr : BitVec 12) : Slot :=
  Slot.scalar [] [d] (fun _ s => csrTrap s false false csr) noHold fun _ s => s.landS d 2 (csrRead s csr)

/-- Granules of the context's allocation. -/
def Ctx.granules (c : Ctx) : Nat := c.spmBanks * 8192

/-- The check of a value written to FEOP, made at issue (R117). DESIGN CHOICE (log 49): an empty run (OP 0 or COUNT 0) reaches nothing beyond
the allocation, wherever its first granule lies. -/
def feopTrap (s : State) (v : Word) (i : Instr) : Option Trap :=
  let o := v.extractLsb' 62 2
  let first := (v.extractLsb' 0 18).toNat
  let count := (v.extractLsb' 24 20).toNat
  if o = (3 : BitVec 2) then some (illopOf 0 i)
  else if o ≠ (0 : BitVec 2) ∧ count ≠ 0 ∧ s.ctx.granules < first + count then
    some (mkTrap .prot 0 (BitVec.ofNat 64 (16 * max first s.ctx.granules)))
  else none

/-- CSRW, CSRS and CSRC: checked at issue, applied at t + 1 (R341). -/
def meaningCsrWrite (op : CsrOp) (a : SReg) (csr : BitVec 12) (i : Instr) : Slot :=
  Slot.scalar [a] []
    (fun vs s => match csrTrap s true (op == .clear) csr with
      | some t => some t
      | none => if csr = 0x052 then feopTrap s (csrCombine op 0 (arg vs 0)) i else none)
    noHold fun vs s => s.inFlight 1 (.csr op csr (arg vs 0))

/-! ### Translations (R380) -/

def privTrap (s : State) : Option Trap := match s.mode with | .u => some (mkTrap .priv 0 0) | .s => none

/-- Remove the TLB entries that match, and hold until the accesses they translated, in whichever address space, are performed (R380). -/
def State.tlbi (s : State) (hit : BitVec 16 → Nat → Nat → Bool) : State :=
  let gone := (s.tlb ++ s.dieTlb).filter fun e => hit e.asid e.va.toNat e.bits
  let vas := fun (q : Req) => q.va.toNat :: match q.kind with | .atomicRemote _ _ dest _ => [dest.toNat] | _ => []
  let used := fun (q : Req) => q.pa.isSome && q.reply.isNone && (vas q).any fun a => gone.any (·.covers (q.atp.extractLsb' 48 16) a)
  let ids := ((s.liveReqs ++ s.comb).filter used).map (·.id)
  let keep := fun (e : TlbEntry) => !hit e.asid e.va.toNat e.bits
  { s with tlb := s.tlb.filter keep, dieTlb := s.dieTlb.filter keep }.setRs { s.rs with wait := .requests ids }

def meaningTlbiAll : Slot := Slot.scalar [] [] (fun _ s => privTrap s) noHold fun _ s => s.tlbi fun _ _ _ => true
def meaningTlbiAsid (a : SReg) : Slot :=
  Slot.scalar [a] [] (fun _ s => privTrap s) noHold fun vs s => s.tlbi fun asid _ _ => asid == (arg vs 0).setWidth 16
def meaningTlbiPage (a b : SReg) : Slot :=
  Slot.scalar [a, b] [] (fun _ s => privTrap s) noHold fun vs s =>
    s.tlbi fun asid va bits => asid == (arg vs 1).setWidth 16 && (arg vs 0).extractLsb' 48 16 == (0 : BitVec 16)
      && va / 2 ^ bits == (arg vs 0).toNat / 2 ^ bits

/-! ### Cache ranges (R334) -/

/-- The end of a range, cut at 2^48. -/
def rangeEnd (sa len : Word) : Nat := min (sa.toNat + len.toNat) (2 ^ 48)

/-- The leaves of an address space that meet a range, with the virtual addresses they map. -/
def State.leavesIn (s : State) (lo hi : Nat) : List (Nat × Nat) → Nat → Nat → List (Nat × Leaf)
  | [], _, _ => []
  | (sh, ib) :: ls, tab, base =>
    (List.range (2 ^ ib)).flatMap fun i =>
      let va := base + i * 2 ^ sh
      if va + 2 ^ sh ≤ lo ∨ hi ≤ va then []
      else
        let e := BitVec.ofNat 64 (s.numPa (tab + 8 * i) 8)
        if !e.getLsbD 0 then []
        else if e.extractLsb' 2 3 == (0 : BitVec 3) then s.leavesIn lo hi ls ((e.extractLsb' 12 28).toNat * 4096) va
        else
          let pa := (e.extractLsb' 16 24).toNat * 65536
          if sh = 39 ∨ pa % 2 ^ sh ≠ 0 then [] else [(va, ⟨sh, pa, e.extractLsb' 0 9, e.extractLsb' 12 4⟩)]

/-- Every leaf the range may be translated by: the tables' and the TLB's. -/
def State.rangeLeaves (s : State) (lo hi : Nat) : List (Nat × Leaf) :=
  s.leavesIn lo hi walkLevels (rootOf s.ctx.csr.atp) 0 ++
    ((s.tlb ++ s.dieTlb).filter (·.asid == s.asid)).map fun e => (e.va.toNat / 2 ^ e.bits * 2 ^ e.bits, ⟨e.bits, e.pa.toNat, e.flags, e.enc⟩)

/-- The mapped address of a canonical cell, as a leaf of the striped or local view names it. -/
def uncanonPa (striped : Bool) (c : Nat) : Nat :=
  if striped ∧ c < 0x8000000000 then (c % 2 ^ 36 / 2 ^ 12) * 2 ^ 15 + c / 2 ^ 36 * 2 ^ 12 + c % 2 ^ 12 else c

/-- Whether `n` bytes at a physical address meet a virtual range; an empty range meets none (R334). -/
def inRange (leaves : List (Nat × Leaf)) (lo hi pa n : Nat) : Bool :=
  decide (lo < hi) && leaves.any fun (va, l) =>
    let p := uncanonPa (l.flags.getLsbD 8) pa
    decide (l.pa ≤ p) && decide (p < l.pa + 2 ^ l.bits) && decide (va + (p - l.pa) < hi) && decide (lo < va + (p - l.pa) + n)

/-- Owned words of the range are written back and stay as clean copies; with `instr` the covering bundles leave the instruction cache. -/
def State.flushRange (s : State) (sa len : Word) (instr : Bool) : State :=
  let lo := sa.toNat
  let hi := rangeEnd sa len
  let ls := s.rangeLeaves lo hi
  { s with
    l1 := s.l1.map fun w => if inRange ls lo hi w.addr.toNat 8 then { w with owned := false } else w,
    icache := if instr then s.icache.filter fun c => !inRange ls lo hi c.pa.toNat 32 else s.icache }

/-- CINV with I = 0: words of the range that the core does not own leave the L1. -/
def State.invalidateRange (s : State) (sa len : Word) : State :=
  let lo := sa.toNat
  let hi := rangeEnd sa len
  let ls := s.rangeLeaves lo hi
  { s with l1 := s.l1.filter fun w => w.owned || !inRange ls lo hi w.addr.toNat 8 }

/-- The stores of a range that are not yet accepted; an empty range has none (R334). -/
def State.storesIn (s : State) (sa len : Word) : List Nat :=
  (s.liveReqs.filter fun q => q.reply.isNone && q.kind.writes && decide (sa.toNat < rangeEnd sa len)
    && decide (q.va.toNat < rangeEnd sa len) && decide (sa.toNat < q.va.toNat + q.bytes)).map (·.id)

def meaningCflush (a b : SReg) : Slot :=
  Slot.scalar [a, b] [] noTrap noHold fun vs s =>
    s.setRs { s.rs with wait := .flush (arg vs 0) (arg vs 1) false (s.storesIn (arg vs 0) (arg vs 1)) }

def meaningCinv (a b : SReg) (i : Bool) : Slot :=
  Slot.scalar [a, b] [] noTrap noHold fun vs s =>
    if i then s.setRs { s.rs with wait := .flush (arg vs 0) (arg vs 1) true (s.storesIn (arg vs 0) (arg vs 1)) }
    else s.invalidateRange (arg vs 0) (arg vs 1)

/-! ### One definition per instruction -/

def execCsrr (g : Guard) (d : SReg) (csr : BitVec 12) (s : State) : Host.Outcome State Fault Refusal := runSlot g (meaningCsrr d csr) s
def execCsrw (g : Guard) (a : SReg) (csr : BitVec 12) (s : State) : Host.Outcome State Fault Refusal :=
  runSlot g (meaningCsrWrite .write a csr (.csrw g a csr)) s
def execCsrs (g : Guard) (a : SReg) (csr : BitVec 12) (s : State) : Host.Outcome State Fault Refusal :=
  runSlot g (meaningCsrWrite .set a csr (.csrs g a csr)) s
def execCsrc (g : Guard) (a : SReg) (csr : BitVec 12) (s : State) : Host.Outcome State Fault Refusal :=
  runSlot g (meaningCsrWrite .clear a csr (.csrc g a csr)) s
def execTlbiAll (g : Guard) (s : State) : Host.Outcome State Fault Refusal := runSlot g meaningTlbiAll s
def execTlbiAsid (g : Guard) (a : SReg) (s : State) : Host.Outcome State Fault Refusal := runSlot g (meaningTlbiAsid a) s
def execTlbiPage (g : Guard) (a b : SReg) (s : State) : Host.Outcome State Fault Refusal := runSlot g (meaningTlbiPage a b) s
def execCflush (g : Guard) (a b : SReg) (s : State) : Host.Outcome State Fault Refusal := runSlot g (meaningCflush a b) s
def execCinv (g : Guard) (a b : SReg) (i : Bool) (s : State) : Host.Outcome State Fault Refusal := runSlot g (meaningCinv a b i) s

/-! ### Steps that are landings of a CSR write (log 9) -/

/-- CTXDAT_WRITE (R246). -/
def execCtxdatWrite (v : Word) (s : State) : Host.Outcome State Fault Refusal := .next (s.ctxdat v)
/-- RGLEN_WRITE (R50). -/
def execRglenWrite (v : BitVec 32) (s : State) : Host.Outcome State Fault Refusal := .next (s.armRange v)
/-- FEOP_CLEAR and FEOP_SET (R117): a run beyond the allocation changes nothing. -/
def execFeopClear (first : BitVec 18) (count : BitVec 20) (s : State) : Host.Outcome State Fault Refusal :=
  .next (if first.toNat + count.toNat ≤ s.ctx.granules then s.feop false first.toNat count.toNat else s)
def execFeopSet (first : BitVec 18) (count : BitVec 20) (s : State) : Host.Outcome State Fault Refusal :=
  .next (if first.toNat + count.toNat ≤ s.ctx.granules then s.feop true first.toNat count.toNat else s)
/-- VKILL (R149). -/
def execVkill (tid : BitVec 12) (s : State) : Host.Outcome State Fault Refusal := .next (s.vkill tid)
/-- CFRES_RESUME and CFRES_DISCARD (R198). -/
def execCfresResume (s : State) : Host.Outcome State Fault Refusal := .next (s.cfres true)
def execCfresDiscard (s : State) : Host.Outcome State Fault Refusal := .next (s.cfres false)

end Sys2Proof.Machine
end

