-- ==== Sys2Proof/Machine/Operands.lean ====
section
/-! DEFINITION. Operand forms beside the scalar ones: what engines read and write (R114, R116, R118, R153, R159), the fetching and writing of
stream beats (R80, R81, R419), the operands of the vector slots (Table 16.6) and the checks of a port read or written (R81). -/

namespace Sys2Proof.Machine

/-! ## Accesses of engines -/

/-- A failed engine access: the cause and the virtual address. -/
structure EngFail where
  cause : Cause
  va : Word
  deriving DecidableEq, Repr

/-- The pieces of `n` bytes at an address that stay within a 128-byte line. -/
def linePieces : Nat → Nat → Nat → List (Nat × Nat)
  | 0, _, _ => []
  | fuel + 1, a, n =>
    if n = 0 then [] else
      let k := min n (128 - a % 128)
      (a, k) :: linePieces fuel (a + k) (n - k)

def piecesOf (va : Word) (n : Nat) : List (Nat × Nat) := linePieces ((va.toNat % 128 + n + 127) / 128) va.toNat n

/-- Translate and check every piece of an access in address space `atp`. -/
def State.spanGo (s : State) (atp : Word) (mode : Mode) (acc : Acc) : List (Nat × Nat) → Except EngFail (List (Pa × Nat))
  | [] => .ok []
  | (a, n) :: ps =>
    match s.translate atp mode acc false (BitVec.ofNat 64 a) n with
    | .error f => .error ⟨f.1, BitVec.ofNat 64 a⟩
    | .ok p => match s.spanGo atp mode acc ps with
      | .error f => .error f
      | .ok r => .ok ((p, n) :: r)

def State.span (s : State) (atp : Word) (mode : Mode) (acc : Acc) (va : Word) (n : Nat) : Except EngFail (List (Pa × Nat)) :=
  s.spanGo atp mode acc (piecesOf va n)

/-- Where a failed access met lost data: an entry of its walk, or its own place. -/
def State.lostPa (s : State) (atp : Word) (va : Word) : Option Nat :=
  (s.tableLost atp va.toNat).or ((s.leafIn atp va.toNat).map fun l => l.addr va.toNat)

/-- Lost data that an access met is delivered first to the DMP, which logs it; a failed expansion counts in KVERR (R254, R260). -/
def State.engFailed (s : State) (atp : Word) (f : EngFail) : State :=
  if f.cause ≠ .mchk then s
  else match s.lostPa atp f.va with
    | some pa => if s.lostAt pa 1 then (s.kvError pa).logError 0x20 (BitVec.ofNat 64 pa) else s
    | none => s

/-- TVAL of an access failure: the virtual address, of MCHK the physical one (Table 12.1). -/
def State.failTval (s : State) (atp : Word) (f : EngFail) : Word :=
  if f.cause ≠ .mchk then f.va
  else BitVec.ofNat 64 ((s.lostPa atp f.va).getD 0)

/-- The first piece that writes part of a line whose data an uncorrectable error has hit: the drain of a matrix call meets it (R187, log 50). -/
def State.writeLost (s : State) (ps : List (Pa × Nat)) : Option Nat :=
  (ps.find? fun x => decide (x.2 < 128) && s.poisoned x.1.pa.toNat x.2).map (·.1.pa.toNat)

/-- The offset of that piece in the access: a write of the sequence manager meets it (R216). -/
def State.writeLostOff (s : State) (ps : List (Pa × Nat)) : Option Nat :=
  (s.writeLost ps).map fun pa => ((ps.takeWhile fun x => x.1.pa.toNat != pa).map (·.2)).sum

/-- Read one piece: the view of R153 on a versioned line, the count of R124. -/
def State.readPiece (s : State) (view : Option Nat) (p : Pa) (n : Nat) : List Byte × State :=
  let a := p.pa.toNat
  if p.v && placeOf a == .hbm then (lineBytes (s.viewLine view (lineOf a)) (a - lineOf a) n, s)
  else (s.readPa a n, s.countRead a)

/-- Read the pieces in order. Where a line is counted, each piece is one read of it: the bytes of a run that lie in one line of 128 bytes are one read
request (R124, log 49). -/
def State.readPieces (s : State) (view : Option Nat) : List (Pa × Nat) → List Byte × State
  | [] => ([], s)
  | (p, n) :: ps =>
    let (b, s) := s.readPiece view p n
    let (bs, s) := s.readPieces view ps
    (b ++ bs, s)

/-- Whether a versioned line among the pieces is locked: a one-line commit waits. -/
def State.piecesLocked (s : State) (ps : List (Pa × Nat)) : Bool :=
  ps.any fun (p, _) => p.v && placeOf p.pa.toNat == .hbm && s.lineLocked (lineOf p.pa.toNat)

/-- Write the pieces, setting granules full; where a one-line commit is refused, the offset of its piece in the access (R159). -/
def State.writePieces (s : State) (rcn : Nat) : List (Pa × Nat) → List Byte → Except Nat State
  | [], _ => .ok s
  | (p, n) :: ps, bs =>
    let a := p.pa.toNat
    if p.v && placeOf a == .hbm then
      match s.oneLineCommit a (bs.take n) with
      | none => .error 0
      | some t => ((t.retag p).writePieces rcn ps (bs.drop n)).mapError (· + n)
    else ((s.agentWrite p rcn (bs.take n)).writePieces rcn ps (bs.drop n)).mapError (· + n)

/-- A donation to a context ends as an engine of it writes the word (R54). -/
def State.endBoosts (s : State) (id : BitVec 16) (ps : List (Pa × Nat)) : State :=
  s.updCtx id fun c => if c.boost.isEmpty then c else ps.foldl (fun c (p, n) => c.endBoost p.pa.toNat n) c

/-- Whether every own-SPM granule of the pieces is full. -/
def State.piecesFull (s : State) (ps : List (Pa × Nat)) : Bool := ps.all fun (p, n) => s.granulesFull p.pa.toNat n

def State.clearPieces (s : State) (ps : List (Pa × Nat)) : State := ps.foldl (fun s (p, n) => s.clearGranules p.pa.toNat n) s

/-! ## Stream beats (R80, R81, R143, R419) -/

/-- Beats that a read port fetches ahead (log 16). -/
def fetchDepth : Nat := 4

/-- Whether a port's pattern has a beat `k`. -/
def State.patternHas (s : State) (q : Port) (k : Nat) : Bool :=
  hRing (s.portH q) || hWRAP (s.portH q) || decide (k < patternBeats (s.portH q))

/-- Whether a read port may fetch its next beat now. -/
def State.fetchReady (s : State) (q : Port) : Bool :=
  let h := s.portH q
  let b := patternBeats h
  q.bound && !q.wr && q.fault.isNone && s.patternHas q q.pos
    && decide (q.beats.length < (if hFE h && !q.peek then 1 else fetchDepth))
    && (!(hFE h && !q.peek) || (q.beats.isEmpty && q.popped.isNone))
    && (!hRing h || decide (q.pos / b - q.taken / b < hFilled h))

/-- PORT_FETCH: the next beat is read, or its failure is kept for the bundle that would pop it (R419). -/
def State.portFetch (s : State) (n : PortNo) : State :=
  let q := s.ctx.ports[n.toNat]
  if !s.fetchReady q then s
  else match s.portAddr q q.pos with
    | none => s.updPort n fun q => { q with fault := some (mkTrap .handle 0 (q.h.setWidth 64)) }
    | some (va, k) =>
      match s.span s.ctx.csr.atp .u .read va k with
      | .error f =>
        -- lost data is an asynchronous cause (Table 12.1), any other failure the popping bundle's
        let t : Trap := if f.cause = .mchk then mkAsync (s.failTval s.ctx.csr.atp f) else mkTrap f.cause 0 (f.va)
        let s := (s.engFailed s.ctx.csr.atp f).updPort n fun q => { q with fault := some t }
        if f.cause = .mchk then s.pendOnce t else s
      | .ok ps =>
        if hFE (s.portH q) && !s.piecesFull ps then s
        else
          let (bs, s) := s.readPieces s.ctx.copyView ps
          s.updPort n fun q => { q with beats := q.beats ++ [BitVec.ofNat 2048 (natOf bs)], pos := q.pos + 1 }

/-- PORT_BEAT_WRITE: the beat at the head of a write port's queue is written, or its failure waits for the boundary (R419). -/
def State.portBeatWrite (s : State) (n : PortNo) : State :=
  let q := s.ctx.ports[n.toNat]
  match q.beats, q.pushers with
  | v :: vs, (k, b, t) :: us =>
    if !q.bound || !q.wr || q.fault.isSome then s
    else
      let fail := fun (f : EngFail) =>
        let tr := mkBoundary f.cause k b t (s.failTval s.ctx.csr.atp f)
        ((s.engFailed s.ctx.csr.atp f).updPort n fun q => { q with fault := some tr }).pend tr
      match s.portAddr q q.taken with
      | none => fail ⟨.handle, q.h.setWidth 64⟩
      | some (va, n') =>
        match s.span s.ctx.csr.atp .u .write va n' with
        | .error f => fail f
        | .ok ps =>
          if s.piecesLocked ps then s
          else match s.writePieces 0 ps (bytesOf n' v.toNat) with
            | .error o => fail ⟨.vstate, va + BitVec.ofNat 64 o⟩
            | .ok s =>
              let s := s.endBoosts s.ctx.id ps
              let h := s.portH q
              let s := s.updPort n fun q => { q with beats := vs, pushers := us, taken := q.taken + 1 }
              if hRing h && (q.taken + 1) % patternBeats h == 0 then { s with ctx := s.ctx.updH q.h true 1 } else s
  | _, _ => s

/-! ## Port checks of a slot -/

def portTrap (slot : BitVec 3) (n : PortNo) : Trap := mkTrap .port slot (n.setWidth 64)

/-- RING: a ring whose HEAD, TAIL or FILLED lies out of range (R244). -/
def ringTrap (slot : BitVec 3) (h : HReg) (v : Handle) : Option Trap :=
  if ringOk v then none else some (mkTrap .ring slot (h.setWidth 64))

/-- The trap of reading port `n` from a slot (R81, R419). -/
def State.readTrap (s : State) (slot : BitVec 3) (n : PortNo) : Option Trap :=
  let q := s.ctx.ports[n.toNat]
  if s.mode == .s || !q.bound || q.wr then some (portTrap slot n)
  else if q.popped.isSome then none
  else match ringTrap slot q.h (s.portH q) with
    | some t => some t
    | none =>
      if q.beats.isEmpty && !s.patternHas q q.pos then some (portTrap slot n)
      else if q.beats.isEmpty then (q.fault.filter (·.cause != .mchk)).map fun t => { t with slot := slot }
      else none

/-- Whether a read of port `n` holds. -/
def State.readHolds (s : State) (n : PortNo) : Bool := !s.ctx.ports[n.toNat].ready

/-- Pushes to a port in flight. -/
def State.pushesInFlight (s : State) (n : PortNo) : Nat :=
  (s.ctx.rs.flights.filter fun f => match f.act with | .push _ p _ _ _ => p == n | _ => false).length

/-- The trap of pushing `k` beats to port `n` from a slot. -/
def State.pushTrap (s : State) (slot : BitVec 3) (n : PortNo) (k : Nat) : Option Trap :=
  let q := s.ctx.ports[n.toNat]
  if s.mode == .s || !q.bound || !q.wr then some (portTrap slot n)
  else match ringTrap slot q.h (s.portH q) with
    | some t => some t
    | none => if s.patternHas q (q.pos + s.pushesInFlight n + k - 1) then none else some (portTrap slot n)

/-- Whether a push of `k` beats holds at issue (R371). -/
def State.pushHolds (s : State) (n : PortNo) (k : Nat) : Bool :=
  let q := s.ctx.ports[n.toNat]
  let ahead := s.pushesInFlight n + k
  !s.portSpace q (q.pos + ahead - 1) (q.beats.length + ahead)

/-! ## Vector operands (R82, R371) -/

/-- A beat from its lanes, `w` bits each. -/
def beatOf (t : VType) (xs : List Nat) : Beat := BitVec.ofNat 2048 (packLanes (VType.width t) xs)

/-- The lanes of a special operand: a broadcast register, the lane index, zero. -/
def broadcastBeat (t : VType) (v : Word) : Beat := beatOf t (List.replicate (VType.lanes t) (v.toNat % 2 ^ VType.width t))

def indexBeat (t : VType) : Beat :=
  beatOf t ((List.range (VType.lanes t)).map fun k => match VType.fmt? t with
    | some _ => (convert (VType.toE t) .u32 false .rne k).1
    | none => k % 2 ^ VType.width t)

/-- Operand codes that name a port. -/
def isPortOpd (a : VOpd) : Bool := a.toNat < 32

/-- The beat of operand `a`, and the state with a port's beat popped. -/
def vread (t : VType) (a : VOpd) (s : State) : Beat × State :=
  let n := a.toNat
  if n < 32 then s.popPort (a.setWidth 5)
  else if n = 32 then (s.ctx.latches[0], s)
  else if n = 33 then (s.ctx.latches[1], s)
  else if n = 34 then (0, s)
  else if n = 35 then (indexBeat t, s)
  else (broadcastBeat t (s.sreg (BitVec.ofNat 6 (n - 16))), s)

/-- The beat of operand c (Table 16.6). -/
def vreadC (t : VType) (c : BitVec 5) (s : State) : Beat :=
  let n := c.toNat
  if n = 0 then 0
  else if n = 1 then s.ctx.latches[0]
  else if n = 2 then s.ctx.latches[1]
  else if n = 3 then indexBeat t
  else broadcastBeat t (s.sreg (BitVec.ofNat 6 (n + 16)))

/-- The slot number of a vector slot in TCAUSE. -/
def vslotNo (k : VSlot) : BitVec 3 := match k with | .v0 => 1 | .v1 => 2

/-- The traps of a vector slot's ports, its sources first. -/
def vtrap (k : VSlot) (srcs : List VOpd) (d : PortNo) (s : State) : Option Trap :=
  if s.mode == .s then some (portTrap (vslotNo k) (if d = 31 then (srcs.headD 0).setWidth 5 else d))
  else match (srcs.filter isPortOpd).findSome? fun a => s.readTrap (vslotNo k) (a.setWidth 5) with
    | some t => some t
    | none => if d = 31 then none else s.pushTrap (vslotNo k) d 1

def vhold (srcs : List VOpd) (d : PortNo) (s : State) : Bool :=
  ((srcs.filter isPortOpd).any fun a => s.readHolds (a.setWidth 5)) || (d != 31 && s.pushHolds d 1)

/-- Read the operands in order. -/
def vreads (t : VType) : List VOpd → State → List Beat × State
  | [], s => ([], s)
  | a :: as, s =>
    let (b, s) := vread t a s
    let (bs, s) := vreads t as s
    (b :: bs, s)

/-- Land a vector result: the slot's latch, and the port unless d is 31 (R83, R371). -/
def State.landV (s : State) (k : VSlot) (d : PortNo) (lat : Nat) (r : Beat) : State :=
  let s := s.inFlight lat (.latch k r)
  if d = 31 then s else s.pushBeat (vslotNo k) d lat r

end Sys2Proof.Machine
end

