-- ==== Sys2Proof/Machine/Handles.lean ====
section
/-! DEFINITION. Handle and port instructions (R79, R80, R329, R330, R359 to R363) and versioned buffers in SPM (R162 to R164, R384). -/

namespace Sys2Proof.Machine

/-! ### Checks -/

/-- HANDLE for a handle that breaks R79, then RING (R244). -/
def State.checkHandle (s : State) (slot : BitVec 3) (h : HReg) : Option Trap :=
  if handleOk (s.hreg h) then ringTrap slot h (s.hreg h) else some (handleTrap slot h)

/-- The drain destination that a call names (R168). -/
def CallEntry.hd (e : CallEntry) : Option HReg :=
  match e with
  | .call _ _ _ _ _ _ _ _ hd _ _ _ => hd
  | .mask .. => none

/-- Whether a handle is a writer handle of a versioned buffer in the caller's own SPM (R162). -/
def State.writerHandle (s : State) (h : Handle) : Bool :=
  hKind h == 1 && hVERS h && 2 ≤ hNslot h && hNslot h ≤ 4 && hSlotsz h != 0 && (hBase h).toNat % 64 == 0
    && (s.ownSpm .read (hBase h) 64).isSome

/-- The reader handles that VBIND has bound, of the register set in use. -/
def State.bounds (s : State) : List Bound :=
  match s.mode with
  | .u => s.ctx.bounds
  | .s => s.supBounds

def State.setBounds (s : State) (bs : List Bound) : State :=
  match s.mode with
  | .u => { s with ctx := { s.ctx with bounds := bs } }
  | .s => { s with supBounds := bs }

/-- A register keeps the binding that VBIND gave it through HLD and HSET over it (the model's choice, R162, log 55). -/
def State.vbound (s : State) (h : HReg) : Bool := s.bounds.any (·.h == h)

/-! ### Fields -/

def meaningHset (h : HReg) (a : SReg) (f : HField) : Slot :=
  Slot.scalar [a] [] (fun _ s => s.handleInUse h) noHold fun vs s => s.inFlight 1 (.hfield h f (arg vs 0))

def meaningHget (d : SReg) (h : HReg) (f : HField) : Slot :=
  Slot.scalar [] [d] noTrap noHold fun _ s => s.landS d 2 (getField (s.hreg h) f)

/-- HADV: a handle that is no ring traps with HANDLE, a ring with fields out of range with RING before every other check (R244, R359). -/
def hadvTrap (h : HReg) (tail : Bool) (k : Nat) (s : State) : Option Trap :=
  let v := s.hreg h
  if !handleOk v || hKind v != 2 then some (handleTrap 0 h)
  else if !ringOk v then some (mkTrap .ring 0 (h.setWidth 64))
  else if s.portBound h || s.namedByCopy h then some (handleTrap 0 h)
  else if s.mode == .u && (s.ctx.allCalls.any fun e => CallEntry.hd e == some h) then some (handleTrap 0 h)
  else if !tail && s.namedByCall h then some (handleTrap 0 h)
  else if (if tail then hNslot v - hFilled v else hFilled v) < k then some (mkTrap .ring 0 (h.setWidth 64))
  else none

/-- The TAIL form releases at CORE scope before its fields land. -/
def meaningHadv (h : HReg) (a : SReg) (tail : Bool) : Slot :=
  Slot.scalar [a] [] (fun vs s => hadvTrap h tail (arg vs 0).toNat s) noHold fun vs s =>
    let v := ringStep tail (arg vs 0).toNat (s.hreg h)
    let fields := Land.hadv h tail (if tail then hTail v else hHead v) (hFilled v)
    if tail then
      let s := s.flushComb
      let ids := (s.liveReqs.filter (·.reply.isNone)).map (·.id)
      (s.setRs { s.rs with wait := .requests ids }).inFlight 1 fields
    else s.inFlight 1 fields

/-- Whether a handle is quiet, as HWAIT awaits (R363). -/
def State.quiet (s : State) (h : HReg) : Bool :=
  !s.namedByCopy h
    && !(s.mode == .u && s.ctx.ports.toList.any fun p => p.bound && p.wr && p.h == h && !p.beats.isEmpty)
    && !(s.writerHandle (s.hreg h) && match s.header (hBase (s.hreg h)) with | some (_, w) => vhRead w (vhWslot w) != 0 | none => false)

def meaningHwait (h : HReg) : Slot :=
  Slot.scalar [] [] (fun _ s => s.checkHandle 0 h) noHold fun _ s => s.setRs { s.rs with wait := .hwait h s.rs.pc }

/-! ### Ports -/

/-- The traps of BIND, in the order of R329. -/
def bindTrap (p : PortNo) (h : HReg) (wr : Bool) (s : State) : Option Trap :=
  let v := s.hreg h
  let k := hKind v
  if s.mode == .s || s.ctx.ports[p.toNat].bound then some (portTrap 0 p)
  else if !handleOk v || !(k == 1 || k == 2 || k == 5 || k == 6 || k == 8) then some (handleTrap 0 h)
  else if wr && (s.ctx.ports.toList.any fun q => q.bound && q.wr && q.h == h) then some (handleTrap 0 h)
  else if hVERS v && !(if wr then s.writerHandle v && !s.vbound h else s.vbound h) then some (handleTrap 0 h)
  else ringTrap 0 h v

def meaningBind (p : PortNo) (h : HReg) (wr peek : Bool) : Slot :=
  Slot.scalar [] [] (fun _ s => bindTrap p h wr s) noHold fun _ s => s.inFlight 1 (.bindPort p h wr peek)

/-- The latest landing tick among results that `f` picks (R67). -/
def RegSet.lastDue (r : RegSet) (f : Land → Bool) : Nat := (r.flights.filter (fun x => f x.act)).foldl (fun m x => max m x.due) 0

def Land.pushes (p : PortNo) : Land → Bool
  | .push _ q _ _ _ => q == p
  | _ => false

/-- UNBIND of a port: it waits for the pushes in flight, then holds until every pushed beat is written (R330). -/
def meaningUnbindPort (p : PortNo) : Slot where
  trap s := if s.mode == .s || !s.ctx.ports[p.toNat].bound then some (portTrap 0 p) else none
  empty s := s.rs.lastDue (Land.pushes p)
  hold _ := false
  act s :=
    let s := s.inFlight 1 (.unbindPort p)
    if s.ctx.ports[p.toNat].wr then s.setRs { s.rs with wait := .portWritten p } else s

/-! ### Versioned buffers -/

/-- UNBIND of a handle: the reader's count falls by 1 and KIND becomes 0 (R164). -/
def meaningUnbindHandle (h : HReg) : Slot where
  trap s := if !s.vbound h || s.portBound h then some (handleTrap 0 h) else none
  empty _ := 0
  hold _ := false
  act s :=
    match s.bounds.find? (·.h == h) with
    | none => s
    | some b =>
      match s.translate s.ctx.csr.atp s.mode .write true b.header 8 with
      | .error f => s.found (mkBoundary f.1 0 s.rs.pc s.rs.tick (f.2.getD b.header))
      | .ok p =>
        let w := BitVec.ofNat 64 (s.numPa p.pa.toNat 8)
        let s := s.writePa p.pa.toNat (bytesOf 8 (setBits (vhKeep w) (8 * b.slot) 8 (vhRead w b.slot - 1)).toNat)
        (s.setBounds (s.bounds.filter (·.h != h))).inFlight 1 (.hfield h .kind 0)

def meaningVpub (h : HReg) (scope : Scope) : Slot where
  trap s := if handleOk (s.hreg h) && s.writerHandle (s.hreg h) then none else some (handleTrap 0 h)
  empty s :=
    (List.finRange 32).foldl (fun m i => if s.portBound h && s.ctx.ports[i].h == h && s.ctx.ports[i].wr
      then max m (s.ctx.rs.lastDue (Land.pushes (BitVec.ofFin i))) else m) 0
  hold _ := false
  act s :=
    let restart := fun (q : Port) => if q.bound && q.wr && q.h == h then { q with pos := 0 } else q
    let s := if s.mode == .u then { s with ctx := { s.ctx with ports := s.ctx.ports.map restart } } else s
    (s.send (.vpub h) (hBase (s.hreg h)) 8 .rel scope 0).await 2 (.vpub h 0)

/-- VBIND's checks at issue (R384). -/
def vbindTrap (hd hs : HReg) (s : State) : Option Trap :=
  let v := s.hreg hs
  let k := hKind v
  let shape := handleOk v && hVERS v && (hBase v).toNat % 64 == 0 && (k == 8 || (k == 1 && 2 ≤ hNslot v && hNslot v ≤ 4 && hSlotsz v != 0))
  if !shape then some (handleTrap 0 hs) else s.handleInUse hd

def meaningVbind (hd hs : HReg) (a : SReg) : Slot :=
  Slot.scalar [a] [] (fun _ s => vbindTrap hd hs s) noHold fun vs s =>
    s.setRs { s.rs with wait := .vbind hd hs (s.hreg hs) (arg vs 0 &&& 0x1FF) }

/-- Where a held VBIND stands (R164): it goes on holding, traps, or binds. -/
inductive Held
  | wait
  | trap (t : Trap)
  | done (s : State)

/-- One look of VBIND at the header. The trap names the bundle that holds it: the tick's, already issued. A register that is bound already is bound anew: the old
binding is forgotten and its slot keeps its count (log 49). -/
def State.vbindLook (s : State) (hd : HReg) (template : Handle) (sel bundle : Word) : Held :=
  let a := hBase template
  match s.translate s.ctx.csr.atp s.mode .write true a 8 with
  | .error f => .trap (mkBoundary f.1 0 bundle s.rs.tick (f.2.getD a))
  | .ok p =>
    let w := BitVec.ofNat 64 (s.numPa p.pa.toNat 8)
    let v := if sel.getLsbD 8 then vhBufver w else sel.toNat % 256
    let d := (vhBufver w + 256 - v) % 256
    if vhPub w = 0 ∨ 128 ≤ d then .wait
    else
      let n := vhNslot w
      let slot := (vhPslot w + n - d) % n
      if n ≤ d + 1 ∨ vhRead w slot = 255 then .trap (mkBoundary .vstate 0 bundle s.rs.tick (BitVec.ofNat 64 v))
      else
        let c := vhRead w slot + 1
        let s := s.writePa p.pa.toNat (bytesOf 8 (setBits (vhKeep w) (8 * slot) 8 c).toNat)
        let img := setBits (setBits template 224 8 v) 232 8 c
        let s := s.setBounds (⟨hd, a, slot⟩ :: s.bounds.filter (·.h != hd))
        .done (s.inFlight 2 (.himage hd img)).acquireL1

/-! ### One definition per instruction -/

def execHset (g : Guard) (h : HReg) (a : SReg) (f : HField) (s : State) : Host.Outcome State Fault Refusal :=
  runSlot g (meaningHset h a f) s
def execHget (g : Guard) (d : SReg) (h : HReg) (f : HField) (s : State) : Host.Outcome State Fault Refusal :=
  runSlot g (meaningHget d h f) s
def execHadvHead (g : Guard) (h : HReg) (a : SReg) (s : State) : Host.Outcome State Fault Refusal :=
  runSlot g (meaningHadv h a false) s
def execHadvTail (g : Guard) (h : HReg) (a : SReg) (s : State) : Host.Outcome State Fault Refusal :=
  runSlot g (meaningHadv h a true) s
def execHwait (g : Guard) (h : HReg) (s : State) : Host.Outcome State Fault Refusal := runSlot g (meaningHwait h) s
def execBind (g : Guard) (p : PortNo) (h : HReg) (wr peek : Bool) (s : State) : Host.Outcome State Fault Refusal :=
  runSlot g (meaningBind p h wr peek) s
def execUnbindPort (g : Guard) (p : PortNo) (s : State) : Host.Outcome State Fault Refusal := runSlot g (meaningUnbindPort p) s
def execUnbindHandle (g : Guard) (h : HReg) (s : State) : Host.Outcome State Fault Refusal := runSlot g (meaningUnbindHandle h) s
def execVpub (g : Guard) (h : HReg) (scope : Scope) (s : State) : Host.Outcome State Fault Refusal := runSlot g (meaningVpub h scope) s
def execVbind (g : Guard) (hd hs : HReg) (a : SReg) (s : State) : Host.Outcome State Fault Refusal := runSlot g (meaningVbind hd hs a) s
/-- PORT_FETCH and PORT_BEAT_WRITE (R419). -/
def execPortFetch (p : PortNo) (s : State) : Host.Outcome State Fault Refusal := .next (s.portFetch p)
def execPortBeatWrite (p : PortNo) (s : State) : Host.Outcome State Fault Refusal := .next (s.portBeatWrite p)

end Sys2Proof.Machine
end

