-- ==== Sys2Proof/Machine/Snapshots.lean ====
section
/-! DEFINITION. Snapshots and transactions (R152 to R158, R375, R379) and the steps of the slices: validation, finalising, reclaiming and
eviction (R124, R120, R150, R157, R161). In S mode a snapshot and a transaction are those of the context served (R375). -/

namespace Sys2Proof.Machine

/-! ### Snapshots -/

def vctxOf (s : State) : Word := csrValue s s.served 0x300
def txTrap (s : State) : Trap := mkTrap .txstate 0 (vctxOf s)

/-- Whether the package has room for one more live snapshot. -/
def State.snapRoom (s : State) : Bool := (s.contexts.filterMap (·.snap)).length + s.foreignSnaps.length < 1024

/-- The VSU registers a snapshot at K (R152). -/
def State.snapNow (s : State) (d : SReg) : State :=
  let k := s.completedMark
  ((s.updServed fun c => { c with snap := some k }).acquireL1).landS d 1 (BitVec.ofNat 64 k)

/-- SNAP. TVAL of the VSTATE that a bundle raises is stated for no case of SNAP or SNAPX: it is 0 (Table 12.1, log 49). -/
def meaningSnap (d : SReg) : Slot :=
  Slot.scalar [] [d]
    (fun _ s => if s.served.snap.isSome then some (mkTrap .vstate 0 0) else if s.served.txn.isSome then some (txTrap s) else none)
    noHold fun _ s => if s.snapRoom then s.snapNow d else s.setRs { s.rs with wait := .snap d }

/-- The requests that a release waits for: those of the mode that makes it, and of the other what is not withdrawn. -/
def State.unperformed (s : State) : List Nat :=
  (s.allReqs.filter fun q => q.reply.isNone && (q.mode == s.mode || !s.waits q)).map (·.id)

def meaningSnapx : Slot :=
  Slot.scalar [] [] (fun _ s => if s.served.snap.isNone then some (mkTrap .vstate 0 0) else none) noHold fun _ s =>
    let s := s.flushComb
    s.setRs { s.rs with wait := .snapx s.unperformed }

/-! ### Transactions -/

/-- TBEGIN takes a TID and its TSNAP (R155), and the number by which stores tell it from a later one of the same TID. -/
def State.tbeginNow (s : State) (d : SReg) (tid : BitVec 12) : State :=
  let t : Txn := { num := s.draws, tid := tid, tsnap := s.served.snap.getD s.completedMark, doom := none, slices := 0, lines := 0 }
  (({ s with draws := s.draws + 1 }.updServed fun c => { c with txn := some t }).acquireL1).landS d 1 (tid.setWidth 64)

def meaningTbegin (d : SReg) : Slot :=
  Slot.scalar [] [d] (fun _ s => if s.served.txn.isSome then some (txTrap s) else none) noHold fun _ s =>
    match s.freeTid with
    | some tid => s.tbeginNow d tid
    | none => s.setRs { s.rs with wait := .tbegin d }

def meaningTcommit (d : SReg) : Slot :=
  Slot.scalar [] [d] (fun _ s => if s.served.txn.isNone then some (txTrap s) else none) noHold fun _ s =>
    let s := s.flushComb
    s.setRs { s.rs with wait := .tcommit d }

/-- The transaction of the context served ends with a cause and lands it (R157). -/
def State.tcommitLand (s : State) (d : SReg) (cause : BitVec 8) (stamp : Nat) : State :=
  ((s.updServed fun c => { c with txn := none, commit := none, csr := { c.csr with txc := BitVec.ofNat 64 stamp } }).acquireL1).landS
    d 1 (cause.setWidth 64)

/-- A held TCOMMIT goes on (R157): its release, the stamp, and the outcome once every slice has finalised. None while it must wait. -/
def State.tcommitLook (s : State) (d : SReg) : Option State :=
  match s.served.txn, s.served.commit with
  | none, _ => some s
  | some t, none =>
    if !s.unperformed.isEmpty || !s.comb.isEmpty then none
    else match t.doom with
      | some c => some (s.tcommitLand d c 0)
      | none => if t.slices = 0 then some ({ s with vsuLast := s.vsuLast + 1 }.tcommitLand d 0 (s.vsuLast + 1)) else none
  | some _, some c =>
    if c.toValidate.isEmpty && c.toFinalise.isEmpty then some (s.tcommitLand d (if c.abort then 1 else 0) (if c.abort then 0 else c.stamp))
    else none

/-- A held TCOMMIT whose release is performed takes its stamp and sends its validations. -/
def State.tcommitSend (s : State) : State :=
  match s.served.txn, s.served.commit with
  | some t, none =>
    if s.unperformed.isEmpty && s.comb.isEmpty && t.doom.isNone && t.slices != 0 then
      let c := s.vsuLast + 1
      { s with vsuLast := c, vsuOpen := c :: s.vsuOpen }.updServed fun x =>
        { x with commit := some { stamp := c, toValidate := maskSlices t.slices, toFinalise := maskSlices t.slices, abort := false } }
    else s
  | _, _ => s

/-- TABORT (R158): the tentative entries go, TXC is 0, the TID is free. Of a transaction whose validations were sent it ends nothing: the votes alone decide
(R157, Table 7.3). -/
def meaningTabort : Slot :=
  Slot.scalar [] [] (fun _ s => if s.served.txn.isNone then some (txTrap s) else none) noHold fun _ s =>
    match s.served.txn, s.served.commit with
    | none, _ | some _, some _ => s
    | some t, none => (s.discardTid t.tid).updServed fun c => { c with txn := none, csr := { c.csr with txc := 0 } }

/-! ### VALIDATE and FINALISE -/

/-- A slice answers a validation of one transaction. -/
def State.validateAt (s : State) (slice : Nat) (tid : BitVec 12) (tsnap : Nat) (c : Commit) : Option (State × Commit) :=
  match s.validateLines tid tsnap c.stamp (s.linesOf tid slice) with
  | none => none
  | some (t, ok) => some (t, { c with toValidate := c.toValidate.filter (· != slice), abort := c.abort || !ok })

/-- A slice finalises one transaction; with the last slice its stamp is complete. -/
def State.finaliseAt (s : State) (slice : Nat) (tid : BitVec 12) (c : Commit) : State × Commit :=
  let t := s.finaliseLines tid c.stamp (!c.abort) (s.linesOf tid slice)
  let rest := c.toFinalise.filter (· != slice)
  ({ t with vsuOpen := if rest.isEmpty then t.vsuOpen.filter (· != c.stamp) else t.vsuOpen }, { c with toFinalise := rest })

def Commit.validates (c : Commit) (slice : Nat) : Bool := c.toValidate.contains slice
def Commit.finalises (c : Commit) (slice : Nat) : Bool := c.toValidate.isEmpty && c.toFinalise.contains slice

/-- The first validation that waits at a slice and need not wait for a lock there is answered. -/
def State.validate (s : State) (slice : Nat) : State :=
  let own := s.contexts.findSome? fun x => match x.txn, x.commit with
    | some t, some c => if c.validates slice then
        (s.validateAt slice t.tid t.tsnap c).map fun r => r.1.updCtx x.id fun x => { x with commit := some r.2 }
      else none
    | _, _ => none
  let foreign := s.foreignCommits.findSome? fun x => if x.2.validates slice then
      (s.foreignTxns.find? (·.tid == x.1)).bind fun f => (s.validateAt slice x.1 f.tsnap x.2).map fun r =>
        { r.1 with foreignCommits := updFirst (·.1 == x.1) (fun _ => (x.1, r.2)) r.1.foreignCommits }
    else none
  (own.or foreign).getD s

def State.finalise (s : State) (slice : Nat) : State :=
  match s.contexts.find? (fun c => c.commit.any (·.finalises slice)) with
  | some x => match x.txn, x.commit with
    | some t, some c =>
      let (s', c') := s.finaliseAt slice t.tid c
      s'.updCtx x.id fun x => { x with commit := some c' }
    | _, _ => s
  | none => match s.foreignCommits.find? (·.2.finalises slice) with
    | some (tid, c) =>
      let (s', c') := s.finaliseAt slice tid c
      if c'.toFinalise.isEmpty then
        { s' with foreignCommits := s'.foreignCommits.filter (·.1 != tid), foreignTxns := s'.foreignTxns.filter (·.tid != tid) }
      else { s' with foreignCommits := updFirst (·.1 == tid) (fun _ => (tid, c')) s'.foreignCommits }
    | none => s

/-! ### The slices' own steps -/

/-- MUCKER_RECLAIM: every line gives up what R161 allows. -/
def State.mucker (s : State) : State := (s.chains.map (·.line.toNat)).foldl State.reclaimLine s

/-- SLICE_EVICT: a counted line is written back and becomes ordinary (R124); a versioned line's newest committed entry stands in memory
already. -/
def State.sliceEvict (s : State) (line : Nat) : State := s.uncount line

/-- OWNED_WORD_EVICTION: an owned word leaves the L1; its value stands in memory (R120). -/
def State.wordEvict (s : State) (pa : Nat) : State := { s with l1 := s.l1.filter fun w => !(w.owned && w.addr.toNat == pa) }

/-! ### One definition per instruction -/

def execSnap (g : Guard) (d : SReg) (s : State) : Host.Outcome State Fault Refusal := runSlot g (meaningSnap d) s
def execSnapx (g : Guard) (s : State) : Host.Outcome State Fault Refusal := runSlot g meaningSnapx s
def execTbegin (g : Guard) (d : SReg) (s : State) : Host.Outcome State Fault Refusal := runSlot g (meaningTbegin d) s
def execTcommit (g : Guard) (d : SReg) (s : State) : Host.Outcome State Fault Refusal := runSlot g (meaningTcommit d) s
def execTabort (g : Guard) (s : State) : Host.Outcome State Fault Refusal := runSlot g meaningTabort s
def execValidate (slice : BitVec 7) (s : State) : Host.Outcome State Fault Refusal := .next (s.validate slice.toNat)
def execFinalise (slice : BitVec 7) (s : State) : Host.Outcome State Fault Refusal := .next (s.finalise slice.toNat)
def execMuckerReclaim (s : State) : Host.Outcome State Fault Refusal := .next s.mucker
def execSliceEvict (line : BitVec 40) (s : State) : Host.Outcome State Fault Refusal := .next (s.sliceEvict line.toNat)
def execOwnedWordEviction (pa : BitVec 40) (s : State) : Host.Outcome State Fault Refusal := .next (s.wordEvict pa.toNat)

end Sys2Proof.Machine
end

