-- ==== Sys2Proof/Machine/Matrix.lean ====
section
/-! DEFINITION. The matrix unit (chapter 8): parameter registers, the micro-store, accumulator regions, calls, micro-words, drains and the
tree mask. The unit works on the running context with its address space and U rights, also while the core is held. -/

namespace Sys2Proof.Machine

/-! ### Engine accesses of the running context -/

def State.mxSpan (s : State) (acc : Acc) (va : Word) (n : Nat) : Except EngFail (List (Pa × Nat)) := s.span s.ctx.csr.atp .u acc va n

/-- Read bytes for the unit. -/
def State.mxRead (s : State) (va : Word) (n : Nat) : Except EngFail (List Byte × State) :=
  match s.mxSpan .read va n with
  | .error f => .error f
  | .ok ps => .ok (s.readPieces s.ctx.copyView ps)

/-- Whether `n` bytes at an address stand in the context's own SPM (R174, R188). -/
def State.inOwnSpm (s : State) (va : Word) (n : Nat) : Bool :=
  match s.mxSpan .read va (max n 1) with
  | .error _ => false
  | .ok ps => ps.all fun (p, _) => match placeOf p.pa.toNat with
    | .window core off => (match winPart off with
      | .spm _ => core == s.coreNum.toNat
      | _ => false)
    | _ => false

/-- The trap of an own-SPM operand: TFAULT above 2^48 (R104), else PROT where a byte stands elsewhere. -/
def State.ownSpmTrap (s : State) (va : Word) (n : Nat) : Option Trap :=
  if va.extractLsb' 48 16 ≠ (0 : BitVec 16) then some (mkTrap .tfault 0 va)
  else if s.inOwnSpm va n then none else some (mkTrap .prot 0 va)

/-! ### The micro-store (R169 to R171) -/

/-- LEN and BASE of a routine. -/
def Ctx.routineLen (c : Ctx) (r : Nat) : Nat := ((c.microTable.getD r 0).extractLsb' 12 9).toNat
def Ctx.routineBase (c : Ctx) (r : Nat) : Nat := ((c.microTable.getD r 0).extractLsb' 0 12).toNat
/-- Word `o` of a routine. -/
def Ctx.microWord (c : Ctx) (r o : Nat) : BitVec 64 := c.microWords.getD (c.routineBase r + o) 0
def Ctx.routineWords (c : Ctx) (r : Nat) : List (BitVec 64) := (List.range (c.routineLen r)).map (c.microWord r)

/-- The 32-bit entries and 64-bit words of a run of bytes. -/
def wordsAt (w : Nat) (bs : List Byte) (n : Nat) : List Nat := lanesOf (8 * w) n (natOf bs)

/-- The check of one routine entry against NW (R169, R170). -/
def entryOk (nw : Nat) (e : BitVec 32) : Bool :=
  let len := (e.extractLsb' 12 9).toNat
  e.extractLsb' 21 11 == (0 : BitVec 11) && decide (len ≤ 256) && (len == 0 || decide ((e.extractLsb' 0 12).toNat + len ≤ nw))

/-- Why a micro-image is not loaded: a failed read, or a broken rule. -/
inductive ImageFail
  | access (f : EngFail)
  | micro
  deriving DecidableEq, Repr

/-- Read and check a micro-image in an address space: the table, the words, NW. -/
def State.readImage (s : State) (atp sa : Word) : Except ImageFail (List (BitVec 32) × List (BitVec 64)) :=
  match s.span atp .u .read sa 1032 with
  | .error f => .error (.access f)
  | .ok ps =>
    let hd := (s.readPieces none ps).1
    let w0 := natOf (hd.take 8)
    let nw := w0 % 8192
    let table := (wordsAt 4 (hd.drop 8) 256).map (BitVec.ofNat 32)
    if 8192 ≤ w0 ∨ 4096 < nw ∨ !(table.all (entryOk nw)) then .error .micro
    else match s.span atp .u .read (sa + 1032) (8 * nw) with
      | .error f => .error (.access f)
      | .ok qs => .ok (table, (wordsAt 8 (s.readPieces none qs).1 nw).map (BitVec.ofNat 64))

/-- MSIMG for an image of `nw` words at `sa` (Table 8.2). -/
def msimgOf (sa : Word) (nw : Nat) : Word := BitVec.ofNat 64 (nw % 8192 * 2 ^ 48 + sa.toNat % 2 ^ 48)

/-- The store of the running context takes an image. -/
def State.storeImage (s : State) (sa : Word) (img : List (BitVec 32) × List (BitVec 64)) : State :=
  { s with microTag := s.ctx.kernel,
           ctx := { s.ctx with microTable := img.1, microWords := img.2, csr := { s.ctx.csr with msimg := msimgOf sa img.2.length } } }

/-! ### Micro-words (Table 8.3) -/

abbrev mwOp (w : BitVec 64) : Nat := (w.extractLsb' 60 4).toNat
abbrev mwAsrc (w : BitVec 64) : Nat := (w.extractLsb' 57 3).toNat
abbrev mwBsrc (w : BitVec 64) : Nat := (w.extractLsb' 54 3).toNat
def mwCount (w : BitVec 64) : Nat := let c := (w.extractLsb' 46 8).toNat; if c = 0 then 256 else c
abbrev mwAccsel (w : BitVec 64) : Nat := (w.extractLsb' 42 4).toNat
abbrev mwCodew (w : BitVec 64) : Nat := (w.extractLsb' 40 2).toNat
abbrev mwAtype (w : BitVec 64) : Nat := (w.extractLsb' 38 2).toNat
abbrev mwNext (w : BitVec 64) : Nat := (w.extractLsb' 30 8).toNat
abbrev mwLoop (w : BitVec 64) : Nat := (w.extractLsb' 27 3).toNat
abbrev mwPopA (w : BitVec 64) : Bool := w.getLsbD 26
abbrev mwPopB (w : BitVec 64) : Bool := w.getLsbD 25
abbrev mwDrain (w : BitVec 64) : Bool := w.getLsbD 24
abbrev mwBump (w : BitVec 64) : Bool := w.getLsbD 23
abbrev mwEnd (w : BitVec 64) : Bool := w.getLsbD 22
/-- Whether the cell operation reads operands (Table 8.4). -/
def mwReads (w : BitVec 64) : Bool := mwOp w ≤ 4

/-- The format of ATYPE. -/
def atypeFmt (t : Nat) : FFmt := if t = 0 then fmtE4M3 else if t = 1 then fmtE5M2 else if t = 2 then fmtBF16 else fmtF16
/-- Bytes of an element of ATYPE. -/
def atypeBytes (t : Nat) : Nat := if t < 2 then 1 else 2

/-- Twice kt, the K elements a cell advances in a matrix tick (Table 1.3). -/
def kt2 (codew atype : Nat) : Nat :=
  let fp8 := decide (atype < 2)
  match codew with
  | 0 => if fp8 then 4 else 1
  | 1 => if fp8 then 16 else 8
  | 2 => if fp8 then 8 else 4
  | _ => if fp8 then 4 else 2

/-- Blocks of K that a word covers, if it is a whole number of at least 1 (R173). -/
def mwBlocks (w : BitVec 64) : Option Nat :=
  let n := mwCount w * kt2 (mwCodew w) (mwAtype w)
  if n % 128 = 0 ∧ 128 ≤ n then some (n / 128) else none

/-- Delivered width in bits of width codes 1 to 3. -/
def codeBits (c : Nat) : Nat := 2 ^ c

/-! ### Parameters (Table 8.1) -/

def CallEntry.mps (e : CallEntry) : Vector Word 8 :=
  match e with
  | .call _ _ _ _ _ _ mp _ _ _ _ _ => mp
  | .mask .. => Vector.replicate 8 0
def CallEntry.regionNo (e : CallEntry) : BitVec 3 :=
  match e with
  | .call _ _ r _ _ _ _ _ _ _ _ _ => r
  | .mask .. => 0
def CallEntry.isCall (e : CallEntry) : Bool :=
  match e with
  | .call .. => true
  | .mask .. => false
def CallEntry.origin (e : CallEntry) : Word × Nat :=
  match e with
  | .call _ _ _ _ _ _ _ _ _ b t _ => (b, t)
  | .mask _ _ b t => (b, t)
def CallEntry.flags (e : CallEntry) : Bool × Bool :=
  match e with
  | .call _ _ _ p b _ _ _ _ _ _ _ => (p, b)
  | .mask .. => (false, false)
/-- The entry with nothing left to do at its end. -/
def CallEntry.stripped (e : CallEntry) : CallEntry :=
  match e with
  | .call r x k _ _ i mp n h b t o => .call r x k false false i mp n h b t o
  | .mask a b c t => .mask a b c t

/-- The entry's place among the requests; a mask load writes no memory. -/
def CallEntry.order (e : CallEntry) : Nat :=
  match e with
  | .call _ _ _ _ _ _ _ _ _ _ _ o => o
  | .mask .. => 0

def hregOf (mp : Word) : HReg := mp.extractLsb' 0 5
def mRows (mp : Vector Word 8) : Nat := let n := (mp[4].extractLsb' 0 8).toNat; if n = 0 then 128 else n
def mCols (mp : Vector Word 8) : Nat := let n := (mp[4].extractLsb' 8 8).toNat; if n = 0 then 160 else n
def mClr (mp : Vector Word 8) : Bool := mp[5].getLsbD 8
def mRsa (mp : Vector Word 8) : Word := (mp[7].extractLsb' 0 48).setWidth 64
def mCnt (mp : Vector Word 8) (n : Nat) : Nat := (mp[6].extractLsb' (8 * n) 8).toNat

/-- The handle register of A and of B. -/
def mHA (mp : Vector Word 8) (w : BitVec 64) : HReg := hregOf (if mwAsrc w = 0 then mp[0] else mp[1])
def mHB (mp : Vector Word 8) (w : BitVec 64) : HReg := hregOf (if mwBsrc w = 3 then mp[3] else mp[2])

/-- The handle registers a call names (R168), from the words of its routine. -/
def namedOf (words : List (BitVec 64)) (pop : Bool) (mp : Vector Word 8) : List HReg :=
  let uses := fun (f : BitVec 64 → Bool) => words.any fun w => mwReads w && f w
  (if pop || uses (fun w => mwAsrc w == 0) then [hregOf mp[0]] else []) ++
  (if uses (fun w => mwAsrc w == 1) then [hregOf mp[1]] else []) ++
  (if uses (fun w => mwBsrc w == 2 || mwBsrc w == 4) then [hregOf mp[2]] else []) ++
  (if uses (fun w => mwBsrc w == 3) then [hregOf mp[3]] else []) ++
  (if words.any (fun w => mwDrain w) then [hregOf mp[5]] else [])

/-! ### Traps of the unit (R187) -/

/-- The state of the unit after a trap found for the running call: the queue is discarded; drains of retired words go on. -/
def State.endCall (s : State) (drains : List Drain) : State :=
  let left := if drains.isEmpty then none
    else s.ctx.running.map fun (r : Running) => { r with entry := r.entry.stripped, ended := true, drains := drains }
  { s with ctx := { s.ctx with calls := [], running := left } }

def microVal (routine off : Nat) : Word := BitVec.ofNat 64 (256 * routine + off)

/-- Whether matrix ticks stop: a droop stretch stretches the core's clock (R166, R273). -/
def State.matrixStopped (s : State) : Bool := s.power.droop

/-- A trap of entry `e`: TBADDR and TTICK name the MCALL or MASKLD. -/
def State.matrixTrap (s : State) (e : CallEntry) (drains : List Drain) (f : Cause × Word) : State :=
  (s.endCall drains).pend (mkBoundary f.1 3 e.origin.1 e.origin.2 f.2)

/-- A read of the unit has failed. -/
def State.matrixFail (s : State) (e : CallEntry) (drains : List Drain) (f : EngFail) : State :=
  (s.engFailed s.ctx.csr.atp f).matrixTrap e drains (f.cause, s.failTval s.ctx.csr.atp f)

/-! ### Regions -/

def Ctx.region (c : Ctx) (k : BitVec 3) : Option Region := c.regions[k.toNat]
/-- The context's banks that no region holds, lowest first (R181). -/
def Ctx.freeBanks (c : Ctx) : List Nat := c.acmBanks.filter fun b => !c.bankHeld b

/-- Whether a queued or running call names a region. -/
def Ctx.callNames (c : Ctx) (k : BitVec 3) : Bool := c.allCalls.any fun e => e.isCall && e.regionNo == k

def Ctx.bumpRegion (c : Ctx) (k : BitVec 3) (n : Nat) : Ctx :=
  { c with regions := c.regions.set k.toNat ((c.region k).map fun (r : Region) => { r with version := r.version + BitVec.ofNat 8 n }) }

def acmTrap (k : BitVec 3) : Trap := mkTrap .acm 0 (k.setWidth 64)
/-- Matrix state is not part of the supervisor's set: an S-mode access is a double trap (R246). -/
def sMatrixTrap (s : State) (slot : BitVec 3) : Option Trap :=
  match s.mode with
  | .s => some (mkTrap .micro slot 0)
  | .u => none

def meaningMpset (n : BitVec 3) (a : SReg) : Slot :=
  Slot.scalar [a] [] (fun _ s => sMatrixTrap s 0) noHold fun vs s => s.inFlight 1 (.mp n (arg vs 0))

/-- ACQ holds while a call names the region; only then are its traps looked for (R318). -/
def meaningAcq (k : BitVec 3) (a : SReg) : Slot :=
  Slot.scalar [a] []
    (fun vs s => match sMatrixTrap s 0 with
      | some t => some t
      | none =>
        let n := (arg vs 0).toNat
        if s.ctx.callNames k then none
        else if n = 0 ∨ 24 < n ∨ (s.ctx.region k).isSome ∨ s.ctx.freeBanks.length < n then some (acmTrap k) else none)
    (fun _ s => s.ctx.callNames k)
    fun vs s => s.inFlight 1 (.acquireBanks k (s.ctx.freeBanks.take (arg vs 0).toNat))

/-- A region that is not allocated traps with ACM. -/
def unallocTrap (k : BitVec 3) (s : State) : Option Trap :=
  match sMatrixTrap s 0 with
  | some t => some t
  | none => if (s.ctx.region k).isNone then some (acmTrap k) else none

def meaningArel (k : BitVec 3) : Slot :=
  Slot.scalar [] [] (fun _ s => unallocTrap k s) (fun _ s => s.ctx.callNames k) fun _ s =>
    { s with ctx := { s.ctx with regions := s.ctx.regions.set k.toNat none } }

def Ctx.version (c : Ctx) (k : BitVec 3) : BitVec 8 := match c.region k with | some r => r.version | none => 0

def meaningAverRead (d : SReg) (k : BitVec 3) : Slot :=
  Slot.scalar [] [d] (fun _ s => unallocTrap k s) noHold fun _ s => s.landS d 2 ((s.ctx.version k).setWidth 64)

def meaningAverWait (k : BitVec 3) (v : BitVec 8) : Slot :=
  Slot.scalar [] [] (fun _ s => unallocTrap k s) (fun _ s => s.ctx.version k != v) fun _ s => s.acquireL1

/-! ### MLOAD, MASKLD and MCALL -/

/-- The store takes the image at the address in the first operand. -/
def State.mloadNow (s : State) (vs : List Word) : State :=
  match s.readImage s.ctx.csr.atp (arg vs 0) with
  | .ok img => s.storeImage (arg vs 0) img
  | .error _ => s

/-- MLOAD holds until no call is queued or runs, then checks and loads (R170). A failed read names the MLOAD, which has not issued. -/
def meaningMload (a : SReg) : Slot :=
  Slot.scalar [a] []
    (fun vs s => match sMatrixTrap s 0 with
      | some t => some t
      | none =>
        let sa := arg vs 0
        if s.ctx.callCount ≠ 0 then none
        else if sa.toNat % 64 ≠ 0 then some (mkTrap .align 0 sa)
        else match s.readImage s.ctx.csr.atp sa with
          | .error .micro => some (mkTrap .micro 0 0)
          | .error (.access f) => some (mkBoundary f.cause 0 s.rs.pc s.rs.tick (s.failTval s.ctx.csr.atp f))
          | .ok _ => none)
    (fun _ s => s.ctx.callCount != 0)
    fun vs s => s.mloadNow vs

/-- The traps of MASKLD at issue (R188). -/
def maskldTrap (sa sb : Word) (i : Instr) (s : State) : Option Trap :=
  if sb.toNat / 2 ^ 10 ≠ 0 ∨ sb.toNat / 2 ^ 4 % 16 ≠ 0 ∨ 3 < sb.toNat / 2 % 8 then some (illopOf 0 i)
  else if sa.extractLsb' 48 16 ≠ (0 : BitVec 16) then some (mkTrap .tfault 0 sa)
  else if sa.toNat % 64 ≠ 0 then some (mkTrap .align 0 sa)
  else s.ownSpmTrap sa 512

def Ctx.pushCall (c : Ctx) (e : CallEntry) : Ctx := { c with calls := c.calls ++ [e] }

def callQueueDepth : Nat := 4

def meaningMaskld (a b : SReg) (i : Instr) : Slot :=
  Slot.scalar [a, b] []
    (fun vs s => match sMatrixTrap s 0 with | some t => some t | none => maskldTrap (arg vs 0) (arg vs 1) i s)
    (fun _ s => decide (callQueueDepth ≤ s.ctx.callCount))
    fun vs s => { s with ctx := s.ctx.pushCall (.mask (arg vs 0) (arg vs 1) s.rs.pc s.rs.tick) }

/-- MCALL: RING for a ring that the call names and R244 excludes; the other checks are the unit's. -/
def meaningMcall (routine expected : BitVec 8) (region : BitVec 3) (pop bump ignv : Bool) : Slot where
  trap s :=
    match sMatrixTrap s 3 with
    | some t => some t
    | none => (namedOf (s.ctx.routineWords routine.toNat) pop s.ctx.mp).findSome? fun h => ringTrap 3 h (s.hreg h)
  empty _ := 0
  hold s := callQueueDepth ≤ s.ctx.callCount
  act s :=
    let words := s.ctx.routineWords routine.toNat
    let e : CallEntry := .call routine expected region pop bump ignv s.ctx.mp (namedOf words pop s.ctx.mp)
      (if words.any (fun w => mwDrain w) then some (hregOf s.ctx.mp[5]) else none) s.rs.pc s.rs.tick s.seq
    { s with ctx := s.ctx.pushCall e }

/-! ### The queue's head (R185) -/

/-- CALL_START: the region, then the routine, then the version. -/
def State.callStart (s : State) : State :=
  match s.ctx.running, s.ctx.calls with
  | none, e :: es =>
    match e with
    | .mask .. => s
    | .call routine expected k _ _ ignv mp _ _ _ _ _ =>
      match s.ctx.region k with
      | none => s.matrixTrap e [] (.acm, k.setWidth 64)
      | some r =>
        if s.ctx.routineLen routine.toNat = 0 then s.matrixTrap e [] (.micro, microVal routine.toNat 0)
        else if ignv || r.version == expected then
          let run : Running :=
            { entry := e, cnt := Vector.ofFn (fun i => mCnt mp i.val), off := 0, stage := .waiting, drains := [], ended := false }
          { s with ctx := { s.ctx with calls := es, running := some run } }
        else s
  | _, _ => s

/-- Rows of the mask tile with a bitmap written in. -/
def maskWrite (tile : Vector (BitVec 160) 128) (sb : Word) (bits : List Byte) : Vector (BitVec 160) 128 :=
  let row0 := 64 * (sb.toNat % 2)
  let col0 := 32 * (sb.toNat / 2 % 8)
  Vector.ofFn fun (r : Fin 128) =>
    let old := if sb.getLsbD 8 then BitVec.allOnes 160 else tile[r]
    if row0 ≤ r.val ∧ r.val < row0 + 64 then setBits old col0 64 (natOf ((bits.drop (8 * (r.val - row0))).take 8)) else old

/-- MASK_LOAD: at the head of the queue, once the granules it asks for are full. -/
def State.maskLoad (s : State) : State :=
  match s.ctx.running, s.ctx.calls with
  | none, e :: es =>
    match e with
    | .call .. => s
    | .mask sa sb _ _ =>
      match s.mxSpan .read sa 512 with
      | .error f => s.matrixFail e [] f
      | .ok ps =>
        if sb.getLsbD 9 && !s.piecesFull ps then s
        else
          let (bs, s) := s.readPieces none ps
          { s with ctx := { s.ctx with calls := es, maskTile := maskWrite s.ctx.maskTile sb bs } }
  | _, _ => s

/-! ### Starting a word -/

/-- Bands of a tile of `m` rows. -/
def bandsOf (accsel m : Nat) : List Nat := (List.range ((m + 15) / 16)).map (accsel + ·)

/-- The checks of a word on its own fields and on the captured parameters (R167, R172 to R174). -/
def wordMicro (mp : Vector Word 8) (w : BitVec 64) : Bool :=
  let reads := mwReads w
  w.extractLsb' 0 22 != (0 : BitVec 22) || 8 ≤ mwOp w
    || mp[4].extractLsb' 16 48 != (0 : BitVec 48) || 128 < mRows mp || 160 < mCols mp
    || (mwDrain w && (mp[5].extractLsb' 9 55 != (0 : BitVec 55) || mp[5].extractLsb' 5 3 != (0 : BitVec 3)))
    || (mwOp w == 6 && mp[7].extractLsb' 48 16 != (0 : BitVec 16))
    || (!reads && (mwPopA w || mwPopB w))
    || (reads && (2 ≤ mwAsrc w || 5 ≤ mwBsrc w
        || (mwCodew w != 0 && 2 ≤ mwBsrc w) || (mwCodew w == 0 && mwBsrc w < 2)
        || (mwOp w == 1 && mwCodew w != 0)
        || (mwBlocks w).isNone
        || (if mwAsrc w = 0 then mp[0] else mp[1]).extractLsb' 5 59 != (0 : BitVec 59)
        || (2 ≤ mwBsrc w && (if mwBsrc w = 3 then mp[3] else mp[2]).extractLsb' 5 59 != (0 : BitVec 59))))

/-- Bytes of an A block, of a B block (R176). -/
def aBlockBytes (t : Nat) : Nat := 128 * 64 * atypeBytes t
def bBlockBytes (t : Nat) : Nat := 160 * 64 * atypeBytes t

/-- The check of a ring operand: HANDLE, then the slot's size. -/
def ringOperand (s : State) (h : HReg) (bytes : Nat) : Option (Cause × Bool) :=
  let v := s.ctx.rs.h[h.toNat]
  if !handleOk v || hKind v != 2 then some (.handle, false)
  else if 64 * hSlotsz v < bytes then some (.micro, true) else none

/-- The weight buffer a word reads. -/
def Ctx.wb (c : Ctx) (one : Bool) : List WbEntry := if one then c.wb1 else c.wb0

/-- What a word finds as it tries to start (R172 to R174, R176, R177). -/
inductive WordLook
  | trap (f : Cause × Word)
  | wait
  | go (nb : Nat)
  deriving DecidableEq, Repr

/-- The look at the operands that are read. -/
def State.operandLook (s : State) (mp : Vector Word 8) (w : BitVec 64) (micro : Word) (nb : Nat) : WordLook :=
  let ha := mHA mp w
  let hb := mHB mp w
  let needA := if mwPopA w then nb else 1
  let needB := if mwPopB w then nb else 1
  let bRing := decide (2 ≤ mwBsrc w)
  match ringOperand s ha (aBlockBytes (mwAtype w)) with
  | some (c, m) => .trap (c, if m then micro else ha.setWidth 64)
  | none => match (if bRing then ringOperand s hb (bBlockBytes (mwAtype w)) else none) with
    | some (c, m) => .trap (c, if m then micro else hb.setWidth 64)
    | none =>
      if hFilled s.ctx.rs.h[ha.toNat] < needA then .wait
      else if bRing then (if hFilled s.ctx.rs.h[hb.toNat] < needB then .wait else .go nb)
      else
        let es := s.ctx.wb (mwBsrc w == 1)
        if (es.take needB).any (fun e => decide (e.width.toNat < mwCodew w)) then .trap (.micro, micro)
        else if es.length < needB then .wait else .go nb

/-- The whole look at a word that tries to start. -/
def State.wordLook (s : State) (r : Running) (w : BitVec 64) : WordLook :=
  let mp := r.entry.mps
  let k := r.entry.regionNo
  let micro := microVal r.entry.routineNo r.off
  let bands := bandsOf (mwAccsel w) (mRows mp)
  let held := match s.ctx.region k with | some g => g.banks.length | none => 0
  let unread := r.drains.flatMap fun d => (bandsOf d.accsel (mRows mp)).drop (d.nextRow / 16)
  let free := fun (l : WordLook) => match l with
    | .go n => if bands.any unread.contains then .wait else .go n
    | l => l
  if wordMicro mp w then .trap (.micro, micro)
  else if bands.any (fun b => decide (held ≤ b)) then .trap (.acm, k.setWidth 64)
  else if mwReads w then free (s.operandLook mp w micro ((mwBlocks w).getD 1))
  else if mwOp w = 6 then
    if (mRsa mp).toNat % 64 ≠ 0 then .trap (.align, mRsa mp)
    else if s.inOwnSpm (mRsa mp) 512 then free (.go 0) else .trap (.prot, mRsa mp)
  else free (.go 0)

/-! ### Operands of the cell operations -/

/-- An operand element: padded or its value, and its block scale. -/
structure BElem where
  pad : Bool
  val : FV
  scale : Option (Nat × Nat)

/-- Element `i` of packed elements of `w` bits. -/
def laneAt (w n i : Nat) : Nat := n / 2 ^ (w * i) % 2 ^ w

/-- Element (m, k) of an A block, or (n, k) of a plain B block. -/
def plainElem (t blk row k : Nat) : FV := (atypeFmt t).decode (laneAt (8 * atypeBytes t) blk (64 * row + k))

/-- Element (k, n) of a transposed B block. -/
def transElem (t blk k n : Nat) : FV := (atypeFmt t).decode (laneAt (8 * atypeBytes t) blk (160 * k + n))

/-- Element (n, k) of a weight-buffer entry read at width code `codew`. -/
def wbElem (e : WbEntry) (codew n k : Nat) : BElem :=
  let code := laneAt 8 e.codes.toNat (64 * n + k) / 2 ^ (codeBits e.width.toNat - codeBits codew)
  { pad := decide (e.rows ≤ n) || decide (e.ks ≤ k), val := codeValue (codeBits codew) code,
    scale := some (laneAt 8 e.scales.toNat n, laneAt 32 e.supers.toNat n) }

/-- The operands of one block. -/
structure Block where
  a : Nat → Nat → FV
  b : Nat → Nat → BElem

/-- The products of a cell in a block. -/
def Block.products (b : Block) (m n : Nat) : List FV :=
  (List.range 64).map fun k => let e := b.b n k; dotProd e.pad e.val (b.a m k)

/-- The absolute differences of ADMAC. -/
def Block.diffs (b : Block) (m n : Nat) : List FV :=
  (List.range 64).map fun k => (FV.add false (b.a m k) (b.b n k).val.neg).1.abs

/-- One product as CSMAX and CSMIN take it: scaled where B is a code, rounded once. -/
def scaledProduct (e : BElem) (a : FV) : Nat :=
  if e.pad then 0
  else
    let p := (FV.mul e.val a).1
    let v := match e.scale with
      | none => p
      | some (c, s) => (FV.mul p (FV.mul (.fin false (c + 1) (-8)) (fmtF32.decode s)).1).1
    (roundTo fmtF32 false .rne v).1

def Block.scale (b : Block) (n : Nat) : Option (Nat × Nat) := (b.b n 0).scale

/-- The effect of one block on an accumulator (Table 8.4). -/
def Block.step (op : Nat) (b : Block) (m n acc : Nat) : Nat :=
  match op with
  | 0 | 4 => accAdd acc (blockTerm (blockSum (b.products m n)) (b.scale n))
  | 1 => accAdd acc (blockTerm (blockSum (b.diffs m n)) none)
  | 2 => (List.range 64).foldl (fun acc k => (fpPick fmtF32 false true acc (scaledProduct (b.b n k) (b.a m k))).1) acc
  | _ => (List.range 64).foldl (fun acc k => (fpPick fmtF32 false false acc (scaledProduct (b.b n k) (b.a m k))).1) acc

/-- −∞ in FP32. -/
def negInf32 : Nat := 0xFF800000

/-- The value an operation leaves in cell (m, n). -/
def cellValue (op : Nat) (blocks : List Block) (mask : Bool) (sm m n acc : Nat) : Nat :=
  match op with
  | 5 => if mask then acc else negInf32
  | 6 => (fpMul fmtF32 false .rne acc sm).1
  | 7 => 0
  | _ => blocks.foldl (fun acc b => b.step op m n acc) (if op = 4 then 0 else acc)

/-- The ACM offset of tile cell (m, n) of a word. -/
def cellOffset (banks : List Nat) (accsel m n : Nat) : Nat := acmBankBytes * banks.getD (accsel + m / 16) 0 + 4 * (160 * (m % 16) + n)

/-- Apply an operation to every active cell. -/
def cellsGo (f : Nat → Nat → Nat → Nat) (off : Nat → Nat → Nat) (acm : Mem) : List (Nat × Nat) → Mem
  | [] => acm
  | (m, n) :: cs => cellsGo f off (Memory.setNum acm (off m n) 4 (f m n (Memory.num acm (off m n) 4))) cs

/-- The active cells. -/
def activeCells (mp : Vector Word 8) : List (Nat × Nat) :=
  (List.range (mRows mp)).flatMap fun m => (List.range (mCols mp)).map fun n => (m, n)

/-- Read block `i` of a ring: the slot at HEAD, or HEAD + i. -/
def State.ringBlock (s : State) (h : HReg) (pop : Bool) (i bytes : Nat) : Except EngFail (Nat × State) :=
  let v := s.ctx.rs.h[h.toNat]
  let n := if hNslot v = 0 then 1 else hNslot v
  match s.mxRead (slotBase v ((hHead v + (if pop then i else 0)) % n)) bytes with
  | .error f => .error f
  | .ok (bs, s) => .ok (natOf bs, s)

/-- Read the operands of blocks `i`, `i` + 1 and so on. -/
def State.wordBlocks (s : State) (mp : Vector Word 8) (w : BitVec 64) (i : Nat) : Nat → Except EngFail (List Block × State)
  | 0 => .ok ([], s)
  | k + 1 =>
    let t := mwAtype w
    match s.ringBlock (mHA mp w) (mwPopA w) i (mRows mp * 64 * atypeBytes t) with
    | .error f => .error f
    | .ok (a, s) =>
      let b : Except EngFail ((Nat → Nat → BElem) × State) :=
        if mwBsrc w < 2 then
          let e := (s.ctx.wb (mwBsrc w == 1)).getD (if mwPopB w then i else 0) ⟨0, 0, 0, 0, 0, 0⟩
          .ok (wbElem e (mwCodew w), s)
        else
          match s.ringBlock (mHB mp w) (mwPopB w) i (bBlockBytes t) with
          | .error f => .error f
          | .ok (b, s) => .ok ((fun n k => ⟨false, if mwBsrc w = 4 then transElem t b k n else plainElem t b n k, none⟩), s)
      match b with
      | .error f => .error f
      | .ok (b, s) => match s.wordBlocks mp w (i + 1) k with
        | .error f => .error f
        | .ok (bs, s) => .ok (⟨plainElem t a, b⟩ :: bs, s)

/-- The word's cell operation on the ACM. -/
def State.cellOp (s : State) (r : Running) (w : BitVec 64) (blocks : List Block) (scalars : Nat) : State :=
  let mp := r.entry.mps
  let banks := match s.ctx.region r.entry.regionNo with | some g => g.banks | none => []
  let f := fun m n acc => cellValue (mwOp w) blocks ((s.ctx.maskTile.toList.getD m 0).getLsbD n) (laneAt 32 scalars m) m n acc
  { s with ctx := { s.ctx with acm := cellsGo f (cellOffset banks (mwAccsel w)) s.ctx.acm (activeCells mp),
                               running := some { r with stage := .started } } }

/-- WORD_START: a word that may start reads its operands and acts on its cells. -/
def State.wordStart (s : State) : State :=
  match s.ctx.running with
  | none => s
  | some r =>
    if r.ended || r.stage != .waiting || s.matrixStopped then s
    else
      let w := s.ctx.microWord r.entry.routineNo r.off
      match s.wordLook r w with
      | .trap f => s.matrixTrap r.entry r.drains f
      | .wait => s
      | .go nb =>
        let mp := r.entry.mps
        if mwOp w = 6 then
          match s.mxRead (mRsa mp) 512 with
          | .error f => s.matrixFail r.entry r.drains f
          | .ok (bs, s) => s.cellOp r w [] (natOf bs)
        else match s.wordBlocks mp w 0 nb with
          | .error f => s.matrixFail r.entry r.drains f
          | .ok (bs, s) => s.cellOp r w bs 0

/-! ### Retiring a word (R175, R177) -/

/-- Pop slots of a ring, entries of a weight buffer. -/
def Ctx.popRing (c : Ctx) (h : HReg) (n : Nat) : Ctx := c.updH h false n
def Ctx.popWb (c : Ctx) (one : Bool) (n : Nat) : Ctx := if one then { c with wb1 := c.wb1.drop n } else { c with wb0 := c.wb0.drop n }

def Ctx.wordPops (c : Ctx) (mp : Vector Word 8) (w : BitVec 64) : Ctx :=
  let nb := (mwBlocks w).getD 1
  let c := if mwPopA w then c.popRing (mHA mp w) nb else c
  if mwPopB w then (if mwBsrc w < 2 then c.popWb (mwBsrc w == 1) nb else c.popRing (mHB mp w) nb) else c

/-- Whether a word pops a ring: the pop is an acquire at CORE scope (R143). -/
def wordAcquires (w : BitVec 64) : Bool := mwPopA w || (mwPopB w && decide (2 ≤ mwBsrc w))

/-- A word that retired with DRAIN and BUMP: the drain joins the queue; a BUMP waits for the drains before it. -/
def Running.act (r : Running) (w : BitVec 64) : Running × Nat :=
  let drains := if mwDrain w then r.drains ++ [⟨mwAccsel w, 0, 0, r.off⟩] else r.drains
  if mwBump w then
    match drains.reverse with
    | [] => ({ r with drains := drains }, 1)
    | d :: ds => ({ r with drains := ({ d with bump := d.bump + 1 } :: ds).reverse }, 0)
  else ({ r with drains := drains }, 0)

/-- WORD_RETIRE. -/
def State.wordRetire (s : State) : State :=
  match s.ctx.running with
  | none => s
  | some r =>
    if r.stage != .started || s.matrixStopped then s
    else
      let e := r.entry
      let w := s.ctx.microWord e.routineNo r.off
      let lp := mwLoop w
      let c := s.ctx.wordPops e.mps w
      let taken := decide (lp ≠ 0) && r.cnt.toList.getD lp 0 != 0
      let cnt := if lp = 0 then r.cnt
        else r.cnt.setIfInBounds lp (if taken then r.cnt.toList.getD lp 0 - 1 else mCnt e.mps lp)
      let succ := if lp = 0 ∨ taken then mwNext w else r.off + 1
      let (r', bump) := if taken then (r, 0) else r.act w
      let r' := { r' with cnt := cnt, stage := .waiting }
      let s := { s with ctx := ({ c with running := some r' } : Ctx).bumpRegion e.regionNo bump }
      let s := if wordAcquires w then s.acquireL1 else s
      if !taken && mwEnd w then { s with ctx := { s.ctx with running := some { r' with ended := true } } }
      else if s.ctx.routineLen e.routineNo ≤ succ then s.matrixTrap e r'.drains (.micro, microVal e.routineNo r.off)
      else { s with ctx := { s.ctx with running := some { r' with off := succ } } }

/-! ### Drains (R186) -/

/-- The element type and bytes of a drain destination. -/
def drainType (h : Handle) : Option (EType × Nat) :=
  match (hEtypeBits h).toNat with
  | 0 => some (.f32, 4)
  | 1 => some (.bf16, 2)
  | 2 => some (.f16, 2)
  | 3 => some (.e4m3, 1)
  | 4 => some (.e5m2, 1)
  | _ => none

/-- Bytes between rows in a ring slot. -/
def drainPitch (cols size : Nat) : Nat := 64 * ((cols * size + 63) / 64)

/-- The faults of a drain as it starts. -/
def drainFault (h : Handle) (hr : HReg) (mp : Vector Word 8) (micro : Word) : Option (Cause × Word) :=
  if !([1, 2, 3, 6].contains (hKind h)) then some (.micro, micro)
  else if !handleOk h then some (.handle, hr.setWidth 64)
  else match drainType h with
    | none => some (.micro, micro)
    | some (_, size) =>
      if hKind h = 1 ∨ hKind h = 3 ∨ hKind h = 6 then (if hDim0 h < mCols mp then some (.micro, micro) else none)
      else if hKind h = 2 then (if 64 * hSlotsz h < mRows mp * drainPitch (mCols mp) size then some (.micro, micro) else none)
      else some (.micro, micro)

/-- Where row `m` of a drain is written. -/
def drainRow (h : Handle) (cols size m : Nat) : Word :=
  if hKind h = 2 then slotBase h (hTail h) + BitVec.ofNat 64 (m * drainPitch cols size)
  else hBase h + BitVec.ofInt 64 (hStride1 h * m)

/-- The converted elements of a row. -/
def drainBytes (acm : Mem) (banks : List Nat) (accsel cols m : Nat) (t : EType) (size : Nat) : List Byte :=
  (List.range cols).flatMap fun n => bytesOf size (convert t .f32 false .rne (Memory.num acm (cellOffset banks accsel m n) 4)).1

/-- Set the drained elements of a row to +0. -/
def clearRow (acm : Mem) (banks : List Nat) (accsel cols m : Nat) : Mem :=
  (List.range cols).foldl (fun a n => Memory.setNum a (cellOffset banks accsel m n) 4 0) acm

/-- How the rows of a band come out. -/
inductive RowsOut
  | wait
  | fail (f : Cause × Word) (s : State)
  | done (s : State)

/-- Write rows `m` to `m + k − 1`. -/
def State.drainRows (s : State) (h : Handle) (mp : Vector Word 8) (banks : List Nat) (accsel : Nat) (t : EType) (size m : Nat) :
    Nat → RowsOut
  | 0 => .done s
  | k + 1 =>
    let va := drainRow h (mCols mp) size m
    let bs := drainBytes s.ctx.acm banks accsel (mCols mp) m t size
    match s.mxSpan .write va (mCols mp * size) with
    | .error f => .fail (f.cause, s.failTval s.ctx.csr.atp f) (s.engFailed s.ctx.csr.atp f)
    | .ok ps =>
      if s.piecesLocked ps then .wait
      else match s.writeLost ps with
      | some pa => .fail (.mchk, BitVec.ofNat 64 pa) (s.logError 0x20 (BitVec.ofNat 64 pa))
      | none => match s.writePieces 0 ps bs with
        | .error o => .fail (.vstate, va + BitVec.ofNat 64 o) s
        | .ok s =>
          let s := s.endBoosts s.ctx.id ps
          let s := if mClr mp then { s with ctx := { s.ctx with acm := clearRow s.ctx.acm banks accsel (mCols mp) m } } else s
          s.drainRows h mp banks accsel t size (m + 1) k

/-- Whether a release fence keeps back the drains of a call: an access before the fence has not been performed (R356). -/
def State.callGated (s : State) (e : CallEntry) : Bool := (s.reqsOf s.ctx.id).any fun q => q.gates e.order

/-- DRAIN: the next band of the oldest drain; with the last band a ring counts the slot and the BUMPs follow. -/
def State.drainBand (s : State) : State :=
  match s.ctx.running with
  | none => s
  | some r => match r.drains with
    | [] => s
    | d :: ds =>
      if s.matrixStopped || s.callGated r.entry then s else
      let mp := r.entry.mps
      let hr := hregOf mp[5]
      let h := s.ctx.rs.h[hr.toNat]
      let micro := microVal r.entry.routineNo d.off
      match (if d.nextRow = 0 then drainFault h hr mp micro else none), drainType h with
      | some f, _ => s.matrixTrap r.entry ds f
      | none, none => s.matrixTrap r.entry ds (.micro, micro)
      | none, some (t, size) =>
        if d.nextRow = 0 ∧ hKind h = 2 ∧ hNslot h ≤ hFilled h then s
        else
          let banks := match s.ctx.region r.entry.regionNo with | some g => g.banks | none => []
          match s.drainRows h mp banks d.accsel t size d.nextRow (min 16 (mRows mp - d.nextRow)) with
          | .wait => s
          | .fail f s => s.matrixTrap r.entry ds f
          | .done s =>
            if d.nextRow + 16 < mRows mp then
              { s with ctx := { s.ctx with running := some { r with drains := { d with nextRow := d.nextRow + 16 } :: ds } } }
            else
              let c := if hKind h = 2 then s.ctx.updH hr true 1 else s.ctx
              { s with ctx := ({ c with running := some { r with drains := ds } } : Ctx).bumpRegion r.entry.regionNo d.bump }

/-! ### The end of a call (R185) -/

/-- CALL_END: the drains are performed; POP takes a slot that FILLED counts, BUMP raises the version. -/
def State.callEnd (s : State) : State :=
  match s.ctx.running with
  | none => s
  | some r =>
    if !r.ended || !r.drains.isEmpty then s
    else
      let e := r.entry
      let (pop, bump) := e.flags
      let h := hregOf e.mps[0]
      let v := s.ctx.rs.h[h.toNat]
      if pop ∧ (!handleOk v ∨ hKind v ≠ 2) then s.matrixTrap e [] (.handle, h.setWidth 64)
      else if pop ∧ hFilled v = 0 then s
      else
        let c := if pop then s.ctx.popRing h 1 else s.ctx
        let t := { s with ctx := ({ c with running := none } : Ctx).bumpRegion e.regionNo (if bump then 1 else 0) }
        if pop then t.acquireL1 else t

/-! ### One definition per instruction -/

def execMpset (g : Guard) (n : BitVec 3) (a : SReg) (s : State) : Host.Outcome State Fault Refusal := runSlot g (meaningMpset n a) s
def execAcq (g : Guard) (k : BitVec 3) (a : SReg) (s : State) : Host.Outcome State Fault Refusal := runSlot g (meaningAcq k a) s
def execArel (g : Guard) (k : BitVec 3) (s : State) : Host.Outcome State Fault Refusal := runSlot g (meaningArel k) s
def execAverRead (g : Guard) (d : SReg) (k : BitVec 3) (s : State) : Host.Outcome State Fault Refusal :=
  runSlot g (meaningAverRead d k) s
def execAverWait (g : Guard) (k : BitVec 3) (v : BitVec 8) (s : State) : Host.Outcome State Fault Refusal :=
  runSlot g (meaningAverWait k v) s
def execMload (g : Guard) (a : SReg) (s : State) : Host.Outcome State Fault Refusal := runSlot g (meaningMload a) s
def execMaskld (g : Guard) (a b : SReg) (s : State) : Host.Outcome State Fault Refusal :=
  runSlot g (meaningMaskld a b (.maskld g a b)) s
def execMcall (g : Guard) (routine expected : BitVec 8) (region : BitVec 3) (pop bump ignv : Bool) (s : State) :
    Host.Outcome State Fault Refusal := runSlot g (meaningMcall routine expected region pop bump ignv) s
/-- MNOP does nothing (R295). -/
def execMnop (g : Guard) (s : State) : Host.Outcome State Fault Refusal := runSlot g slotNop s
def execCallStart (s : State) : Host.Outcome State Fault Refusal := .next s.callStart
def execMaskLoad (s : State) : Host.Outcome State Fault Refusal := .next s.maskLoad
def execWordStart (s : State) : Host.Outcome State Fault Refusal := .next s.wordStart
def execWordRetire (s : State) : Host.Outcome State Fault Refusal := .next s.wordRetire
/-- DRAIN: the running context's, or a switched-out or killed one's, whose drains already issued complete (R190, R251). -/
def State.drainAny (s : State) : State :=
  (s.anyCtx State.drainBand).reap

def execDrain (s : State) : Host.Outcome State Fault Refusal := .next s.drainAny
def execCallEnd (s : State) : Host.Outcome State Fault Refusal := .next s.callEnd

end Sys2Proof.Machine
end

