-- ==== Sys2Proof/Machine/SeqMgr.lean ====
section
/-! DEFINITION. The sequence manager (chapter 10): descriptors, trees, acceptance, commits, KV pages, the delivery rings and the events, and the
fate of crossings (R239 to R241). Each request is one transaction in one step. -/

namespace Sys2Proof.Machine

/-! ### Transactions of the SQM (R229) -/

/-- Why a request has no effect: a status of Table 10.6, or it must be tried again. -/
inductive SqFail
  | status (code : Nat) (met : Option (Word × EngFail))     -- with the failed access behind it, and its address space
  | again
  deriving DecidableEq, Repr

/-- A part of a transaction. -/
abbrev SqM (α : Type) := StateT State (Except SqFail) α

def sqFail {α : Type} (code : Nat) : SqM α := fun _ => .error (.status code none)
def sqAgain {α : Type} : SqM α := fun _ => .error .again

def stSTATE : Nat := 1
def stFULL : Nat := 2
def stBADNODE : Nat := 3
def stBADREC : Nat := 4
def stNOKV : Nat := 5
def stNOPAGE : Nat := 6
def stBADDESC : Nat := 7
def stVSPACE : Nat := 8
def stMEMFAULT : Nat := 9

/-- Read bytes of an SQM object, newest committed version. -/
def sqBytes (atp va : Word) (n : Nat) : SqM (List Byte) := fun s =>
  match s.span atp .s .read va n with
  | .error f => .error (.status stMEMFAULT (some (atp, f)))
  | .ok ps => .ok (s.readPieces none ps)

def sqNum (atp va : Word) (n : Nat) : SqM Nat := do return natOf (← sqBytes atp va n)

/-- Write pieces: versioned lines take the transaction's stamp, a locked line makes the request try again. -/
def State.sqPieces (s : State) (stamp : Nat) : List (Pa × Nat) → List Byte → Except SqFail State
  | [], _ => .ok s
  | (p, n) :: ps, bs =>
    let a := p.pa.toNat
    if p.v && placeOf a == .hbm then
      if s.lineLocked (lineOf a) then .error .again
      else match s.commitLines stamp [(a, bs.take n)] with
        | none => .error (.status stVSPACE none)
        | some t => (t.retag p).sqPieces stamp ps (bs.drop n)
    else (s.agentWrite p 0 (bs.take n)).sqPieces stamp ps (bs.drop n)

def sqWrite (stamp : Nat) (atp va : Word) (bs : List Byte) : SqM Unit := fun s =>
  match s.span atp .s .write va bs.length with
  | .error f => .error (.status stMEMFAULT (some (atp, f)))
  | .ok ps => match s.writeLostOff ps with
    | some o => .error (.status stMEMFAULT (some (atp, ⟨.mchk, va + BitVec.ofNat 64 o⟩)))
    | none => match s.sqPieces stamp ps bs with
      | .error e => .error e
      | .ok t => .ok ((), t)

def sqPut (stamp : Nat) (atp va : Word) (n v : Nat) : SqM Unit := sqWrite stamp atp va (bytesOf n v)

/-- How a request comes out: its reply and state, or it waits. One with another status than OK changes nothing; lost data that it met is logged (R216,
R254). -/
def State.sqRun (s : State) (m : Nat → SqM Word) : Option (Word × State) :=
  if s.freeTid.isNone then none
  else
    let stamp := s.vsuLast + 1
    match m stamp { s with vsuLast := stamp } with
    | .error .again => none
    | .error (.status c met) => some (BitVec.ofNat 64 c, match met with | some (atp, f) => s.engFailed atp f | none => s)
    | .ok (v, t) =>
      -- a request that wrote no versioned line took no stamp
      some (v, if t.chains.any (fun l => l.entries.any (·.stamp == stamp)) then t else { t with vsuLast := s.vsuLast })

/-! ### Descriptors (Table 10.1) -/

/-- A descriptor image. -/
abbrev Desc := BitVec 2048
/-- Position and length of a descriptor field. -/
abbrev DField := Nat × Nat

def dSTATE : DField := (0, 4)
def dPSTATE : DField := (4, 4)
def dRULE : DField := (8, 1)
def dCSTR : DField := (9, 3)
def dPRIO : DField := (12, 4)
def dPOOL : DField := (16, 8)
def dPROBE : DField := (24, 8)
def dKSL : DField := (32, 8)
def dMAXD : DField := (40, 5)
def dMAXN : DField := (45, 7)
def dNKV : DField := (52, 8)
def dL : DField := (64, 32)
def dCL : DField := (96, 32)
def dLMAX : DField := (128, 32)
def dEOS : DField := (160, 20)
def dPPLOG : DField := (184, 4)
def dHINT : DField := (192, 20)
def dKEY : DField := (224, 32)
def dTOPP : DField := (288, 32)
def dKVPT : DField := (320, 64)
def dREMAP : DField := (384, 64)
def dSCORE : DField := (448, 64)
def dTREE : DField := (512, 64)
def dACCREC : DField := (576, 64)
def dDRING : DField := (640, 64)
def dSTAGE : DField := (704, 64)
def dALPHA : DField := (768, 32)
def dSTSLOT : DField := (800, 16)
def dLMASK : DField := (832, 128)
def dSINK : DField := (960, 32)
def dWIN : DField := (992, 32)
def dPCNT : DField := (1024, 7)
def dNCNT : DField := (1032, 7)
def dHNODE : DField := (1040, 8)
def dCSTAMP : DField := (1088, 64)

def dGet (d : Desc) (f : DField) : Nat := (d.extractLsb' f.1 f.2).toNat
def dSet (d : Desc) (f : DField) (v : Nat) : Desc := setBits d f.1 f.2 v
/-- An address field. -/
def dAddr (d : Desc) (f : DField) : Word := BitVec.ofNat 64 (dGet d f)

def qFREE : Nat := 0
def qREADY : Nat := 1
def qDRAFTING : Nat := 2
def qCHECKING : Nat := 3
def qACCEPTING : Nat := 4
def qPARKED : Nat := 5
def qHELD : Nat := 6
def qPREEMPTED : Nat := 7
def qDONE : Nat := 8

def State.sqSlot (s : State) (n : BitVec 12) : Option SqSlot := s.sqSlots.find? (·.num == n)
def State.updSlot (s : State) (n : BitVec 12) (f : SqSlot → SqSlot) : State := { s with sqSlots := updFirst (·.num == n) f s.sqSlots }

/-- The descriptor of an admitted slot as it stands, none where it cannot be read. -/
def State.descOf (s : State) (q : SqSlot) : Option Desc :=
  match s.span q.atp .s .read q.desc 256 with
  | .error _ => none
  | .ok ps => some (BitVec.ofNat 2048 (natOf (s.readPieces none ps).1))

/-- The slot and its descriptor; a slot that is not admitted is FREE. -/
def sqOpen (n : BitVec 12) : SqM (SqSlot × Desc) := do
  match (← get).sqSlot n with
  | none => sqFail stSTATE
  | some q => return (q, BitVec.ofNat 2048 (← sqNum q.atp q.desc 256))

/-- A descriptor as the SQM writes it: the reserved bits of Table 10.1 are 0 (R8). -/
def descKeep (d : Desc) : Desc :=
  d &&& BitVec.ofNat 2048 (packLanes 64
    ([0x0FFFFFFFFFFFFFFF, 2 ^ 64 - 1, 0x0F0FFFFFFFFFFFFF, 0xFFFFFFFF000FFFFF] ++ List.replicate 8 (2 ^ 64 - 1)
      ++ [0x0000FFFFFFFFFFFF, 2 ^ 64 - 1, 2 ^ 64 - 1, 2 ^ 64 - 1, 0xFF7F7F, 2 ^ 64 - 1]))

/-- Write back the lines of a descriptor that changed. -/
def sqClose (stamp : Nat) (q : SqSlot) (old new : Desc) : SqM Unit := do
  if old.extractLsb' 0 1024 ≠ new.extractLsb' 0 1024 then sqPut stamp q.atp q.desc 128 ((descKeep new).extractLsb' 0 1024).toNat
  if old.extractLsb' 1024 1024 ≠ new.extractLsb' 1024 1024 then
    sqPut stamp q.atp (q.desc + 128) 128 ((descKeep new).extractLsb' 1024 1024).toNat

/-- The first word of an acceptance record as the SQM writes it: KVN, VALID, LAST and A, the reserved bits 0 (Table 10.4, R8). -/
def accKeep (w : BitVec 64) : Nat := (w &&& 0xFF01FFFF).toNat

def sqSlotUpd (n : BitVec 12) (f : SqSlot → SqSlot) : SqM Unit := modify fun s => s.updSlot n f
/-- The slot's acceptance ends or a new one stands: its number changes, and no later acceptance of any slot has the old one (R226, R377). -/
def sqNewAcc (n : BitVec 12) : SqM Unit := modify fun s => { s.updSlot n (fun q => { q with acc := s.seq }) with seq := s.seq + 1 }
/-- The slot becomes READY: it takes its place in the order of R217. -/
def sqReady (n : BitVec 12) : SqM Unit := modify fun s => { s.updSlot n (fun q => { q with readyAt := s.seq }) with seq := s.seq + 1 }

/-! ### Events (R223) -/

def evDONE : Nat := 1
def evHELD : Nat := 2
def evPARKED : Nat := 3
def evUNPARKED : Nat := 4
def evNOPAGE : Nat := 5
def evPREEMPTED : Nat := 6
def evRESUMED : Nat := 7

/-- Whether a context receives the events of a pool (R210). -/
def Ctx.hears (c : Ctx) (pool : Nat) : Bool := c.csr.sqrole.getLsbD 16 && (c.csr.sqrole.extractLsb' 8 8).toNat == pool

/-- An event of a slot to every context that hears its pool. -/
def State.sqEvent (s : State) (n : BitVec 12) (d : Desc) (code node : Nat) : State :=
  let w := BitVec.ofNat 64 (dGet d dL * 2 ^ 32 + node * 2 ^ 16 + code * 2 ^ 12 + n.toNat)
  { s with sqEvents := s.sqEvents ++ (s.contexts.filter (·.hears (dGet d dPOOL))).map fun c => (c.id, w) }

def sqPost (n : BitVec 12) (d : Desc) (code node : Nat) : SqM Unit := modify fun s => s.sqEvent n d code node

/-- SQEVQ_PUSH: the first event whose receiver has room enters its sqevq; events of a context that is gone are dropped. -/
def State.sqevqPush (s : State) : State :=
  let ready := fun (e : BitVec 16 × Word) => match s.findCtx e.1 with
    | some c => decide (c.sqevq.length < queueDepth)
    | none => true
  match s.sqEvents.find? ready with
  | none => s
  | some e => { s with sqEvents := s.sqEvents.erase e }.updCtx e.1 fun c => { c with sqevq := c.sqevq ++ [e.2] }

/-- A record of the supervisor's tap-event ring (R241). -/
def tevrRecord (c : Crossing) (slot : BitVec 13) (l : Nat) : BitVec 256 :=
  BitVec.ofNat 256 (slot.toNat + c.node.toNat * 2 ^ 16 + c.set.toNat * 2 ^ 24 + c.probe.toNat * 2 ^ 32 + c.action.toNat * 2 ^ 36
    + c.layer.toNat * 2 ^ 40 + c.ctx.toNat * 2 ^ 64 + l * 2 ^ 96)

/-- Bits [7:0] status, the fields of the reply above. -/
def sqReply (fields : Nat) : Word := BitVec.ofNat 64 (fields * 256)

/-! ### Trees (R211) -/

def nodeAddr (d : Desc) (n : Nat) : Word := dAddr d dTREE + BitVec.ofNat 64 (16 * n)
def ndToken (w : Nat) : Nat := w % 2 ^ 20
def ndParent (w : Nat) : Nat := w / 2 ^ 32 % 256
def ndDepth (w : Nat) : Nat := w / 2 ^ 40 % 32
def ndCrossed (w : Nat) : Bool := w / 2 ^ 45 % 2 == 1
def ndQ (w : Nat) : Nat := w / 2 ^ 64 % 2 ^ 32
/-- A node with flag bit `b` set, as the SQM writes it: the reserved bits of Table 10.3 are 0 (R8). -/
def ndSetBit (w b : Nat) : Nat := (if w / 2 ^ b % 2 = 1 then w else w + 2 ^ b) &&& 0xFFFFFFFF0000FFFF000FFFFF

/-- Read the first `n` nodes. -/
def sqNodes (q : SqSlot) (d : Desc) (n : Nat) : SqM (List Nat) := (List.range n).mapM fun i => sqNum q.atp (nodeAddr d i) 16

/-- The bits of the row of node `i`: itself and its ancestors. -/
def ancestorRow (nodes : List Nat) : Nat → Nat → Nat
  | 0, _ => 0
  | k + 1, i => if i < nodes.length then 2 ^ i + ancestorRow nodes k (ndParent (nodes.getD i 0)) else 0

/-- The 512-byte ancestor bitmap. -/
def bitmapBytes (nodes : List Nat) : List Byte :=
  (List.range 64).flatMap fun i => bytesOf 8 (ancestorRow nodes nodes.length i)

def strideOf (d : Desc) : Nat := 2 ^ dGet d dCSTR

/-- Whether a FP32 pattern is finite and in (0, 1]. -/
def inUnit (p : Nat) : Bool :=
  match fmtF32.decode p with
  | .fin neg m e => !neg && m != 0 && decide (FV.cmp (.fin neg m e) (.fin false 1 0) ≤ 0)
  | _ => false

/-! ### SQGET (R217) -/

/-- Insert into a list that is in order. -/
def insertBy {α : Type} (le : α → α → Bool) (x : α) : List α → List α
  | [] => [x]
  | y :: ys => if le x y then x :: y :: ys else y :: insertBy le x ys


/-- READY slots of a pool, in descending PRIO, then in the order in which they became READY. -/
def State.sqCandidates (s : State) (pool : Nat) : List (SqSlot × Desc) :=
  let all := s.sqSlots.filterMap fun q => (s.descOf q).map fun d => (q, d)
  let c := all.filter fun (_, d) => dGet d dSTATE == qREADY && dGet d dPOOL == pool
  c.foldr (insertBy fun x y => decide (dGet y.2 dPRIO < dGet x.2 dPRIO)
    || (dGet x.2 dPRIO == dGet y.2 dPRIO && decide (x.1.readyAt ≤ y.1.readyAt))) []

def batchEntry (q : SqSlot) (d : Desc) : List Byte :=
  bytesOf 2 q.num.toNat ++ bytesOf 1 (dGet d dMAXN) ++ bytesOf 1 (dGet d dMAXD) ++ bytesOf 4 (dGet d dL) ++ bytesOf 4 (dGet d dHINT)
    ++ bytesOf 4 0 ++ bytesOf 8 q.desc.toNat ++ bytesOf 8 (dGet d dSTAGE)

/-- An engine write into the caller's SPM. -/
def sqSpm (va : Word) (bs : List Byte) : SqM Unit := fun s =>
  match s.mxSpan .write va bs.length with
  | .error f => .error (.status stMEMFAULT (some (s.ctx.csr.atp, f)))
  | .ok ps => match s.writePieces 0 ps bs with
    | .error _ => .error (.status stVSPACE none)
    | .ok t => .ok ((), t)

/-- A descriptor of an admitted slot that cannot be read ends the request with MEMFAULT: which slots are READY is then not known (Table 10.6). -/
def sqGet (sa b : Word) (stamp : Nat) : SqM Word := do
  for q in (← get).sqSlots do
    let _ ← sqBytes q.atp q.desc 256
  let taken := ((← get).sqCandidates (b.toNat % 256)).take (b.toNat / 256 % 128)
  for ((q, d), i) in taken.zip (List.range taken.length) do
    sqClose stamp q d (dSet (dSet d dSTATE qDRAFTING) dNCNT 0)
    sqSpm (sa + BitVec.ofNat 64 (32 * i)) (batchEntry q d)
  return sqReply taken.length

/-! ### SQNODE (R218) -/

/-- The status of a node: of several checks that fail, the one the pseudocode of R218 makes last. -/
def nodeStatus (absent full badQ : Bool) : Nat :=
  if badQ then stBADNODE else if full then stFULL else if absent then stBADNODE else 0

def sqNode (n : BitVec 12) (b : Word) (sealing noNode : Bool) (stamp : Nat) : SqM Word := do
  let (q, d0) ← sqOpen n
  let d := d0
  if dGet d dSTATE ≠ qDRAFTING then sqFail stSTATE
  let cnt := dGet d dNCNT
  let mut d := d
  let mut reply := 0
  if !noNode then
    let parent := b.toNat / 2 ^ 52 % 256
    let p := b.toNat % 2 ^ 32
    let absent := decide (parent ≠ 0xFF ∧ cnt ≤ parent)
    -- a node that is absent has no depth (log 40)
    let above ← if parent = 0xFF ∨ absent then pure 0 else sqNum q.atp (nodeAddr d parent) 16
    let depth := if parent = 0xFF then 1 else ndDepth above + 1
    let st := nodeStatus absent (decide (cnt = dGet d dMAXN ∨ dGet d dMAXD < depth)) (decide (dGet d dRULE = 1) && !inUnit p)
    if st ≠ 0 then sqFail st
    sqPut stamp q.atp (nodeAddr d cnt) 16 (b.toNat / 2 ^ 32 % 2 ^ 20 + parent * 2 ^ 32 + depth * 2 ^ 40 + p * 2 ^ 64)
    reply := cnt
    d := dSet d dNCNT (cnt + 1)
  if sealing then
    let nodes ← sqNodes q d (dGet d dNCNT)
    for (w, i) in nodes.zip (List.range nodes.length) do
      if ndDepth w % strideOf d = 0 then sqPut stamp q.atp (nodeAddr d i) 16 (ndSetBit w 46)
    sqWrite stamp q.atp (dAddr d dTREE + 1024) (bitmapBytes nodes)
    d := dSet d dSTATE qCHECKING
  sqClose stamp q d0 d
  return sqReply reply

/-! ### Acceptance (R224) -/

/-- A shortlist record: MAX, SUM and the entries. -/
structure Shortlist where
  mx : Nat
  sum : Nat
  entries : List (Nat × Nat)
  deriving DecidableEq, Repr

def add32 (a b : Nat) : Nat := (fpAdd fmtF32 false .rne a b).1
def isNegInf32 (p : Nat) : Bool := p == 0xFF800000
/-- a ≥ b on FP32 patterns; a NaN is never. -/
def ge32 (a b : Nat) : Bool :=
  let x := fmtF32.decode a
  let y := fmtF32.decode b
  !x.isNaN && !y.isNaN && decide (0 ≤ FV.cmp x y)

/-- The weight of one value. -/
def weightOf (mx v : Nat) : Nat :=
  if isNegInf32 v || isNegInf32 mx then 0
  else (roundTo fmtF32 false .rne (Trans.exp2.value (FV.add false (fmtF32.decode v) (fmtF32.decode mx).neg).1)).1

/-- How many entries the top-p rule keeps. -/
def keepCount (thr : Nat) (cum k : Nat) : List Nat → Nat
  | [] => k
  | w :: ws => let c := add32 cum w; if ge32 c thr then k + 1 else keepCount thr c (k + 1) ws

/-- weights(rec). -/
def weightsOf (topp : Nat) (r : Shortlist) : List Nat :=
  let thr := (fpMul fmtF32 false .rne topp r.sum).1
  let ws := r.entries.map fun e => weightOf r.mx e.1
  let keep := keepCount thr 0 0 ws
  ws.take keep ++ List.replicate (ws.length - keep) 0

/-- The sum of weights, each step rounded. -/
def sumOf (ws : List Nat) : Nat := ws.foldl add32 0

/-- draw(n). -/
def drawOf (d : Desc) (n : Nat) : FV :=
  let x : BitVec 32 := BitVec.ofNat 32 (dGet d dL % 2 ^ 25 * 128 + n)
  .fin false ((mix32 (mix32 (BitVec.ofNat 32 (dGet d dKEY)) ^^^ x)).toNat / 256) (-24)

/-- Whether x < y exactly; a NaN is never. -/
def exactLt (x y : FV) : Bool := !x.isNaN && !y.isNaN && decide (FV.cmp x y < 0)

/-- The sampled rule at one node: the accepted child, and the residual weights. -/
def sampleChild (d : Desc) (nodes : List Nat) (idx : List Nat) : List Nat → List Nat → Option Nat × List Nat
  | [], w => (none, w)
  | c :: cs, w =>
    let tok := ndToken (nodes.getD c 0)
    let k := idx.idxOf tok
    let pt := w.getD k 0
    let t := (FV.mul (FV.mul (drawOf d c) (fmtF32.decode (ndQ (nodes.getD c 0)))).1 (fmtF32.decode (sumOf w))).1
    if exactLt t (fmtF32.decode pt) then (some c, w) else sampleChild d nodes idx cs (w.set k 0)

/-- The children of a node, in ascending index. -/
def childrenOf (nodes : List Nat) (p : Nat) : List Nat := (List.range nodes.length).filter fun c => ndParent (nodes.getD c 0) == p

/-- NHINT under rule 1: the least entry whose running sum exceeds draw(127) × Z. -/
def hintGo (lim : FV) (run : Nat) : List Nat → List Nat → Option Nat
  | w :: ws, i :: is => let r := add32 run w; if exactLt lim (fmtF32.decode r) then some i else hintGo lim r ws is
  | _, _ => none

/-- The hint from the residual weights. -/
def hintOf (d : Desc) (r : Shortlist) (w : List Nat) : Nat :=
  let idx := r.entries.map (·.2)
  let z := sumOf w
  if z % 2 ^ 31 = 0 then idx.headD 0
  else (hintGo (FV.mul (drawOf d 127) (fmtF32.decode z)).1 0 w idx).getD (idx.headD 0)

/-- Walk on from an accepted node: the path after it, and NHINT. -/
def walkFrom (d : Desc) (nodes : List Nat) (recs : List Shortlist) : Nat → Nat → List Nat × Nat
  | 0, _ => ([], 0)
  | fuel + 1, p =>
    let r := recs.getD p ⟨0, 0, []⟩
    let idx := r.entries.map (·.2)
    let kids := childrenOf nodes p
    let (next, w) := if dGet d dRULE = 0 then (kids.find? fun c => ndToken (nodes.getD c 0) == idx.headD 0, [])
      else sampleChild d nodes idx kids (weightsOf (dGet d dTOPP) r)
    match next with
    | some c => let (path, hint) := walkFrom d nodes recs fuel c; (c :: path, hint)
    | none => ([], if dGet d dRULE = 0 then idx.headD 0 else hintOf d r w)

/-- The accepted path and NHINT. -/
def acceptWalk (d : Desc) (nodes : List Nat) (recs : List Shortlist) : List Nat × Nat :=
  match (childrenOf nodes 0xFF).find? fun n => ndToken (nodes.getD n 0) == dGet d dHINT with
  | none => ([], dGet d dHINT)
  | some n => let (path, hint) := walkFrom d nodes recs nodes.length n; (n :: path, hint)

/-- Parse a shortlist record of K entries. -/
def shortlistOf (bs : List Byte) (k : Nat) : Shortlist :=
  let ws := wordsAt 4 bs (4 + 2 * k)
  ⟨ws.getD 0 0, ws.getD 1 0, (List.range k).map fun i => (ws.getD (4 + 2 * i) 0, ws.getD (5 + 2 * i) 0)⟩

/-- Read the record of one node from the caller's memory; BADREC where it cannot be read or has another K. -/
def sqShortlist (base : Word) (ksl n : Nat) : SqM Shortlist := fun s =>
  let len := 16 + 8 * ksl
  match s.span s.ctx.csr.atp s.mode .read (base + BitVec.ofNat 64 (n * len)) len with
  | .error f => .error (.status stBADREC (some (s.ctx.csr.atp, f)))
  | .ok ps =>
    let (bs, t) := s.readPieces none ps
    if natOf ((bs.drop 8).take 4) ≠ ksl then .error (.status stBADREC none) else .ok (shortlistOf bs ksl, t)

/-! ### KV pages (R227, R228) -/

def kvEntry (d : Desc) (f : DField) (size j : Nat) : Word := dAddr d f + BitVec.ofNat 64 (size * j)
def pageLen (d : Desc) : Nat := 2 ^ dGet d dPPLOG

/-- The words of the page stack: COUNT and RSV; none registered counts as an empty stack. -/
def sqStack : SqM (Nat × Nat) := do
  match (← get).pageStack with
  | none => return (0, 0)
  | some (a, atp) => return (← sqNum atp a 8, ← sqNum atp (a + 16) 8)

/-- Take the page at the top of the stack. -/
def sqTakePage (stamp count : Nat) : SqM Nat := do
  match (← get).pageStack with
  | none => sqFail stNOPAGE
  | some (a, atp) =>
    let page ← sqNum atp (a + 64 + BitVec.ofNat 64 (8 * (count - 1))) 8
    sqPut stamp atp a 8 (count - 1)
    return page

/-- The page that eviction chooses: the qualifying one of lowest score, ties to the lowest index. -/
def sqVictim (q : SqSlot) (d : Desc) : SqM (Option Nat) := do
  let len := pageLen d
  let below := if dGet d dCL = 0 then 0 else (dGet d dCL - 1) / len
  let mut best : Option (Nat × Nat) := none
  for i in List.range below do
    let first ← sqNum q.atp (kvEntry d dREMAP 4 i) 4
    let score ← sqNum q.atp (kvEntry d dSCORE 4 i) 4
    if dGet d dSINK ≤ first ∧ first + len + dGet d dWIN ≤ dGet d dL then
      match best with
      | none => best := some (score, i)
      | some (sc, _) => if score < sc then best := some (score, i)
  return best.map (·.2)

/-- The last page table entry in use: entries above the page of slot CL − 1 count while they name a page. -/
def lastPage (s : State) (q : SqSlot) (d : Desc) (j : Nat) : Nat → Nat
  | 0 => j
  | k + 1 =>
    match s.span q.atp .s .read (kvEntry d dKVPT 8 (j + 1)) 8 with
    | .error _ => j
    | .ok ps => if natOf (s.readPieces none ps).1 = 0 then j else lastPage s q d (j + 1) k

/-- Move the entries after `i` down by one. -/
def sqCompact (stamp : Nat) (q : SqSlot) (d : Desc) (i last : Nat) : SqM Unit := do
  for k in List.range (last - i) do
    for (f, size) in [(dKVPT, 8), (dREMAP, 4), (dSCORE, 4)] do
      let v ← sqNum q.atp (kvEntry d f size (i + k + 1)) size
      sqPut stamp q.atp (kvEntry d f size (i + k)) size v
  sqPut stamp q.atp (kvEntry d dKVPT 8 last) 8 0

/-- Evict page `i`: the descriptor with CL lowered, and the page. -/
def sqEvict (stamp : Nat) (q : SqSlot) (d : Desc) (i : Nat) : SqM (Desc × Nat) := do
  let page ← sqNum q.atp (kvEntry d dKVPT 8 i) 8
  let last := lastPage (← get) q d ((dGet d dCL - 1) / pageLen d) 16
  sqCompact stamp q d i last
  return (dSet d dCL (dGet d dCL - pageLen d), page)

/-- Enter a new page. -/
def sqEnter (stamp : Nat) (q : SqSlot) (d : Desc) (j page : Nat) : SqM Unit := do
  sqPut stamp q.atp (kvEntry d dKVPT 8 j) 8 page
  sqPut stamp q.atp (kvEntry d dREMAP 4 j) 4 (ofIntW 32 ((dGet d dL : Int) + (j * pageLen d : Nat) - dGet d dCL))
  sqPut stamp q.atp (kvEntry d dSCORE 4 j) 4 0

/-- The first page of slots CL to CL + a − 1 that does not exist. -/
def sqMissing (q : SqSlot) (d : Desc) (a : Nat) : SqM (Option Nat) := do
  let lo := dGet d dCL / pageLen d
  let hi := (dGet d dCL + a - 1) / pageLen d
  for k in List.range (if a = 0 then 0 else hi + 1 - lo) do
    if (← sqNum q.atp (kvEntry d dKVPT 8 (lo + k)) 8) = 0 then return some (lo + k)
  return none

/-- Ensure the pages of slots CL to CL + a − 1. With an empty stack the page that is evicted serves at once where no snapshot is
held; else the request waits for pages to return. -/
def sqEnsure (stamp : Nat) (q : SqSlot) (a : Nat) : Nat → Desc → SqM Desc
  | 0, d => pure d
  | fuel + 1, d => do
    match ← sqMissing q d a with
    | none => return d
    | some j =>
      let (count, rsv) ← sqStack
      if rsv < count then
        sqEnter stamp q d j (← sqTakePage stamp count)
        sqEnsure stamp q a fuel d
      else
        match ← sqVictim q d with
        | none =>
          if count = 0 then sqFail stNOPAGE
          sqEnter stamp q d j (← sqTakePage stamp count)
          sqEnsure stamp q a fuel d
        | some i =>
          let (d, page) ← sqEvict stamp q d i
          if count = 0 then
            if (← get).liveStamps.isEmpty then sqEnter stamp q d (j - 1) page else sqAgain
          else
            modify fun s => { s with evicted := s.evicted ++ [(BitVec.ofNat 64 page, stamp)] }
            sqEnter stamp q d (j - 1) (← sqTakePage stamp count)
          sqEnsure stamp q a fuel d

/-! ### SQACC (R219) -/

/-- The engine write of a bitmap that the SQM has queued for the caller's SPM: its reply does not wait for it (R219). -/
def State.bitmapJob (s : State) (va : Word) (bs : List Byte) : Job :=
  { id := s.seq, op := .bitmap va (BitVec.ofNat 4096 (natOf bs)), slot := .c0, ctx := s.ctx.id, atp := s.ctx.csr.atp, sup := false, bundle := s.rs.cur,
    src := 0, dst := 0, idx := 0, named := [], hs := none, hd := none, ctr := 0, cfg := 0, inc := 0, ar := false, before := s.seq, view := none,
    chain := none, nch := 1, done := [], path := [], acc := 0, ready := true, fail := none, failed := [], addPending := false, orphan := false }

def sqMask (n : BitVec 12) (b : Word) (_stamp : Nat) : SqM Word := do
  let (q, d) ← sqOpen n
  if dGet d dSTATE ≠ qCHECKING then sqFail stSTATE
  let bs ← sqBytes q.atp (dAddr d dTREE + 1024) 512
  modify fun s => { s with jobs := s.jobs ++ [s.bitmapJob b bs], seq := s.seq + 1 }
  return sqReply 0

/-- The bytes of an acceptance record (Table 10.4). -/
def acceptanceRecord (path : List Nat) (hint : Nat) : List Byte :=
  let last := match path.getLast? with | some n => n | none => 0xFF
  bytesOf 8 (path.length + last * 2 ^ 8 + 2 ^ 16) ++ bytesOf 8 hint
    ++ (List.range 16).map (fun k => BitVec.ofNat 8 (path.getD k 0xFF)) ++ bytesOf 32 0

def sqAccept (n : BitVec 12) (b : Word) (stamp : Nat) : SqM Word := do
  let (q, d) ← sqOpen n
  if dGet d dSTATE ≠ qCHECKING then sqFail stSTATE
  let cnt := dGet d dNCNT
  let recs ← (List.range cnt).mapM (sqShortlist b (dGet d dKSL))
  let nodes ← sqNodes q d cnt
  let (path, h) := acceptWalk d nodes recs
  let hint := h % 2 ^ 20
  let d' ← sqEnsure stamp q path.length 40 d
  sqWrite stamp q.atp (dAddr d dACCREC) (acceptanceRecord path hint)
  for i in path do
    sqPut stamp q.atp (nodeAddr d i) 16 (ndSetBit (nodes.getD i 0) 47)
  sqClose stamp q d (dSet d' dSTATE qACCEPTING)
  sqNewAcc n
  let last := match path.getLast? with | some n => n | none => 0xFF
  return sqReply (path.length + last * 2 ^ 8 + hint * 2 ^ 16)

/-! ### Delivery (R214, R221) -/

/-- Move pending tokens to the ring while there is room, up to the position a HELD slot withholds. -/
def sqDeliver (stamp : Nat) (q : SqSlot) (d : Desc) (limit : Option (BitVec 32)) (pending : List (BitVec 20 × BitVec 32)) :
    SqM (List (BitVec 20 × BitVec 32)) := do
  if pending.isEmpty then return []
  let ring := dAddr d dDRING
  let hd ← sqNum q.atp ring 8
  let tl ← sqNum q.atp (ring + 8) 8
  let size := 2 ^ ((← sqNum q.atp (ring + 16) 8) % 32)
  let room := size - (tl + 2 ^ 64 - hd) % 2 ^ 64
  let free := match limit with
    | some p => pending.takeWhile fun (t : BitVec 20 × BitVec 32) => decide (t.2.toNat < p.toNat)
    | none => pending
  let go := free.take room
  if go.isEmpty then return pending
  for (t, i) in go.zip (List.range go.length) do
    sqPut stamp q.atp (ring + 64 + BitVec.ofNat 64 (8 * ((tl + i) % size))) 8 (t.1.toNat + t.2.toNat * 2 ^ 32)
  sqPut stamp q.atp (ring + 8) 8 ((tl + go.length) % 2 ^ 64)
  return pending.drop go.length

/-! ### SQCOMMIT (R220) -/

/-- The tree and the acceptance are discarded: NCNT, VALID and KVN to 0 (R377). -/
def sqDiscard (stamp : Nat) (q : SqSlot) (d : Desc) : SqM Desc := do
  let w ← sqNum q.atp (dAddr d dACCREC) 8
  let w' := accKeep (setBits (BitVec.ofNat 64 w) 16 16 0)
  if w' ≠ w then sqPut stamp q.atp (dAddr d dACCREC) 8 w'
  sqNewAcc q.num
  sqSlotUpd q.num fun q => { q with marks := [] }
  return dSet d dNCNT 0

def sqCommit (n : BitVec 12) (stamp : Nat) : SqM Word := do
  let (q, d) ← sqOpen n
  if dGet d dSTATE ≠ qACCEPTING then sqFail stSTATE
  let rec0 ← sqNum q.atp (dAddr d dACCREC) 64
  let a := rec0 % 256
  if a ≠ 0 ∧ rec0 / 2 ^ 24 % 256 < dGet d dNKV then sqFail stNOKV
  let path := (List.range a).map fun k => rec0 / 2 ^ (128 + 8 * k) % 256
  let nodes ← path.mapM fun p => sqNum q.atp (nodeAddr d p) 16
  let toks := nodes.map ndToken
  let cut := nodes.findIdx ndCrossed
  let held := if cut < a then some (path.getD cut 0) else none
  let eos := dGet d dEOS
  let hit := if eos = 0xFFFFF then cut else (toks.take cut).idxOf eos
  let a1 := if hit < cut then hit + 1 else cut
  let a' := min a1 (dGet d dLMAX - dGet d dL)
  let done := decide (hit < cut ∧ hit < a') || dGet d dL + a' == dGet d dLMAX
  let own := (List.range a').map fun i => ((BitVec.ofNat 20 (toks.getD i 0), BitVec.ofNat 32 (dGet d dL + i)) : BitVec 20 × BitVec 32)
  let left ← sqDeliver stamp q d none (q.pending ++ own)
  let hint := match held with
    | some _ => toks.getD cut 0
    | none => if a' < a then toks.getD a' 0 else rec0 / 2 ^ 64 % 2 ^ 20
  let st := if held.isSome then qHELD else if done then qDONE else if 48 < left.length then qPARKED else qREADY
  sqPut stamp q.atp (dAddr d dACCREC) 8 (accKeep (setBits (BitVec.ofNat 64 (rec0 % 2 ^ 64)) 16 1 0))
  let fields : List (DField × Nat) := [(dL, dGet d dL + a'), (dCL, dGet d dCL + a'), (dNCNT, 0), (dCSTAMP, stamp), (dHINT, hint), (dSTATE, st),
    (dPCNT, left.length)] ++ (match held with | some h => [(dHNODE, h)] | none => [])
  let d' := fields.foldl (fun d f => dSet d f.1 f.2) d
  sqClose stamp q d d'
  sqNewAcc n
  sqSlotUpd n fun q => { q with pending := left, marks := [] }
  if st = qREADY then sqReady n
  else if st = qDONE then sqPost n d' evDONE 0xFF
  else if st = qPARKED then sqPost n d' evPARKED 0xFF
  else
    let h := held.getD 0
    sqPost n d' evHELD h
    let c := (q.marks.find? fun (c : Crossing) => c.node.toNat == h).getD ⟨n.setWidth 13, BitVec.ofNat 8 h, 0, 0, 0, 0, 0, 0⟩
    modify fun s => { s with tevrWait := s.tevrWait ++ [tevrRecord c (n.setWidth 13) (dGet d' dL)] }
  let c := strideOf d
  let dep := c * (a' / c)
  let chk := if dep = 0 then 0xFF else path.getD (dep - 1) 0xFF
  return sqReply (a' + chk * 2 ^ 8 + (a' % c) * 2 ^ 16 + st * 2 ^ 24)

/-! ### SQROLL and SQSET (R222, R377) -/

def sqRoll (n : BitVec 12) (stamp : Nat) : SqM Word := do
  let (q, d) ← sqOpen n
  if ¬(dGet d dSTATE = qDRAFTING ∨ dGet d dSTATE = qCHECKING ∨ dGet d dSTATE = qACCEPTING) then sqFail stSTATE
  let d' ← sqDiscard stamp q d
  sqClose stamp q d (dSet d' dSTATE qREADY)
  sqReady n
  return sqReply (qREADY * 2 ^ 24)

/-- The checks of ADMIT, those that R222 lists. -/
def admitOk (versioned : Bool) (d : Desc) : Bool :=
  versioned && decide (dGet d dCSTR ≤ 3) && decide (1 ≤ dGet d dKSL ∧ dGet d dKSL ≤ 64)
    && decide (1 ≤ dGet d dMAXD ∧ dGet d dMAXD ≤ 16) && decide (1 ≤ dGet d dMAXN ∧ dGet d dMAXN ≤ 64) && decide (1 ≤ dGet d dNKV)
    && (dGet d dRULE == 0 || inUnit (dGet d dTOPP))
    && decide (dGet d dL ≤ dGet d dLMAX) && decide (dGet d dLMAX ≤ 2 ^ 25) && decide (dGet d dPPLOG ≤ 12)
    && dGet d dTREE % 64 == 0 && dGet d dACCREC % 64 == 0 && dGet d dDRING % 64 == 0

def sqAdmit (n : BitVec 12) (b : Word) (stamp : Nat) : SqM Word := do
  let s ← get
  if (s.sqSlot n).isSome then sqFail stSTATE
  let q : SqSlot := ⟨n, b, s.ctx.csr.atp, 0, [], 0, none, []⟩
  match s.descOf q with
  | none => sqFail stBADDESC
  | some d =>
    if !admitOk (s.versionedAt b) d then sqFail stBADDESC
    sqClose stamp q d (dSet (dSet (dSet d dSTATE qREADY) dNCNT 0) dPCNT 0)
    modify fun s => { s with sqSlots := q :: s.sqSlots }
    sqNewAcc n
    sqReady n
    return sqReply (qREADY * 2 ^ 24)

def sqPreempt (n : BitVec 12) (stamp : Nat) : SqM Word := do
  let (q, d) ← sqOpen n
  let st := dGet d dSTATE
  if ¬(1 ≤ st ∧ st ≤ 5) then sqFail stSTATE
  let d' := dSet (dSet d dPSTATE st) dSTATE qPREEMPTED
  sqClose stamp q d d'
  sqPost n d' evPREEMPTED 0xFF
  return sqReply (qPREEMPTED * 2 ^ 24)

def sqResume (n : BitVec 12) (stamp : Nat) : SqM Word := do
  let (q, d) ← sqOpen n
  if dGet d dSTATE ≠ qPREEMPTED then sqFail stSTATE
  let p := dGet d dPSTATE
  let parked := decide (p = qPARKED)
  let st := if p = qDRAFTING then qREADY else if p = qACCEPTING then qCHECKING
    else if parked ∧ dGet d dPCNT = 0 then qREADY else p
  let d1 := if p = qDRAFTING then dSet d dNCNT 0 else d
  if p = qACCEPTING then
    let w ← sqNum q.atp (dAddr d dACCREC) 8
    sqPut stamp q.atp (dAddr d dACCREC) 8 (accKeep (setBits (BitVec.ofNat 64 w) 16 1 0))
    sqNewAcc n
  let d' := dSet d1 dSTATE st
  sqClose stamp q d d'
  sqPost n d' evRESUMED 0xFF
  if st = qREADY then sqReady n
  if parked ∧ st = qREADY then sqPost n d' evUNPARKED 0xFF
  return sqReply (st * 2 ^ 24)

def sqRelease (n : BitVec 12) (b : Word) (stamp : Nat) : SqM Word := do
  let (q, d) ← sqOpen n
  if dGet d dSTATE ≠ qHELD then sqFail stSTATE
  let fin := b.getLsbD 0
  let st := if fin then qDONE else qREADY
  let left := match fin, q.holdFrom with
    | true, some p => q.pending.filter fun (t : BitVec 20 × BitVec 32) => decide (t.2.toNat < p.toNat)
    | _, _ => q.pending
  let d' := dSet (dSet (dSet d dSTATE st) dHNODE (if fin then dGet d dHNODE else 0)) dPCNT left.length
  sqClose stamp q d d'
  sqSlotUpd n fun q => { q with pending := left, holdFrom := none }
  if fin then sqPost n d' evDONE 0xFF else sqReady n
  return sqReply (st * 2 ^ 24)

def sqRetire (n : BitVec 12) (stamp : Nat) : SqM Word := do
  let (q, d) ← sqOpen n
  sqClose stamp q d (dSet (dSet d dSTATE qFREE) dPCNT 0)
  modify fun s => { s with sqSlots := s.sqSlots.filter (·.num != n) }
  return sqReply (qFREE * 2 ^ 24)

def sqPool (b : Word) (_stamp : Nat) : SqM Word := do
  modify fun s => { s with pageStack := some (b, s.ctx.csr.atp) }
  return sqReply 0

/-! ### The held request (R215) -/

/-- A request at the SQM. -/
def sqRequest (op : SqOp) (a b : Word) : Nat → SqM Word :=
  let n : BitVec 12 := a.extractLsb' 0 12
  match op with
  | .get => sqGet a b
  | .node sealing noNode => sqNode n b sealing noNode
  | .mask => sqMask n b
  | .accept => sqAccept n b
  | .commit => sqCommit n
  | .roll => sqRoll n
  | .admitSlot => sqAdmit n b
  | .preempt => sqPreempt n
  | .resume => sqResume n
  | .release => sqRelease n b
  | .retire => sqRetire n
  | .pool => sqPool b

/-- NOPAGE posts its event though the request changes nothing (R228). -/
def State.noPageEvent (s : State) (op : SqOp) (a v : Word) : State :=
  if op == .accept && v == BitVec.ofNat 64 stNOPAGE then
    match s.sqSlot (a.extractLsb' 0 12) with
    | some q => match s.descOf q with
      | some d => s.sqEvent q.num d evNOPAGE 0xFF
      | none => s
    | none => s
  else s

/-- A held SQ request goes on: its release is performed, the SQM serves it, the reply lands at t + 1 with an acquire. None while it waits. -/
def State.sqLook (s : State) (d : SReg) (op : SqOp) (a b : Word) : Option State :=
  if !s.unperformed.isEmpty || !s.comb.isEmpty then none
  else match s.sqRun (sqRequest op a b) with
    | none => none
    | some (v, t) => some (((t.noPageEvent op a v).acquireL1).landS d 1 v)

/-! ### Checks at issue (R215, R217, R376) -/

/-- TVAL is the slot operand, of SQGET its operand sa (log 55). -/
def sqTrap (a : Word) : Trap := mkTrap .sq 0 a
def State.role (s : State) : Nat := (s.ctx.csr.sqrole.extractLsb' 0 2).toNat

/-- Whether the slot operand names a slot. -/
def slotOk (a : Word) : Bool := a.toNat < 4096

def State.spmCheck (s : State) (va : Word) (alignment n : Nat) : Option Trap :=
  if va.extractLsb' 48 16 = (0 : BitVec 16) ∧ va.toNat % alignment ≠ 0 then some (mkTrap .align 0 va) else s.ownSpmTrap va n

/-- The checks of a request. SQSET POOL with a slot operand other than 0 traps (log 55). -/
def sqCheck (op : SqOp) (a b : Word) (s : State) : Option Trap :=
  let prospector := s.role % 2 == 1
  let assayer := 2 ≤ s.role
  let need := fun (ok : Bool) (k : Option Trap) => if ok then k else some (sqTrap a)
  match op with
  | .get =>
    let n := b.toNat / 256 % 128
    need (prospector && decide (b.toNat < 2 ^ 15) && decide (1 ≤ n ∧ n ≤ 64)) (s.spmCheck a 32 (32 * n))
  | .node .. => need (prospector && slotOk a && decide (b.toNat < 2 ^ 60)) none
  | .mask => need (assayer && slotOk a) (s.spmCheck b 64 512)
  | .accept | .commit => need (assayer && slotOk a) none
  | .roll => need ((prospector || assayer) && slotOk a) none
  | .admitSlot => match s.mode with | .u => privTrap s | .s => need (slotOk a) none
  | .preempt | .resume | .retire => match s.mode with | .u => privTrap s | .s => need (slotOk a && b == 0) none
  | .release => match s.mode with | .u => privTrap s | .s => need (slotOk a && decide (b.toNat < 2)) none
  | .pool => match s.mode with | .u => privTrap s | .s => need (a == 0) none

def meaningSq (d a : SReg) (b : Option SReg) (op : SqOp) : Slot :=
  Slot.scalar (match b with | some b => [a, b] | none => [a]) [d]
    (fun vs s => sqCheck op (arg vs 0) (arg vs 1) s) noHold fun vs s =>
    let s := s.flushComb
    s.setRs { s.rs with wait := .sq d op (arg vs 0) (arg vs 1) }

/-! ### Steps of the SQM -/

/-- Run a transaction of the SQM's own: no effect where it fails. -/
def State.sqOwn (s : State) (m : Nat → SqM Word) : State :=
  match s.sqRun m with
  | some (v, t) => if v = 0 then t else s
  | none => s

/-- PENDING_TOKEN_MOVE (R221). -/
def sqMove (n : BitVec 12) (stamp : Nat) : SqM Word := do
  let (q, d) ← sqOpen n
  let left ← sqDeliver stamp q d q.holdFrom q.pending
  if left.length = q.pending.length then return 0
  let free := left.isEmpty && dGet d dSTATE == qPARKED
  let d1 := dSet d dPCNT left.length
  let d' := if free then dSet d1 dSTATE qREADY else d1
  sqClose stamp q d d'
  sqSlotUpd n fun q => { q with pending := left }
  if free then
    sqReady n
    sqPost n d' evUNPARKED 0xFF
  return 0

/-- Push a page on the stack. -/
def sqReturnPage (a atp page : Word) (stamp : Nat) : SqM Word := do
  let count ← sqNum atp a 8
  sqPut stamp atp (a + 64 + BitVec.ofNat 64 (8 * count)) 8 page.toNat
  sqPut stamp atp a 8 (count + 1)
  return 0

/-- PAGE_RETURN: an evicted page returns once the low-water mark covers its eviction. -/
def State.pageReturn (s : State) : State :=
  match s.evicted.find? (fun e => decide (e.2 ≤ s.lwm)), s.pageStack with
  | some e, some (a, atp) =>
    match ({ s with evicted := s.evicted.erase e } : State).sqRun (sqReturnPage a atp e.1) with
    | some (v, t) => if v = 0 then t else s
    | none => s
  | _, _ => s

/-- A KVCP completion counts for the acceptance it read (R226, R377); none while the SQM must wait. KVN has 8 bits, in which the rule's KVN + 1 is
formed (log 49); an increment whose transaction fails is lost (log 55). -/
def State.kvDone (s : State) (n : BitVec 12) (acc : Nat) : Option State :=
  match s.sqSlot n with
  | none => some s
  | some q =>
    if q.acc ≠ acc then some s
    else (s.sqRun fun stamp => do
      let (q, d) ← sqOpen n
      let w ← sqNum q.atp (dAddr d dACCREC) 8
      sqPut stamp q.atp (dAddr d dACCREC) 8 (accKeep (setBits (BitVec.ofNat 64 w) 24 8 (w / 2 ^ 24 % 256 + 1)))
      return 0).map fun r => r.2

/-- The effect of a binding crossing on its slot (Table 11.4). -/
def sqCross (c : Crossing) (stamp : Nat) : SqM Word := do
  let n : BitVec 12 := c.slot.setWidth 12
  let (q, d) ← sqOpen n
  let st := dGet d dSTATE
  if c.node ≠ 0xFF then
    if (st = qCHECKING ∨ st = qACCEPTING) ∧ c.node.toNat < dGet d dNCNT then
      let w ← sqNum q.atp (nodeAddr d c.node.toNat) 16
      sqPut stamp q.atp (nodeAddr d c.node.toNat) 16 (ndSetBit w 45)
      sqSlotUpd n fun q => { q with marks := q.marks ++ [c] }
    return 0
  else if 1 ≤ st ∧ st ≤ 5 then
    let d1 ← sqDiscard stamp q d
    let d' := dSet (dSet d1 dSTATE qHELD) dHNODE 0xFF
    sqClose stamp q d d'
    sqSlotUpd n fun q => { q with holdFrom := some c.pos }
    sqPost n d' evHELD 0xFF
    modify fun s => { s with tevrWait := s.tevrWait ++ [tevrRecord c c.slot (dGet d' dL)] }
    return 0
  else return 0

/-- CROSSING_APPLY: the oldest offered crossing is applied; one of a row that was unbound as it was evaluated posts its record only (R234, R239). One
whose transaction fails stays to be tried again: the hold of R240 lasts until it is applied (log 41). -/
def State.crossingApply (s : State) : State :=
  match s.crossings with
  | [] => s
  | c :: cs =>
    let s' := { s with crossings := cs }
    if c.slot = 0x1FFF then { s' with tevrWait := s.tevrWait ++ [tevrRecord c 0x1FFF 0] }
    else if (s.sqSlot (c.slot.setWidth 12)).isNone then s'
    else match s'.sqRun (sqCross c) with
      | none => s
      | some (v, t) => if v = 0 then t else s

/-- Whether the event that a record of the ring follows, code 2 of its slot, still waits in the SQM (R241). -/
def State.eventWaits (s : State) (r : BitVec 256) : Bool :=
  s.sqEvents.any fun e => e.2.extractLsb' 0 12 == r.extractLsb' 0 12 && r.getLsbD 12 == false && (e.2.extractLsb' 12 4).toNat == evHELD

/-- TEVR_RECORD: the oldest waiting record enters the supervisor's ring, after the event it follows and if the ring has room (R241). -/
def State.tevrPush (s : State) : State :=
  match s.tevrWait with
  | [] => s
  | r :: rs =>
    let ring : Word := (s.tevr.extractLsb' 0 48).setWidth 64
    let size := 2 ^ (s.tevr.extractLsb' 48 5).toNat
    if ring = 0 || s.eventWaits r then s
    else match (do
        let hd ← sqNum s.ctx.csr.atp ring 8
        let tl ← sqNum s.ctx.csr.atp (ring + 8) 8
        if size ≤ (tl + 2 ^ 64 - hd) % 2 ^ 64 then sqAgain
        sqPut (s.vsuLast + 1) s.ctx.csr.atp (ring + 64 + BitVec.ofNat 64 (32 * (tl % size))) 32 r.toNat
        sqPut (s.vsuLast + 1) s.ctx.csr.atp (ring + 8) 8 ((tl + 1) % 2 ^ 64) : SqM Unit) { s with tevrWait := rs, vsuLast := s.vsuLast + 1 } with
      | .error _ => s
      | .ok ((), t) =>
        if t.chains.any (fun l => l.entries.any (·.stamp == s.vsuLast + 1)) then t else { t with vsuLast := s.vsuLast }

/-! ### One definition per instruction -/

def execSqget (g : Guard) (d a b : SReg) (s : State) : Host.Outcome State Fault Refusal := runSlot g (meaningSq d a (some b) .get) s
def execSqnode (g : Guard) (d a b : SReg) (sealing noNode : Bool) (s : State) : Host.Outcome State Fault Refusal :=
  runSlot g (meaningSq d a (some b) (.node sealing noNode)) s
def execSqaccMask (g : Guard) (d a b : SReg) (s : State) : Host.Outcome State Fault Refusal :=
  runSlot g (meaningSq d a (some b) .mask) s
def execSqaccAccept (g : Guard) (d a b : SReg) (s : State) : Host.Outcome State Fault Refusal :=
  runSlot g (meaningSq d a (some b) .accept) s
def execSqcommit (g : Guard) (d a : SReg) (s : State) : Host.Outcome State Fault Refusal := runSlot g (meaningSq d a none .commit) s
def execSqroll (g : Guard) (d a : SReg) (s : State) : Host.Outcome State Fault Refusal := runSlot g (meaningSq d a none .roll) s
def execSqsetAdmit (g : Guard) (d a b : SReg) (s : State) : Host.Outcome State Fault Refusal :=
  runSlot g (meaningSq d a (some b) .admitSlot) s
def execSqsetPreempt (g : Guard) (d a b : SReg) (s : State) : Host.Outcome State Fault Refusal :=
  runSlot g (meaningSq d a (some b) .preempt) s
def execSqsetResume (g : Guard) (d a b : SReg) (s : State) : Host.Outcome State Fault Refusal :=
  runSlot g (meaningSq d a (some b) .resume) s
def execSqsetRelease (g : Guard) (d a b : SReg) (s : State) : Host.Outcome State Fault Refusal :=
  runSlot g (meaningSq d a (some b) .release) s
def execSqsetRetire (g : Guard) (d a b : SReg) (s : State) : Host.Outcome State Fault Refusal :=
  runSlot g (meaningSq d a (some b) .retire) s
def execSqsetPool (g : Guard) (d a b : SReg) (s : State) : Host.Outcome State Fault Refusal :=
  runSlot g (meaningSq d a (some b) .pool) s
def execPendingTokenMove (slot : BitVec 12) (s : State) : Host.Outcome State Fault Refusal := .next (s.sqOwn (sqMove slot))
def execPageReturn (s : State) : Host.Outcome State Fault Refusal := .next s.pageReturn
def execSqevqPush (s : State) : Host.Outcome State Fault Refusal := .next s.sqevqPush
def execCrossingApply (s : State) : Host.Outcome State Fault Refusal := .next s.crossingApply
def execTevrRecord (s : State) : Host.Outcome State Fault Refusal := .next s.tevrPush

end Sys2Proof.Machine
end

