-- ==== Sys2Proof/Machine/Taps.lean ====
section
/-! DEFINITION. Taps, probes and steering (chapter 11): the checks and the evaluation of TAPX, the privileged log, steering write-back and the
completion of taps. The firmware's addresses (probe table, vectors, log) are device physical addresses (log 28). -/

namespace Sys2Proof.Machine

/-! ### Accesses of the firmware's addresses -/

/-- The pieces of an access of the firmware, none where it names no place, may not be made, or meets an uncorrectable error (R234). -/
def State.fwPieces (s : State) (acc : Acc) (a n : Nat) : Option (List (Nat × Nat)) :=
  let ps := piecesOf (BitVec.ofNat 64 a) n
  if a + n ≤ 2 ^ 40 && ps.all fun p => (s.placeFail acc false p.1 p.2).isNone then some ps else none

/-- Bytes at an address of the firmware. -/
def State.fwRead (s : State) (a n : Nat) : Option (List Byte) :=
  (s.fwPieces .read a n).map fun ps => ps.flatMap fun p => s.readPa p.1 p.2

/-- A set that cannot be read holds no loaded set. -/
def State.fwSet (s : State) (n : Nat) : List Byte := (s.fwRead (s.ptbase.toNat + 1088 * n) 1088).getD (List.replicate 1088 0)

/-- PTSYNC publishes the table that stands at PTBASE (R231). -/
def State.publishProbes (s : State) : State := { s with probes := (List.range 64).flatMap s.fwSet }

/-- Write at an address of the firmware; a write that fails is dropped. -/
def State.fwWrite (s : State) (a : Nat) (bs : List Byte) : State :=
  match s.fwPieces .write a bs.length with
  | some _ => s.writePa a bs
  | none => s

/-! ### The block dot rule on two vectors (R98, unscaled) -/

/-- Pairs of values in blocks of 64. -/
def dotBlocks : Nat → List FV → List FV → Nat → Nat
  | 0, _, _, acc => acc
  | k + 1, xs, ys, acc =>
    let ps := (xs.take 64).zipWith (fun x y => dotProd false x y) (ys.take 64)
    dotBlocks k (xs.drop 64) (ys.drop 64) (accAdd acc (blockTerm (blockSum ps) none))

def dotRule (xs ys : List FV) : Nat := dotBlocks (xs.length / 64) xs ys 0

/-- An exact value divided by a positive number, with a sticky bit. -/
def FV.divNat (x : FV) (d : Nat) : FV :=
  match x with
  | .fin neg m e => .fin neg (2 * (m * 2 ^ 80 / d) + (if m * 2 ^ 80 % d = 0 then 0 else 1)) (e - 81)
  | x => x

/-- The POST normalisation of a row of FP32 values (R235). -/
def normRow (eps : Nat) (ys : List FV) : List FV :=
  let q := dotRule ys ys
  let m := (roundTo fmtF32 false .rne ((fmtF32.decode q).divNat ys.length)).1
  let r := fpTrans .rsq fmtF32 false (add32 m eps)
  ys.map fun y => fmtF32.decode (roundTo fmtF32 false .rne (FV.mul y (fmtF32.decode r)).1).1

/-! ### The row handle and the row map (R233) -/

/-- An entry of the row map. -/
structure MapRow where
  slot : Nat
  node : Nat
  pos : Nat
  deriving DecidableEq, Repr

def mapRow (w : Nat) : MapRow := ⟨w % 2 ^ 13, w / 2 ^ 16 % 256, w / 2 ^ 32⟩
/-- Whether an entry breaks R233. -/
def mapBad (w : Nat) : Bool :=
  let m := mapRow w
  w / 2 ^ 13 % 8 != 0 || w / 2 ^ 24 % 256 != 0 || (decide (4096 ≤ m.slot) && m.slot != 0x1FFF) || (decide (64 ≤ m.node) && m.node != 0xFF)

/-- The type of a row's elements. -/
def rowType (h : Handle) : Option EType :=
  match (hEtypeBits h).toNat with
  | 0 => some .f32
  | 1 => some .bf16
  | 2 => some .f16
  | _ => none

def rowLen (h : Handle) : Nat := hDim0 h * (hElemBits h / 8)
def rowAddr (h : Handle) (i : Nat) : Word := hBase h + BitVec.ofInt 64 (hStride1 h * i)

/-- The row handle's rules. -/
def tapHandleOk (s : State) (h : Handle) : Bool :=
  handleOk h && hKind h == 1 && (rowType h).isSome && decide (64 ≤ hDim0 h ∧ hDim0 h ≤ 16384) && hDim0 h % 64 == 0
    && decide (1 ≤ hDim1 h ∧ hDim1 h ≤ 256) && decide (hDim2 h ≤ 1) && hStride1 h % 16 == 0 && decide ((rowLen h : Int) ≤ hStride1 h)
    && (List.range (hDim1 h)).all fun i => s.inOwnSpm (rowAddr h i) (rowLen h)

/-- The row map as it stands, none where it cannot be read. -/
def State.rowMap (s : State) (sa : Word) (rows : Nat) : Option (List Nat) :=
  match s.mxSpan .read sa (8 * rows) with
  | .error _ => none
  | .ok ps => some (wordsAt 8 (s.readPieces none ps).1 rows)

def hregOf4 (h : BitVec 4) : HReg := h.setWidth 5
def tapLayer (sb : Word) : Nat := sb.toNat % 128
def tapDefault (sb : Word) : Nat := sb.toNat / 2 ^ 8 % 64
def tapNoDflt (sb : Word) : Bool := sb.getLsbD 14

/-- The traps of TAPX, in the order of R233. -/
def tapTrap (h : BitVec 4) (sa sb : Word) (s : State) : Option Trap :=
  let v := s.hreg (hregOf4 h)
  if !tapHandleOk s v then some (handleTrap 0 (hregOf4 h))
  else match s.spmCheck sa 8 (8 * hDim1 v) with
    | some t => some t
    | none =>
      if sb.getLsbD 7 ∨ sb.toNat / 2 ^ 15 ≠ 0 then some (sqTrap sb)
      else match (s.rowMap sa (hDim1 v)).bind fun ws => ws.find? mapBad with
        | some w => some (sqTrap (BitVec.ofNat 64 w))
        | none => if !tapNoDflt sb && !s.ctx.csr.tapgnt.getLsbD (tapDefault sb) then some (mkTrap .prot 0 sa) else none

/-! ### Evaluation (R234) -/

/-- What the evaluation carries: the state (its log grows), the crossings to offer, rows of SETSKIP and STEERSKIP, the write-backs. -/
structure TapEval where
  s : State
  offers : List Crossing
  setSkip : Option Nat
  steerSkip : Option Nat
  writes : List (Nat × Nat × List Byte)
  halt : Bool

/-- The fixed parts of a tap. -/
structure TapArgs where
  num : BitVec 16
  h : Handle
  t : EType
  layer : Nat
  dflt : Option Nat
  post : Bool

/-- A record of the privileged log (R242): the oldest record gives way when the log is full. -/
def State.ptlogAppend (s : State) (r : BitVec 256) : State :=
  let ring := (s.ptlog.extractLsb' 0 48).toNat
  let size := 2 ^ (s.ptlog.extractLsb' 48 5).toNat
  match s.fwRead ring 24 with
  | none => s
  | some bs =>
    let hd := natOf (bs.take 8)
    let tl := natOf ((bs.drop 8).take 8)
    let s := if size ≤ (tl + 2 ^ 64 - hd) % 2 ^ 64 then
        (s.fwWrite ring (bytesOf 8 (hd + 1))).fwWrite (ring + 16) (bytesOf 8 (natOf ((bs.drop 16).take 8) + 1))
      else s
    (s.fwWrite (ring + 64 + 32 * (tl % size)) (bytesOf 32 r.toNat)).fwWrite (ring + 8) (bytesOf 8 (tl + 1))

def logRecord (a : TapArgs) (m : MapRow) (set probe : Nat) (crossed binding vecfail : Bool) (score : Nat) (ctx : BitVec 16) : BitVec 256 :=
  let b := fun (x : Bool) => if x then 1 else 0
  BitVec.ofNat 256 (m.slot + m.node * 2 ^ 16 + set * 2 ^ 24 + probe * 2 ^ 32 + a.layer * 2 ^ 40
    + (b crossed + 2 * b binding + 4 * b a.post + 8 * b vecfail) * 2 ^ 64 + score * 2 ^ 96 + ctx.toNat * 2 ^ 128 + a.num.toNat * 2 ^ 192)

/-- The values of a probe vector, none where it cannot be read. -/
def State.probeVec (s : State) (va d : Nat) : Option (List FV) :=
  (s.fwRead va (2 * d)).map fun bs => (lanesOf 16 d (natOf bs)).map fmtBF16.decode

/-- Whether a score crosses. -/
def crosses (p : Probe) (score : Nat) : Bool :=
  let x := fmtF32.decode score
  let y := fmtF32.decode p.thr
  x.isNaN || (!y.isNaN && (if p.below then decide (FV.cmp x y < 0) else decide (0 < FV.cmp x y)))

/-- The probes of one row, in ascending order; `offered` says that the row has offered its crossing. -/
def tapProbes (a : TapArgs) (m : MapRow) (row set : Nat) (ys : List FV) (bound : Bool) : List (Probe × Nat) → Bool → TapEval → TapEval
  | [], _, e => e
  | (p, i) :: ps, offered, e =>
    if p.lmask / 2 ^ a.layer % 2 = 0 ∨ p.action = 3 then tapProbes a m row set ys bound ps offered e
    else
      let binding := e.s.role != 1
      match e.s.probeVec p.vec ys.length with
      | none =>
        let r := logRecord a m set i false binding true fmtF32.nanBits e.s.ctx.id
        let s := (e.s.ptlogAppend r).logError 0x0F (BitVec.ofNat 64 p.vec)
        tapProbes a m row set ys bound ps offered { e with s := s, setSkip := e.setSkip.or (some row) }
      | some v =>
        let score := add32 (dotRule ys v) p.bias
        let crossed := crosses p score
        let s := e.s.ptlogAppend (logRecord a m set i crossed binding false score e.s.ctx.id)
        let offer := crossed && p.action != 0 && !offered && binding
        let c : Crossing :=
          { slot := if bound then BitVec.ofNat 13 m.slot else 0x1FFF, node := BitVec.ofNat 8 m.node, pos := BitVec.ofNat 32 m.pos,
            set := BitVec.ofNat 6 set, probe := BitVec.ofNat 4 i, action := BitVec.ofNat 2 p.action, layer := BitVec.ofNat 7 a.layer, ctx := s.ctx.id }
        let e := { e with s := s, offers := if offer then e.offers ++ [c] else e.offers, halt := e.halt || (offer && p.action == 2) }
        tapProbes a m row set ys bound ps (offered || (crossed && p.action != 0)) e

/-- The steered bytes of a row: x + α × v, each rounded once (R236). -/
def steerRow (t : EType) (size alpha : Nat) (xs vs : List Nat) : List Byte :=
  let f := (EType.fmt? t).getD fmtF32
  (xs.zipWith (fun x v => bytesOf size (roundTo f false .rne
    (FV.fma false (fmtF32.decode alpha) (fmtBF16.decode v) (f.decode x)).1).1) vs).flatten

/-- Pieces of own-SPM bytes as offsets. -/
def spmPieces (row : Nat) : List (Pa × Nat) → List Byte → List (Nat × Nat × List Byte)
  | [], _ => []
  | (p, n) :: ps, bs => (row, p.pa.toNat % 2 ^ 22, bs.take n) :: spmPieces row ps (bs.drop n)

/-- The descriptor of a bound row's slot: admitted, readable, neither FREE nor DONE. -/
def State.boundDesc (s : State) (slot : Nat) : Option Desc :=
  if 4096 ≤ slot then none
  else match s.sqSlot (BitVec.ofNat 12 slot) with
    | none => none
    | some q => (s.descOf q).filter fun d => dGet d dSTATE != qFREE && dGet d dSTATE != qDONE

/-- The steering of one row. -/
def tapSteer (a : TapArgs) (row : Nat) (xs : List Nat) (d : Desc) (e : TapEval) : TapEval :=
  let st := dGet d dSTSLOT
  if st = 0xFFFF ∨ dGet d dLMASK / 2 ^ a.layer % 2 = 0 then e
  else
    let skip := { e with steerSkip := e.steerSkip.or (some row) }
    if e.s.ctx.csr.stcnt.toNat ≤ st then skip
    else match e.s.mxSpan .read (e.s.ctx.csr.stbase.setWidth 64 + BitVec.ofNat 64 (32768 * st)) (2 * xs.length) with
      | .error _ => skip
      | .ok ps =>
        let (vb, s) := e.s.readPieces none ps
        let bs := steerRow a.t (hElemBits a.h / 8) (dGet d dALPHA) xs (lanesOf 16 xs.length (natOf vb))
        match s.mxSpan .write (rowAddr a.h row) (rowLen a.h) with
        | .error _ => { skip with s := s }
        | .ok qs => { e with s := s, writes := e.writes ++ spmPieces row qs bs }

/-- One row: its probes, then its steering. -/
def tapRow (a : TapArgs) (m : MapRow) (row : Nat) (e : TapEval) : TapEval :=
  match e.s.mxSpan .read (rowAddr a.h row) (rowLen a.h) with
  | .error _ => e
  | .ok ps =>
    let xs := lanesOf (hElemBits a.h) (hDim0 a.h) (natOf (e.s.readPieces none ps).1)
    let desc := e.s.boundDesc m.slot
    let setNo := match desc with
      | some d => (if dGet d dPROBE = 0xFF then none else some (dGet d dPROBE))
      | none => a.dflt
    let e := match setNo, setNo.bind e.s.probeSet with
      | some n, some ps =>
        if ps.dmodel = hDim0 a.h then
          let raw := xs.map (valueOf a.t)
          let ys := if a.post then normRow ps.eps raw else raw
          tapProbes a m row n ys desc.isSome (ps.probes.zip (List.range ps.probes.length)) false e
        else if desc.isSome then { e with setSkip := e.setSkip.or (some row) } else e
      | _, _ => if desc.isSome then { e with setSkip := e.setSkip.or (some row) } else e
    match desc with
    | some d => tapSteer a row xs d e
    | none => e

def tapRows (a : TapArgs) : List (MapRow × Nat) → TapEval → TapEval
  | [], e => e
  | (m, i) :: rs, e => tapRows a rs (tapRow a m i e)

/-- TAPX evaluates and offers its crossings; the core then holds (R234). -/
def State.tapxNow (s : State) (d : SReg) (h : BitVec 4) (sa sb : Word) (post : Bool) : State :=
  let v := s.hreg (hregOf4 h)
  let num := s.ctx.csr.tapnext
  let a : TapArgs := { num := num, h := v, t := (rowType v).getD .f32, layer := tapLayer sb,
                       dflt := if tapNoDflt sb then none else some (tapDefault sb), post := post }
  let rows := ((s.rowMap sa (hDim1 v)).getD []).map mapRow
  let e := tapRows a (rows.zip (List.range rows.length)) ⟨s, [], none, none, [], false⟩
  let tap : Tap :=
    { num := num, writes := e.writes, complete := false,
      status := if e.setSkip.isSome then 1 else if e.steerSkip.isSome then 2 else 0,
      row := BitVec.ofNat 8 ((e.setSkip.or e.steerSkip).getD 0) }
  let s := { e.s with crossings := e.s.crossings ++ e.offers, ctx := { e.s.ctx with taps := e.s.ctx.taps ++ [tap] } }
  -- the descriptors are read with acquire at PACKAGE
  let s := s.acquireL1
  s.setRs { s.rs with wait := .tapx d e.halt }

/-- TAPX and TAPW are illegal while TAPS is not accepted (Table 15.2). -/
def Slot.tapsOnly (i : Instr) (m : Slot) : Slot :=
  { m with trap := fun s => if s.feature featTAPS then m.trap s else some (illopOf 0 i) }

def meaningTapx (d : SReg) (h : BitVec 4) (a b : SReg) (post : Bool) : Slot :=
  Slot.scalar [a, b] [d] (fun vs s => tapTrap h (arg vs 0) (arg vs 1) s) (fun _ s => decide (4 ≤ s.ctx.taps.length)) fun vs s =>
    s.tapxNow d h (arg vs 0) (arg vs 1) post

/-- A held TAPX goes on once the SQM has applied every crossing it offered: sd lands, NEXT rises, PROBEHALT waits for the boundary. -/
def State.tapxLook (s : State) (d : SReg) (halt : Bool) : Option State :=
  if s.crossings.any (·.ctx == s.ctx.id) then none
  else
    let num := s.ctx.csr.tapnext
    let s := (s.updCsr fun k => { k with tapnext := num + 1 }).landS d 1 (num.setWidth 64)
    some (if halt then s.found (mkBoundary .probehalt 0 s.rs.cur s.rs.tick (num.setWidth 64)) else s)

/-! ### TAPW and completion (R236, R237) -/

/-- Whether a tap number is outstanding with it or an earlier tap not complete. -/
def Ctx.tapPending (c : Ctx) (n : BitVec 16) : Bool :=
  c.taps.any (·.num == n) && ((c.taps.takeWhile (·.num != n)).any (!·.complete) || (c.taps.any fun t => t.num == n && !t.complete))

def meaningTapw (a : SReg) : Slot :=
  Slot.scalar [a] [] noTrap (fun vs s => s.ctx.tapPending ((arg vs 0).extractLsb' 0 16)) fun _ s => s.acquireL1

/-- Whether a tap's write-back may run: TAPX has landed its number. -/
def Ctx.tapStarted (c : Ctx) (t : Tap) : Bool := t.num != c.csr.tapnext && !t.complete

/-- The contexts' tap of a number that has started. -/
def State.findTap (s : State) (n : BitVec 16) : Option (Ctx × Tap) :=
  s.contexts.findSome? fun c => (c.taps.find? fun t => t.num == n && c.tapStarted t).map fun t => (c, t)

/-- STEER_WRITEBACK: the next piece of a steered row is written into the owner's banks, granules full. -/
def State.steerBack (s : State) (n : BitVec 16) : State :=
  match s.findTap n with
  | some (c, t) => match t.writes with
    | (_, off, bs) :: ws =>
      s.updCtx c.id fun c => { c with spm := Memory.write c.spm off bs, full := granSet c.full (off / 16) (granCount off bs.length),
                                      taps := updFirst (·.num == n) (fun t => { t with writes := ws }) c.taps }
    | [] => s
  | none => s

/-- TAP_COMPLETE: every row is written back. -/
def State.tapDone (s : State) (n : BitVec 16) : State :=
  match s.findTap n with
  | some (c, t) =>
    if t.writes.isEmpty then s.updCtx c.id fun c => { c with taps := updFirst (·.num == n) (fun t => { t with complete := true }) c.taps } else s
  | none => s

def tapEvent (t : Tap) : Word := BitVec.ofNat 64 (t.num.toNat + t.status.toNat * 2 ^ 16 + t.row.toNat * 2 ^ 24)

/-- TAPQ_PUSH: the event of a completed tap enters tapq, and the tap is no longer outstanding. -/
def State.tapqPush (s : State) : State :=
  match s.contexts.find? fun c => c.taps.any (·.complete) && decide (c.tapq.length < queueDepth) with
  | none => s
  | some c => match c.taps.find? (·.complete) with
    | none => s
    | some t => s.updCtx c.id fun c => { c with tapq := c.tapq ++ [tapEvent t], taps := c.taps.filter (·.num != t.num) }

/-! ### One definition per instruction -/

def execTapx (g : Guard) (d : SReg) (h : BitVec 4) (a b : SReg) (post : Bool) (s : State) : Host.Outcome State Fault Refusal :=
  runSlot g ((meaningTapx d h a b post).tapsOnly (.tapx g d h a b post)) s
def execTapw (g : Guard) (a : SReg) (s : State) : Host.Outcome State Fault Refusal := runSlot g ((meaningTapw a).tapsOnly (.tapw g a)) s
def execSteerWriteback (tap : BitVec 16) (s : State) : Host.Outcome State Fault Refusal := .next (s.steerBack tap)
def execTapComplete (tap : BitVec 16) (s : State) : Host.Outcome State Fault Refusal := .next (s.tapDone tap)
def execTapqPush (s : State) : Host.Outcome State Fault Refusal := .next s.tapqPush
def execPtsync (s : State) : Host.Outcome State Fault Refusal := .next s.publishProbes

end Sys2Proof.Machine
end

