-- ==== Sys2Proof/Machine/Queues.lean ====
section
/-! DEFINITION. The generator behind rngq (R103, R208, R373), the energy counter (R281, R346), and the queues that the network and the host
serve: the cluster messages (R204), hostq and traceq (R70). -/

namespace Sys2Proof.Machine

def meaningRngseed (a b : SReg) : Slot :=
  Slot.scalar [a, b] [] noTrap noHold fun vs s =>
    s.inFlight 1 (.reseed s.behalf ((arg vs 0).extractLsb' 0 32) ((arg vs 1).extractLsb' 0 32))

/-- RNG_REFILL: the generator delivers the next word while rngq has room. -/
def State.rngRefill (s : State) : State :=
  if s.live && decide (s.ctx.rngq.length < queueDepth) then
    { s with ctx := { s.ctx with rngq := s.ctx.rngq ++ [rngWord s.ctx.rngKey s.ctx.rngCtr 0], rngCtr := s.ctx.rngCtr + 1 } }
  else s

/-- ECNT − ECBASE of the context concerned. -/
def State.energyDelta (s : State) : Word := s.served.csr.ecnt - s.served.csr.ecbase

def meaningEcmarkRead (d : SReg) : Slot := Slot.scalar [] [d] noTrap noHold fun _ s => s.landS d 2 s.energyDelta

def meaningEcmarkMark (d a : SReg) : Slot :=
  Slot.scalar [a] [d] noTrap noHold fun vs s =>
    (s.landS d 2 s.energyDelta).updServed fun c =>
      { c with csr := { c.csr with ecbase := c.csr.ecnt, ectag := (arg vs 0).extractLsb' 0 16 } }

/-- Whether a message for the core can be delivered: while the window context's msgin is full it waits in the network (R204). -/
def State.messageRoom (s : State) : Bool := match s.windowCtx with | some c => decide (c.msgin.length < queueDepth) | none => false

/-- A message for the core enters msgin of its window context. -/
def State.messageIn (s : State) (source : BitVec 3) (payload : BitVec 61) : State :=
  if s.messageRoom then s.updCtx s.wctx fun c => { c with msgin := c.msgin ++ [(source ++ payload : BitVec 64)] } else s

/-- MESSAGE_DELIVERY: the oldest message of msgout leaves for its destination, or one arrives from another core. -/
def State.messageDelivery (s : State) (outbound : Bool) (source : BitVec 3) (payload : BitVec 61) : State :=
  if !outbound then s.messageIn source payload
  else match s.ctx.msgout with
    | [] => s
    | w :: ws =>
      let pos : BitVec 3 := s.coreNum.setWidth 3
      let left := { s with ctx := { s.ctx with msgout := ws } }
      if w.extractLsb' 61 3 = pos then (if s.messageRoom then left.messageIn pos (w.setWidth 61) else s) else left

/-- HOSTQ_TRACEQ_DRAIN: the oldest entry leaves for the host. -/
def State.drainOut (s : State) (trace : Bool) : State :=
  if trace then { s with ctx := { s.ctx with traceq := s.ctx.traceq.tail } }
  else { s with ctx := { s.ctx with hostq := s.ctx.hostq.tail } }

/-! ### One definition per instruction -/

def execRngseed (g : Guard) (a b : SReg) (s : State) : Host.Outcome State Fault Refusal := runSlot g (meaningRngseed a b) s
def execEcmarkRead (g : Guard) (d : SReg) (s : State) : Host.Outcome State Fault Refusal := runSlot g (meaningEcmarkRead d) s
def execEcmarkMark (g : Guard) (d a : SReg) (s : State) : Host.Outcome State Fault Refusal := runSlot g (meaningEcmarkMark d a) s
def execRngRefill (s : State) : Host.Outcome State Fault Refusal := .next s.rngRefill
def execMessageDelivery (outbound : Bool) (source : BitVec 3) (payload : BitVec 61) (s : State) : Host.Outcome State Fault Refusal :=
  .next (s.messageDelivery outbound source payload)
def execHostqTraceqDrain (trace : Bool) (s : State) : Host.Outcome State Fault Refusal := .next (s.drainOut trace)

end Sys2Proof.Machine
end

