-- ==== Sys2Proof/Machine/Vector.lean ====
section
/-! DEFINITION. The vector slots (R371, R372, R381 to R392): sources at issue, one lane function per operation, the latch and the port at the
landing tick. -/

namespace Sys2Proof.Machine

/-! ### The shape of a vector instruction -/

/-- The lanes of a beat in a type. -/
def lanesIn (t : VType) (b : Beat) : List Nat := lanesOf (VType.width t) (VType.lanes t) b.toNat

/-- A vector instruction: operands `srcs` read in type `t`, result after `lat` ticks. -/
def vslot (k : VSlot) (t : VType) (d : PortNo) (srcs : List VOpd) (lat : Nat) (f : List Beat → State → Beat) : Slot where
  trap := vtrap k srcs d
  empty _ := 0
  hold := vhold srcs d
  act s :=
    let (bs, s') := vreads t srcs s
    s'.landV k d lat (f bs s)

def beatArg (bs : List Beat) (i : Nat) : Beat := bs.getD i 0

/-- One operand, lane by lane. -/
def vmap1 (k : VSlot) (t : VType) (d : PortNo) (a : VOpd) (lat : Nat) (f : State → Nat → Nat) : Slot :=
  vslot k t d [a] lat fun bs s => beatOf t ((lanesIn t (beatArg bs 0)).map (f s))

/-- Two operands, lane by lane. -/
def vmap2 (k : VSlot) (t : VType) (d : PortNo) (a b : VOpd) (lat : Nat) (f : State → Nat → Nat → Nat) : Slot :=
  vslot k t d [a, b] lat fun bs s => beatOf t ((lanesIn t (beatArg bs 0)).zipWith (f s) (lanesIn t (beatArg bs 1)))

/-- The whole beat, no lanes. -/
def vbits (k : VSlot) (t : VType) (d : PortNo) (a b : VOpd) (f : Beat → Beat → Beat) : Slot :=
  vslot k t d [a, b] 2 fun bs _ => f (beatArg bs 0) (beatArg bs 1)

/-! ### Lane functions -/

def VType.signed (t : VType) : Bool := EType.signed (VType.toE t)
/-- The integer a lane stands for. -/
def laneInt (t : VType) (x : Nat) : Int := toInt (VType.signed t) (VType.width t) x

/-- An operation that has a floating-point and an integer form (R382). -/
def laneArith (t : VType) (fp : FFmt → Nat → Nat → FRes) (int : Nat → Nat → Nat) (x y : Nat) : Nat :=
  match VType.fmt? t with
  | some f => (fp f x y).1
  | none => int x y % 2 ^ VType.width t

def laneAdd (t : VType) (ftz : Bool) : Nat → Nat → Nat := laneArith t (fun f => fpAdd f ftz .rne) (· + ·)
def laneSub (t : VType) (ftz : Bool) : Nat → Nat → Nat := laneArith t (fun f => fpSub f ftz .rne) fun x y => x + (2 ^ VType.width t - y)
def laneMul (t : VType) (ftz : Bool) : Nat → Nat → Nat := laneArith t (fun f => fpMul f ftz .rne) (· * ·)
def laneMin (t : VType) (ftz : Bool) : Nat → Nat → Nat :=
  laneArith t (fun f => fpPick f ftz false) fun x y => if laneInt t y < laneInt t x then y else x
def laneMax (t : VType) (ftz : Bool) : Nat → Nat → Nat :=
  laneArith t (fun f => fpPick f ftz true) fun x y => if laneInt t x < laneInt t y then y else x
def laneFma (t : VType) (ftz : Bool) (x y z : Nat) : Nat :=
  match VType.fmt? t with
  | some f => (fpFma f ftz .rne x y z).1
  | none => (x * y + z) % 2 ^ VType.width t

/-- VABS and VNEG on a floating-point lane: `neg` gives the result's sign from the operand's (R381). -/
def fpSign (f : FFmt) (ftz : Bool) (sign : Bool → Bool) (x : Nat) : Nat :=
  match f.decode x with
  | .nan _ => f.nanBits
  | _ =>
    let n := sign (x / 2 ^ (f.eb + f.mb) % 2 == 1)
    f.signBit n + (if ftz && f.isSubnormal x then 0 else x % 2 ^ (f.eb + f.mb))

def laneAbs (t : VType) (ftz : Bool) (x : Nat) : Nat :=
  match VType.fmt? t with
  | some f => fpSign f ftz (fun _ => false) x
  | none => (laneInt t x).natAbs % 2 ^ VType.width t
def laneNeg (t : VType) (ftz : Bool) (x : Nat) : Nat :=
  match VType.fmt? t with
  | some f => fpSign f ftz (!·) x
  | none => (2 ^ VType.width t - x) % 2 ^ VType.width t

def laneTrans (op : Trans) (t : VType) (ftz : Bool) (x : Nat) : Nat :=
  match VType.fmt? t with
  | some f => fpTrans op f ftz x
  | none => 0

/-- Shifts (R383): the count is the whole lane, unsigned. -/
def laneShl (t : VType) (x n : Nat) : Nat := if VType.width t ≤ n then 0 else x * 2 ^ n % 2 ^ VType.width t
def laneShr (t : VType) (x n : Nat) : Nat :=
  let n := if VType.width t ≤ n then VType.width t else n
  ofIntW (VType.width t) (laneInt t x / (2 ^ n : Nat))

/-- The condition of a VCMP lane (R385): integer codes choose the signedness. -/
def laneCond (t : VType) (ftz : Bool) (cc : Cond) (x y : Nat) : Bool :=
  match VType.fmt? t with
  | some f => (FV.cond cc (readFtz f ftz x) (readFtz f ftz y)).1
  | none => intCond cc (BitVec.ofNat (VType.width t) x) (BitVec.ofNat (VType.width t) y)

/-- The pairwise tree of R100 over a power of two of lanes. -/
def treeFold (f : Nat → Nat → Nat) : Nat → List Nat → Nat
  | 0, xs => xs.headD 0
  | k + 1, xs => f (treeFold f k (xs.take (2 ^ k))) (treeFold f k (xs.drop (2 ^ k)))

/-- The running sums of R100. -/
def scanFold (f : Nat → Nat → Nat) (acc : Nat) : List Nat → List Nat
  | [] => []
  | x :: xs => let a := f acc x; a :: scanFold f a xs

def vreduce (k : VSlot) (t : VType) (d : PortNo) (a : VOpd) (f : Bool → Nat → Nat → Nat) : Slot :=
  vslot k t d [a] 8 fun bs s =>
    let v := treeFold (f s.ftz) (Nat.log2 (VType.lanes t)) (lanesIn t (beatArg bs 0))
    beatOf t (List.replicate (VType.lanes t) v)

/-- Whether lane value `x` ranks above `y` in VTOPK (R392). -/
def ranksAbove (t : VType) (x y : Nat) : Bool :=
  match VType.fmt? t with
  | some f =>
    let u := f.decode x
    let v := f.decode y
    if u.isNaN then false else if v.isNaN then true else FV.lt v u
  | none => decide (laneInt t y < laneInt t x)

/-- The lanes with their indices, in descending order, equal values by ascending index. -/
def rankLanes (t : VType) (xs : List Nat) : List (Nat × Nat) :=
  (xs.zip (List.range xs.length)).foldr (insertBy fun p q => !ranksAbove t q.1 p.1) []

/-- A lane value with every NaN canonical. -/
def canonLane (t : VType) (x : Nat) : Nat :=
  match VType.fmt? t with
  | some f => if (f.decode x).isNaN then f.nanBits else x
  | none => x

/-- VTOPK's result beat (R392). DESIGN CHOICE (log 49): the spec does not say whether FTZ (R89) reaches a ranking; here it reaches neither the
order nor the values. -/
def topkBeat (t : VType) (n : Nat) (idx : Bool) (xs : List Nat) : Beat :=
  beatOf t (((rankLanes t xs).take n).map fun p => if idx then p.2 else canonLane t p.1)

/-- A random lane (R391). DESIGN CHOICE (log 49): FTZ (R89) does not reach the f16 results. -/
def randomLane (t : VType) (k : VSlot) (w : BitVec 32) (i : Nat) : Nat :=
  let x := (mix32 (w ^^^ (match k with | .v0 => 0 | .v1 => 0x100) ^^^ BitVec.ofNat 32 i)).toNat
  match VType.fmt? t with
  | some f => (roundTo f false .rtz (.fin false (x / 256) (-24))).1
  | none => x % 2 ^ VType.width t

/-! ### Meanings -/

def meaningVadd (k : VSlot) (t : VType) (d : PortNo) (a b : VOpd) : Slot := vmap2 k t d a b 2 fun s => laneAdd t s.ftz
def meaningVsub (k : VSlot) (t : VType) (d : PortNo) (a b : VOpd) : Slot := vmap2 k t d a b 2 fun s => laneSub t s.ftz
def meaningVmul (k : VSlot) (t : VType) (d : PortNo) (a b : VOpd) : Slot := vmap2 k t d a b 3 fun s => laneMul t s.ftz
def meaningVfma (k : VSlot) (t : VType) (d : PortNo) (a b : VOpd) (c : BitVec 5) : Slot :=
  vslot k t d [a, b] 4 fun bs s =>
    let xy := (lanesIn t (beatArg bs 0)).zip (lanesIn t (beatArg bs 1))
    beatOf t (xy.zipWith (fun p z => laneFma t s.ftz p.1 p.2 z) (lanesIn t (vreadC t c s)))
def meaningVmin (k : VSlot) (t : VType) (d : PortNo) (a b : VOpd) : Slot := vmap2 k t d a b 2 fun s => laneMin t s.ftz
def meaningVmax (k : VSlot) (t : VType) (d : PortNo) (a b : VOpd) : Slot := vmap2 k t d a b 2 fun s => laneMax t s.ftz
def meaningVabs (k : VSlot) (t : VType) (d : PortNo) (a : VOpd) : Slot := vmap1 k t d a 2 fun s => laneAbs t s.ftz
def meaningVneg (k : VSlot) (t : VType) (d : PortNo) (a : VOpd) : Slot := vmap1 k t d a 2 fun s => laneNeg t s.ftz
def meaningVtrans (op : Trans) (k : VSlot) (t : VType) (d : PortNo) (a : VOpd) : Slot := vmap1 k t d a 6 fun s => laneTrans op t s.ftz

/-- VCVT reads its operand in the source type; SRND takes the bundle's word (R386). -/
def meaningVcvt (k : VSlot) (dst : VType) (d : PortNo) (a : VOpd) (rm : RSel) (src : VType) : Slot where
  trap := vtrap k [a] d
  empty _ := 0
  hold s := vhold [a] d s || (rm == .srnd && !s.rndReady 0)
  act s :=
    let (b, s') := vread src a s
    let (w, s') := if rm = .srnd then s'.popRnd else (0, s')
    let n := min (VType.lanes src) (VType.lanes dst)
    let xs := (lanesIn src b).take n
    let ys := xs.zipWith (fun x i => (convert (VType.toE dst) (VType.toE src) false (selMode s rm (laneRandom w i)) x).1) (List.range n)
    s'.landV k d 3 (beatOf dst ys)

/-- VCMP lands its mask with its latch (R83, R385). -/
def meaningVcmp (k : VSlot) (t : VType) (d : PortNo) (a b : VOpd) (cc : Cond) : Slot where
  trap := vtrap k [a, b] d
  empty _ := 0
  hold := vhold [a, b] d
  act s :=
    let (bs, s') := vreads t [a, b] s
    let ok := (lanesIn t (beatArg bs 0)).zipWith (laneCond t s.ftz cc) (lanesIn t (beatArg bs 1))
    let r := beatOf t (ok.map fun c => if c then 2 ^ VType.width t - 1 else 0)
    let m := BitVec.ofNat 256 (packLanes 1 (ok.map fun c => if c then 1 else 0))
    (s'.landV k d 2 r).inFlight 2 (.mask k m)

def State.laneMask (s : State) (k : VSlot) : BitVec 256 := match k with | .v0 => s.ctx.masks[0] | .v1 => s.ctx.masks[1]

def meaningVsel (k : VSlot) (t : VType) (d : PortNo) (a b : VOpd) : Slot :=
  vslot k t d [a, b] 2 fun bs s =>
    let xy := (lanesIn t (beatArg bs 0)).zip (lanesIn t (beatArg bs 1))
    beatOf t (xy.zipWith (fun p i => if (s.laneMask k).getLsbD i then p.1 else p.2) (List.range (VType.lanes t)))

def meaningVand (k : VSlot) (t : VType) (d : PortNo) (a b : VOpd) : Slot := vbits k t d a b (· &&& ·)
def meaningVor (k : VSlot) (t : VType) (d : PortNo) (a b : VOpd) : Slot := vbits k t d a b (· ||| ·)
def meaningVxor (k : VSlot) (t : VType) (d : PortNo) (a b : VOpd) : Slot := vbits k t d a b (· ^^^ ·)
def meaningVshl (k : VSlot) (t : VType) (d : PortNo) (a b : VOpd) : Slot := vmap2 k t d a b 2 fun _ => laneShl t
def meaningVshr (k : VSlot) (t : VType) (d : PortNo) (a b : VOpd) : Slot := vmap2 k t d a b 2 fun _ => laneShr t
def meaningVrsum (k : VSlot) (t : VType) (d : PortNo) (a : VOpd) : Slot := vreduce k t d a (laneAdd t)
def meaningVrmax (k : VSlot) (t : VType) (d : PortNo) (a : VOpd) : Slot := vreduce k t d a (laneMax t)
/-- Lane 0 keeps its value (R100). -/
def meaningVscan (k : VSlot) (t : VType) (d : PortNo) (a : VOpd) : Slot :=
  vslot k t d [a] 8 fun bs s =>
    match lanesIn t (beatArg bs 0) with
    | [] => 0
    | x :: xs => beatOf t (x :: scanFold (laneAdd t s.ftz) x xs)
def meaningVtopk (k : VSlot) (t : VType) (d : PortNo) (a : VOpd) (km1 : BitVec 6) (idx : Bool) : Slot :=
  vslot k t d [a] 12 fun bs _ => topkBeat t (km1.toNat + 1) idx (lanesIn t (beatArg bs 0))
def meaningVperm (k : VSlot) (t : VType) (d : PortNo) (a b : VOpd) : Slot :=
  vslot k t d [a, b] 4 fun bs _ =>
    let xs := lanesIn t (beatArg bs 0)
    beatOf t ((lanesIn t (beatArg bs 1)).map fun j => xs.getD (j % VType.lanes t) 0)
def meaningVmov (k : VSlot) (t : VType) (d : PortNo) (a : VOpd) : Slot := vslot k t d [a] 2 fun bs _ => beatArg bs 0
def meaningVrng (k : VSlot) (t : VType) (d : PortNo) : Slot where
  trap := vtrap k [] d
  empty _ := 0
  hold s := vhold [] d s || !s.rndReady 0
  act s :=
    let (w, s) := s.popRnd
    s.landV k d 3 (beatOf t ((List.range (VType.lanes t)).map (randomLane t k w)))

/-! ### One definition per instruction -/

def execVnop (_k : VSlot) (g : Guard) (s : State) : Host.Outcome State Fault Refusal := runSlot g slotNop s
def execVadd (k : VSlot) (g : Guard) (t : VType) (d : PortNo) (a b : VOpd) (s : State) : Host.Outcome State Fault Refusal :=
  runSlot g (meaningVadd k t d a b) s
def execVsub (k : VSlot) (g : Guard) (t : VType) (d : PortNo) (a b : VOpd) (s : State) : Host.Outcome State Fault Refusal :=
  runSlot g (meaningVsub k t d a b) s
def execVmul (k : VSlot) (g : Guard) (t : VType) (d : PortNo) (a b : VOpd) (s : State) : Host.Outcome State Fault Refusal :=
  runSlot g (meaningVmul k t d a b) s
def execVmin (k : VSlot) (g : Guard) (t : VType) (d : PortNo) (a b : VOpd) (s : State) : Host.Outcome State Fault Refusal :=
  runSlot g (meaningVmin k t d a b) s
def execVmax (k : VSlot) (g : Guard) (t : VType) (d : PortNo) (a b : VOpd) (s : State) : Host.Outcome State Fault Refusal :=
  runSlot g (meaningVmax k t d a b) s
def execVsel (k : VSlot) (g : Guard) (t : VType) (d : PortNo) (a b : VOpd) (s : State) : Host.Outcome State Fault Refusal :=
  runSlot g (meaningVsel k t d a b) s
def execVand (k : VSlot) (g : Guard) (t : VType) (d : PortNo) (a b : VOpd) (s : State) : Host.Outcome State Fault Refusal :=
  runSlot g (meaningVand k t d a b) s
def execVor (k : VSlot) (g : Guard) (t : VType) (d : PortNo) (a b : VOpd) (s : State) : Host.Outcome State Fault Refusal :=
  runSlot g (meaningVor k t d a b) s
def execVxor (k : VSlot) (g : Guard) (t : VType) (d : PortNo) (a b : VOpd) (s : State) : Host.Outcome State Fault Refusal :=
  runSlot g (meaningVxor k t d a b) s
def execVshl (k : VSlot) (g : Guard) (t : VType) (d : PortNo) (a b : VOpd) (s : State) : Host.Outcome State Fault Refusal :=
  runSlot g (meaningVshl k t d a b) s
def execVshr (k : VSlot) (g : Guard) (t : VType) (d : PortNo) (a b : VOpd) (s : State) : Host.Outcome State Fault Refusal :=
  runSlot g (meaningVshr k t d a b) s
def execVperm (k : VSlot) (g : Guard) (t : VType) (d : PortNo) (a b : VOpd) (s : State) : Host.Outcome State Fault Refusal :=
  runSlot g (meaningVperm k t d a b) s
def execVabs (k : VSlot) (g : Guard) (t : VType) (d : PortNo) (a : VOpd) (s : State) : Host.Outcome State Fault Refusal :=
  runSlot g (meaningVabs k t d a) s
def execVneg (k : VSlot) (g : Guard) (t : VType) (d : PortNo) (a : VOpd) (s : State) : Host.Outcome State Fault Refusal :=
  runSlot g (meaningVneg k t d a) s
def execVrsum (k : VSlot) (g : Guard) (t : VType) (d : PortNo) (a : VOpd) (s : State) : Host.Outcome State Fault Refusal :=
  runSlot g (meaningVrsum k t d a) s
def execVrmax (k : VSlot) (g : Guard) (t : VType) (d : PortNo) (a : VOpd) (s : State) : Host.Outcome State Fault Refusal :=
  runSlot g (meaningVrmax k t d a) s
def execVscan (k : VSlot) (g : Guard) (t : VType) (d : PortNo) (a : VOpd) (s : State) : Host.Outcome State Fault Refusal :=
  runSlot g (meaningVscan k t d a) s
def execVmov (k : VSlot) (g : Guard) (t : VType) (d : PortNo) (a : VOpd) (s : State) : Host.Outcome State Fault Refusal :=
  runSlot g (meaningVmov k t d a) s
def execVexp2 (k : VSlot) (g : Guard) (t : VType) (d : PortNo) (a : VOpd) (s : State) : Host.Outcome State Fault Refusal :=
  runSlot g (meaningVtrans .exp2 k t d a) s
def execVlog2 (k : VSlot) (g : Guard) (t : VType) (d : PortNo) (a : VOpd) (s : State) : Host.Outcome State Fault Refusal :=
  runSlot g (meaningVtrans .log2 k t d a) s
def execVrcp (k : VSlot) (g : Guard) (t : VType) (d : PortNo) (a : VOpd) (s : State) : Host.Outcome State Fault Refusal :=
  runSlot g (meaningVtrans .rcp k t d a) s
def execVrsq (k : VSlot) (g : Guard) (t : VType) (d : PortNo) (a : VOpd) (s : State) : Host.Outcome State Fault Refusal :=
  runSlot g (meaningVtrans .rsq k t d a) s
def execVfma (k : VSlot) (g : Guard) (t : VType) (d : PortNo) (a b : VOpd) (c : BitVec 5) (s : State) :
    Host.Outcome State Fault Refusal := runSlot g (meaningVfma k t d a b c) s
def execVcvt (k : VSlot) (g : Guard) (dst : VType) (d : PortNo) (a : VOpd) (rm : RSel) (src : VType) (s : State) :
    Host.Outcome State Fault Refusal := runSlot g (meaningVcvt k dst d a rm src) s
def execVcmp (k : VSlot) (g : Guard) (t : VType) (d : PortNo) (a b : VOpd) (cc : Cond) (s : State) :
    Host.Outcome State Fault Refusal := runSlot g (meaningVcmp k t d a b cc) s
def execVtopk (k : VSlot) (g : Guard) (t : VType) (d : PortNo) (a : VOpd) (km1 : BitVec 6) (idx : Bool) (s : State) :
    Host.Outcome State Fault Refusal := runSlot g (meaningVtopk k t d a km1 idx) s
def execVrng (k : VSlot) (g : Guard) (t : VType) (d : PortNo) (s : State) : Host.Outcome State Fault Refusal :=
  runSlot g (meaningVrng k t d) s

end Sys2Proof.Machine
end

