-- ==== Sys2Proof/Machine/Transform.lean ====
section
/-! DEFINITION. The transform slot (R205, R206). -/

namespace Sys2Proof.Machine

/-- The traps of an X instruction: while an XPOSE takes its beats, every X instruction but XNOP (R206); then its ports (R81). -/
def xtrap (d a : PortNo) (k : Nat) (s : State) : Option Trap :=
  if s.mode == .s || s.ctx.xpose.isSome then some (portTrap 6 a)
  else match s.readTrap 6 a with
    | some t => some t
    | none => s.pushTrap 6 d k

/-- An instruction that converts one beat. -/
def xslot (d a : PortNo) (lat : Nat) (f : Beat → State → Beat) : Slot where
  trap := xtrap d a 1
  empty _ := 0
  hold s := s.readHolds a || s.pushHolds d 1
  act s :=
    let (b, s') := s.popPort a
    s'.pushBeat 6 d lat (f b s)

/-- Input beats of a 64 × 64 block. -/
def xposeBeats (w : BitVec 2) : Nat := 64 / xposeRows w

def meaningXpose (d a : PortNo) (w : BitVec 2) : Slot where
  trap := xtrap d a (xposeBeats w)
  empty _ := 0
  hold s := s.readHolds a
  act s :=
    let x : Xpose := { w := w, src := a, dst := d, beats := [], left := xposeBeats w, order := s.seq }
    let s := { s with ctx := { s.ctx with xpose := some x } }
    ((List.range (xposeBeats w)).foldl (fun s j => s.pushBeat 6 d (64 + j) 0) s).xposeTake

/-- Source and destination of an XCVT pair. -/
def xcvtTypes (pair : BitVec 3) : EType × EType :=
  match pair.toNat with
  | 0 => (.f32, .bf16)
  | 1 => (.f32, .f16)
  | 2 => (.bf16, .f32)
  | 3 => (.f16, .f32)
  | 4 => (.bf16, .e4m3)
  | 5 => (.bf16, .e5m2)
  | 6 => (.e4m3, .bf16)
  | _ => (.e5m2, .bf16)

/-- XCVT on a beat: a widening pair reads one half of the input lanes, a narrowing one fills one half of the output lanes. -/
def xcvtBeat (pair : BitVec 3) (h : Bool) (b : Beat) : Beat :=
  let (src, dst) := xcvtTypes pair
  let ws := EType.bitWidth src
  let wd := EType.bitWidth dst
  let n := min (2048 / ws) (2048 / wd)
  let half := if h then n else 0
  let xs := lanesOf ws (2048 / ws) b.toNat
  let ys := (if ws < wd then (xs.drop half).take n else xs).map fun x => (convert dst src false .rne x).1
  BitVec.ofNat 2048 (packLanes wd (if wd < ws then List.replicate half 0 ++ ys else ys))

def meaningXcvt (d a : PortNo) (pair : BitVec 3) (h : Bool) : Slot := xslot d a 3 fun b _ => xcvtBeat pair h b

/-- Lane width of w. -/
def xwidth (w : BitVec 2) : Nat := 32 / 2 ^ w.toNat

/-- Input lanes go in order to the lanes whose mask bit is 1; the others receive 0. -/
def expandGo (m : BitVec 256) : Nat → List Nat → List Nat → List Nat
  | _, [], _ => []
  | i, _ :: ls, xs => if m.getLsbD i then xs.headD 0 :: expandGo m (i + 1) ls xs.tail else 0 :: expandGo m (i + 1) ls xs

/-- Input lanes whose mask bit is 1, in order. -/
def packGo (m : BitVec 256) (xs : List Nat) : List Nat := ((xs.zip (List.range xs.length)).filter fun p => m.getLsbD p.2).map (·.1)

def meaningXexp (d a : PortNo) (l : VSlot) (w : BitVec 2) : Slot :=
  xslot d a 4 fun b s =>
    let xs := lanesOf (xwidth w) (2048 / xwidth w) b.toNat
    BitVec.ofNat 2048 (packLanes (xwidth w) (expandGo (s.laneMask l) 0 xs xs))

def meaningXpack (d a : PortNo) (l : VSlot) (w : BitVec 2) : Slot :=
  xslot d a 2 fun b s =>
    BitVec.ofNat 2048 (packLanes (xwidth w) (packGo (s.laneMask l) (lanesOf (xwidth w) (2048 / xwidth w) b.toNat)))

/-! ### One definition per instruction -/

/-- XNOP does nothing (R205, R295). -/
def execXnop (g : Guard) (s : State) : Host.Outcome State Fault Refusal := runSlot g slotNop s
def execXpose (g : Guard) (d a : PortNo) (w : BitVec 2) (s : State) : Host.Outcome State Fault Refusal :=
  runSlot g (meaningXpose d a w) s
def execXcvt (g : Guard) (d a : PortNo) (pair : BitVec 3) (h : Bool) (s : State) : Host.Outcome State Fault Refusal :=
  runSlot g (meaningXcvt d a pair h) s
def execXexp (g : Guard) (d a : PortNo) (l : VSlot) (w : BitVec 2) (s : State) : Host.Outcome State Fault Refusal :=
  runSlot g (meaningXexp d a l w) s
def execXpack (g : Guard) (d a : PortNo) (l : VSlot) (w : BitVec 2) (s : State) : Host.Outcome State Fault Refusal :=
  runSlot g (meaningXpack d a l w) s

end Sys2Proof.Machine
end

