-- ==== Sys2Proof/Machine/Copies.lean ====
section
/-! DEFINITION. The copy engines (chapter 9): jobs and their queues, chunks and their faults, completions, chains, the cluster broadcast bus,
weight streaming (R178 to R180), staging commits (R226) and the logit filter (R261 to R263). An engine's chunk is one step. -/

namespace Sys2Proof.Machine

/-! ### Runs of elements -/

/-- A run of elements that lie side by side in memory: address and bit of the first, bits in all, the elements' walk indexes. -/
structure ERun where
  va : Word
  off : Nat
  bits : Nat
  es : List Nat
  deriving DecidableEq, Repr

/-- Where an element lies: address, bit within the byte, walk index. -/
abbrev EPos := Word × Nat × Nat

/-- Join neighbours of `w` bits into runs. -/
def mergeRuns (w : Nat) : List EPos → List ERun
  | [] => []
  | (va, off, e) :: rest =>
    match mergeRuns w rest with
    | [] => [⟨va, off, w, [e]⟩]
    | r :: rs =>
      if va.toNat * 8 + off + w = r.va.toNat * 8 + r.off then ⟨va, off, w + r.bits, e :: r.es⟩ :: rs
      else ⟨va, off, w, [e]⟩ :: r :: rs

def ERun.bytes (r : ERun) : Nat := (r.off + r.bits + 7) / 8

/-- The element of a run that covers an address. -/
def ERun.elemAt (r : ERun) (w : Nat) (va : Word) : Nat := r.es.getD ((va.toNat - r.va.toNat) * 8 / w) (r.es.headD 0)

/-- Bit `k` elements into row (i1, i2) of a walk from `base` (R194). -/
def rowElem (h : Handle) (base : Word) (i1 i2 k : Nat) : Word × Nat :=
  let bit := k * hElemBits h
  (base + BitVec.ofInt 64 (hStride1 h * i1 + hStride2 h * i2) + BitVec.ofNat 64 (bit / 8), bit % 8)

def dims (h : Handle) : Nat × Nat × Nat := (dim1s (hDim0 h), dim1s (hDim1 h), dim1s (hDim2 h))
def hCount (h : Handle) : Nat := let (a, b, c) := dims h; a * b * c
def hRows (h : Handle) : Nat := let (_, b, c) := dims h; b * c

/-- Element `e` of a handle's walk. -/
def walkElem (h : Handle) (base : Word) (e : Nat) : Word × Nat :=
  let (d0, d1, _) := dims h
  rowElem h base (e / d0 % d1) (e / (d0 * d1)) (e % d0)

/-- Element `k` of row `i` of a handle's walk (R195). -/
def rowWalk (h : Handle) (base : Word) (i k : Nat) : Word × Nat :=
  let (_, d1, _) := dims h
  rowElem h base (i % d1) (i / d1) k

/-! ### Where a copy reads and writes -/

/-- A checked place: pieces of the device physical map, or bytes of a peer's memory. -/
inductive CPlace
  | pieces (ps : List (Pa × Nat))
  | peer (key n : Nat)
  deriving DecidableEq, Repr

/-- The peer memory that an address of a KIND 7 walk names (R289). -/
def State.peerPlace (s : State) (va : Word) (n : Nat) : Except EngFail CPlace :=
  let m : BitVec 4 := va.extractLsb' 44 4
  let a := va.toNat % 2 ^ 44
  match s.peers.toList.find? (·.member == m) with
  | none => .error ⟨.prot, va⟩
  | some p =>
    if !p.up then .error ⟨.mchk, va⟩
    else match s.peerWin.find? (·.1 == m) with
      | none => .error ⟨.prot, va⟩
      | some (_, b, l) =>
        if b.toNat ≤ a ∧ a + n ≤ b.toNat + l.toNat then .ok (.peer (m.toNat * 2 ^ 40 + a) n) else .error ⟨.prot, va⟩

def Job.mode (j : Job) : Mode := if j.sup then .s else .u

def State.copyPlace (s : State) (j : Job) (h : Handle) (acc : Acc) (r : ERun) : Except EngFail CPlace :=
  if hKind h = 7 then s.peerPlace r.va r.bytes else (s.span j.atp j.mode acc r.va r.bytes).map CPlace.pieces

/-- Check the runs of a walk: the places, or the failure with the lowest element. -/
def State.copyPlaces (s : State) (j : Job) (h : Handle) (acc : Acc) : List ERun → Except (EngFail × Nat) (List (ERun × CPlace))
  | [] => .ok []
  | r :: rs => match s.copyPlace j h acc r with
    | .error f => .error (f, r.elemAt (hElemBits h) f.va)
    | .ok p => match s.copyPlaces j h acc rs with
      | .error f => .error f
      | .ok ps => .ok ((r, p) :: ps)

def State.readPlace (s : State) (view : Option Nat) (p : CPlace) : List Byte × State :=
  match p with
  | .pieces ps => s.readPieces view ps
  | .peer k n => (Memory.read s.peerMem k n, s)

def State.writePlace (s : State) (rcn : Nat) (p : CPlace) (bs : List Byte) : Except Nat State :=
  match p with
  | .pieces ps => s.writePieces rcn ps bs
  | .peer k _ => .ok { s with peerMem := Memory.write s.peerMem k bs }

def State.placeLocked (s : State) (p : CPlace) : Bool := match p with | .pieces ps => s.piecesLocked ps | .peer _ _ => false
def State.placeFull (s : State) (p : CPlace) : Bool := match p with | .pieces ps => s.piecesFull ps | .peer _ _ => true

/-- Read the elements of the runs in order. -/
def State.readRuns (s : State) (view : Option Nat) (w : Nat) : List (ERun × CPlace) → List Nat × State
  | [] => ([], s)
  | (r, p) :: rs =>
    let (bs, s) := s.readPlace view p
    let (vs, s) := s.readRuns view w rs
    (lanesOf w r.es.length (natOf bs / 2 ^ r.off) ++ vs, s)

/-- The bytes of a run with its elements put in place, other bits of its first and last byte kept. -/
def ERun.merge (r : ERun) (w : Nat) (old : List Byte) (vs : List Nat) : List Byte :=
  bytesOf r.bytes (setBits (BitVec.ofNat (8 * r.bytes) (natOf old)) r.off r.bits (packLanes w vs)).toNat

/-- A run's write was refused at an offset: VSTATE with the address and the element of the refused line (R159, R198). -/
def ERun.refused (r : ERun) (w o : Nat) : EngFail × Nat := let va := r.va + BitVec.ofNat 64 o; (⟨.vstate, va⟩, r.elemAt w va)

/-- Write the elements of the runs in order. -/
def State.writeRuns (s : State) (rcn w : Nat) : List (ERun × CPlace) → List Nat → Except (EngFail × Nat) State
  | [], _ => .ok s
  | (r, p) :: rs, vs =>
    let old := if (r.off + r.bits) % 8 = 0 ∧ r.off = 0 then [] else (s.readPlace none p).1
    match s.writePlace rcn p (r.merge w old (vs.take r.es.length)) with
    | .error o => .error (r.refused w o)
    | .ok t => t.writeRuns rcn w rs (vs.drop r.es.length)

/-- Reduce values into the elements of the runs, one run after another (R196). -/
def State.reduceRuns (s : State) (f : Nat → Nat → Nat) (w : Nat) : List (ERun × CPlace) → List Nat → Except (EngFail × Nat) State
  | [], _ => .ok s
  | (r, p) :: rs, vs =>
    let old := (s.readPlace none p).1
    let xs := lanesOf w r.es.length (natOf old / 2 ^ r.off)
    match s.writePlace 0 p (r.merge w old (List.zipWith f xs vs)) with
    | .error o => .error (r.refused w o)
    | .ok t => t.reduceRuns f w rs (vs.drop r.es.length)

/-! ### Engines (R191) -/

def State.engineFull (s : State) (c : CSlot) : Bool := decide (engineWidth + engineQueue ≤ (s.engineJobs c).length)

/-- Whether the accesses that R140 orders before a copy have been performed. -/
def State.gateOpen (s : State) (j : Job) : Bool :=
  !((s.reqsOf j.ctx).any fun q => (j.ar && q.reply.isNone && decide (q.id < j.before)) || q.gates j.before)

/-- Whether a job's handle registers are there: those of a killed context stay until its copies are complete, those of a handler that was reset and of a
context that was rerun do not (R251). -/
def State.jobRegs (s : State) (j : Job) : Bool := !j.orphan || (!j.sup && (s.findCtx j.ctx).any (·.dead))

/-- The handle registers a job's ring fields live in. -/
def State.jobH (s : State) (j : Job) (h : HReg) : Option Handle :=
  if !s.jobRegs j then none else if j.sup then some s.sup.h[h.toNat] else (s.findCtx j.ctx).map fun c => c.rs.h[h.toNat]
def State.updJobH (s : State) (j : Job) (h : HReg) (tail : Bool) (k : Nat) : State :=
  if !s.jobRegs j then s
  else if j.sup then { s with sup := s.sup.engineH h tail k } else s.updCtx j.ctx fun c => c.updH h tail k

/-! ### Handle rules at issue -/

/-- KINDs that CPY takes (R194). -/
def copyKind (h : Handle) : Bool := let k := hKind h; k != 4 && 1 ≤ k && k ≤ 8
/-- Peer handles: the feature, and BASE[43:40] 0 (R284, R289). -/
def State.peerOk (s : State) (h : Handle) : Bool := hKind h != 7 || (s.feature featPEER && h.extractLsb' 40 4 == (0 : BitVec 4))
def State.copyHandle (s : State) (h : Handle) : Bool := handleOk h && copyKind h && s.peerOk h

def isCodeType (b : BitVec 4) : Bool := 12 ≤ b.toNat
/-- An element type's code. -/
def etypeOf (b : BitVec 4) : EType :=
  match b.toNat with
  | 0 => .f32 | 1 => .bf16 | 2 => .f16 | 3 => .e4m3 | 4 => .e5m2 | 5 => .i32 | 6 => .u32 | 7 => .i16 | 8 => .u16 | 9 => .i8
  | 10 => .u8 | 11 => .i64 | 12 => .q2 | 13 => .q4 | 14 => .q8 | _ => .bytes

/-- The ILLOP conditions of CPY: a conversion from or to codes, NSAT without an e5m2 destination (R91, R194). -/
def cpyIllop (hs hd : Handle) (nsat : Bool) : Bool :=
  (hEtypeBits hs != hEtypeBits hd && (isCodeType (hEtypeBits hs) || isCodeType (hEtypeBits hd))) || (nsat && hEtypeBits hd != 4)

/-- The handle rules of CPYR (R196). -/
def cpyrShape (hs hd : Handle) (op : AtomOp) : Bool :=
  let t := (hEtypeBits hs).toNat
  hEtypeBits hs == hEtypeBits hd && (if op = .fadd then decide (t ≤ 2) else t == 5 || t == 6 || t == 11)
    && (hKind hd == 3 || hKind hd == 6 || hKind hd == 7) && hCount hs == hCount hd

/-- Whether every row of a handle's indices stands in the issuer's SPM. -/
def State.indicesOwn (s : State) (hx : Handle) : Bool :=
  let d0 := dim1s (hDim0 hx)
  (List.range (hRows hx)).all fun r => s.inOwnSpm (walkElem hx (hBase hx) (r * d0)).1 (4 * d0)

/-- The handle rules of GATH and SCAT beyond their KINDs (R195, R357). -/
def State.gatherShape (s : State) (row other hx : Handle) : Bool :=
  handleOk hx && hKind hx == 1 && hEtypeBits hx == 5 && s.indicesOwn hx
    && hRows other == hCount hx && hEtypeBits row == hEtypeBits other

/-- The handle rules of KVCP (R226). -/
def kvcpShape (hs hd : Handle) : Bool :=
  (hKind hs == 1 || hKind hs == 3) && hKind hd == 3 && hBase hd == 0 && hDim0 hd == hDim0 hs && hEtypeBits hd == hEtypeBits hs
    && hDim1 hd == 0 && decide (hDim2 hd < 4096) && decide (0 ≤ hStride1 hd) && hStride1 hd % 16 == 0 && decide (0 ≤ hStride2 hd)

/-- The handle rules of LOGF (R261): the row length V and the row count. -/
def logfV (hs : Handle) : Nat := hDim0 hs * max (hDim1 hs) 1
def logfR (hs : Handle) : Nat := max (hDim2 hs) 1
def logfHs (hs : Handle) (k : Nat) : Bool :=
  (hKind hs == 1 || hKind hs == 3 || hKind hs == 5) && decide ((hEtypeBits hs).toNat ≤ 2) && decide (k ≤ logfV hs)
    && decide (logfV hs ≤ 2 ^ 20) && decide (logfR hs ≤ 64)
def logfHd (hs hd : Handle) (keep : Bool) (k : Nat) : Bool :=
  (hKind hd == 1 || hKind hd == 3) && (hBase hd).toNat % 16 == 0
    && (!keep || (decide (hStride2 hd ≠ 0) && hStride2 hd % 64 == 0 && decide ((logfR hs * (16 + 8 * k) : Nat) ≤ hStride2 hd)))

/-- The weight descriptor's rules (R97). -/
def weightOk (h : Handle) : Bool :=
  hKind h == 4 && hDim2 h == (hDim1 h + 63) / 64 && 1 ≤ hDim0 h && (hBase h).toNat % 4096 == 0
/-- The request handle's rules (Table 8.5). -/
def requestOk (desc h : Handle) : Bool :=
  h.extractLsb' 0 64 == (0x8000000000000#64) && h.extractLsb' 112 80 == (0 : BitVec 80) && h.extractLsb' 200 56 == (0 : BitVec 56)
    && decide (1 ≤ hDim2 h) && decide (hDim2 h ≤ 4) && decide (hDim1 h + hDim2 h ≤ hDim2 desc) && decide (160 * hDim0 h < hDim0 desc)

/-- The slot number of a copy slot in TCAUSE. -/
def cslotNo (c : CSlot) : BitVec 3 := match c with | .c0 => 4 | .c1 => 5
/-- The engine's code in statq records (R207). -/
def engineCode (c : CSlot) : BitVec 8 := match c with | .c0 => 1 | .c1 => 2

/-- HANDLE where a rule fails, else RING of a ring out of range. -/
def handleRule (slot : BitVec 3) (r : HReg) (h : Handle) (ok : Bool) : Option Trap :=
  if ok then ringTrap slot r h else some (handleTrap slot r)

/-! ### Issue -/

/-- Chunks of a copy of `n` elements of `w` bits (R197). -/
def chunkCount (n w : Nat) : Nat := (n * w + 16383) / 16384

/-- A new job, as issue captures it. -/
def State.newJob (s : State) (c : CSlot) (op : CopyOp) (src dst : Handle) (n : BitVec 3) (nch : Nat) : Job :=
  { id := s.seq, op := op, slot := c, ctx := s.ctx.id, atp := s.ctx.csr.atp, sup := s.mode == .s, bundle := s.rs.pc, src := src, dst := dst,
    idx := 0, named := [], hs := none, hd := none, ctr := n, cfg := s.ctx.csr.ccfg[n.toNat], inc := 1, ar := false, before := s.seq,
    view := s.ctx.copyView, chain := none, nch := nch, done := [], path := [], acc := 0, ready := false, fail := none, failed := [],
    addPending := false, orphan := false }

/-- The job enters its engine's queue; AR sends the combining buffer, as a release does. -/
def State.enterJob (s : State) (j : Job) : State :=
  let s := if j.ar then s.flushComb else s
  State.armLatches { s with jobs := s.jobs ++ [j], seq := s.seq + 1 }

/-- A copy instruction: its trap, the hold on a full queue (R191), its job. -/
def copySlot (c : CSlot) (trap : State → Option Trap) (job : State → Job) : Slot where
  trap := trap
  empty _ := 0
  hold s := s.engineFull c
  act s := s.enterJob (job s)

/-- CPY (R194). Where the handles disagree in count, TVAL names `hd` (log 55). -/
def meaningCpy (c : CSlot) (hs hd : HReg) (n : BitVec 3) (ar : Bool) (rcn : BitVec 4) (nsat cons : Bool) (i : Instr) : Slot :=
  copySlot c
    (fun s =>
      let (a, b) := (s.hreg hs, s.hreg hd)
      let k := cslotNo c
      if cpyIllop a b nsat then some (illopOf k i)
      else (handleRule k hs a (s.copyHandle a)).orElse fun _ => handleRule k hd b (s.copyHandle b && hCount a == hCount b))
    fun s => { s.newJob c (.cpy rcn nsat cons) (s.hreg hs) (s.hreg hd) n (chunkCount (hCount (s.hreg hd)) (hElemBits (s.hreg hd))) with
      named := [hs, hd], hs := some hs, hd := some hd, ar := ar }

/-- CPYR (R196). Where the handles disagree, TVAL names `hd` (log 55). -/
def meaningCpyr (c : CSlot) (hs hd : HReg) (n : BitVec 3) (ar : Bool) (op : AtomOp) : Slot :=
  copySlot c
    (fun s =>
      let (a, b) := (s.hreg hs, s.hreg hd)
      let k := cslotNo c
      (handleRule k hs a (s.copyHandle a)).orElse fun _ => handleRule k hd b (s.copyHandle b && cpyrShape a b op))
    fun s => { s.newJob c (.cpyr op) (s.hreg hs) (s.hreg hd) n (chunkCount (hCount (s.hreg hd)) (hElemBits (s.hreg hd))) with
      named := [hs, hd], hs := some hs, hd := some hd, ar := ar }

/-- GATH and SCAT (R195, R357). Where the list and the rows disagree, TVAL names `hx` (log 55). -/
def meaningGather (c : CSlot) (scatter : Bool) (hs hd : HReg) (n : BitVec 3) (ar : Bool) (hx : HReg) : Slot :=
  let row := fun (s : State) => if scatter then s.hreg hd else s.hreg hs
  copySlot c
    (fun s =>
      let (a, b, x) := (s.hreg hs, s.hreg hd, s.hreg hx)
      let k := cslotNo c
      let other := if scatter then a else b
      ((handleRule k hs a (s.copyHandle a)).orElse fun _ => handleRule k hd b (s.copyHandle b)).orElse fun _ =>
        if s.gatherShape (row s) other x then none else some (handleTrap k hx))
    fun s => { s.newJob c (if scatter then .scat else .gath) (s.hreg hs) (s.hreg hd) n
        (chunkCount (hCount (s.hreg hx) * dim1s (hDim0 (row s))) (hElemBits (row s))) with
      idx := s.hreg hx, named := [hs, hd, hx], hs := some hs, hd := some hd, ar := ar }

/-- CHAIN: the channel starts at BASE; it completes at issue (R199, R335). -/
def meaningChain (c : CSlot) (hs : HReg) (ch : BitVec 3) : Slot where
  trap s := let h := s.hreg hs
            if handleOk h && hKind h == 3 && (hBase h).toNat % 128 == 0 then none else some (handleTrap (cslotNo c) hs)
  empty _ := 0
  hold s := s.chan[ch.toNat].walking
  act s := s.setChan ch { walking := true, next := hBase (s.hreg hs), bundle := s.rs.pc, ctx := s.ctx.id, atp := s.ctx.csr.atp,
                          sup := s.mode == .s, slot := c }

/-- The core's position in its cluster. -/
def State.position (s : State) : BitVec 3 := s.coreNum.setWidth 3

def busKind (h : Handle) : Bool := handleOk h && (hKind h == 1 || hKind h == 2)

/-- BDRV (R202, R327): an empty mask drives nothing. -/
def meaningBdrv (c : CSlot) (hs : HReg) (n : BitVec 3) (mask : BitVec 8) : Slot :=
  copySlot c (fun s => handleRule (cslotNo c) hs (s.hreg hs) (busKind (s.hreg hs)))
    fun s =>
      let m := mask &&& ~~~(BitVec.ofNat 8 (2 ^ s.position.toNat))
      { s.newJob c (.bdrv m) (s.hreg hs) 0 n (if m = 0 then 0 else patternBeats (s.hreg hs)) with named := [hs], hs := some hs }

def meaningBlat (c : CSlot) (hd : HReg) (n : BitVec 3) (pos : BitVec 3) (i : Instr) : Slot :=
  copySlot c
    (fun s => if pos = s.position then some (illopOf (cslotNo c) i) else handleRule (cslotNo c) hd (s.hreg hd) (busKind (s.hreg hd)))
    fun s => { s.newJob c (.blat pos) 0 (s.hreg hd) n (patternBeats (s.hreg hd)) with named := [hd], hd := some hd }

/-- WSTR (R178): the counter is ecn, whatever CCFG holds. -/
def meaningWstr (c : CSlot) (hs hd : HReg) (n : BitVec 3) (wb1 : Bool) (mask : BitVec 2) : Slot :=
  copySlot c
    (fun s =>
      let (a, b) := (s.hreg hs, s.hreg hd)
      if !(handleOk a && weightOk a) then some (handleTrap (cslotNo c) hs)
      else if !(handleOk b && requestOk a b) then some (handleTrap (cslotNo c) hd) else none)
    fun s => { s.newJob c (.wstr wb1 mask) (s.hreg hs) (s.hreg hd) n (hDim2 (s.hreg hd)) with named := [hs, hd], cfg := 0 }

/-- KVCP (R226); its chunks are counted when it reads the acceptance. -/
def meaningKvcp (c : CSlot) (hs hd : HReg) (n : BitVec 3) (ar : Bool) : Slot :=
  copySlot c
    (fun s =>
      let (a, b) := (s.hreg hs, s.hreg hd)
      let k := cslotNo c
      if !handleOk a || !(hKind a == 1 || hKind a == 3) then some (handleTrap k hs)
      else if !handleOk b || !kvcpShape a b then some (handleTrap k hd) else none)
    fun s => { s.newJob c .kvcp (s.hreg hs) (s.hreg hd) n 1 with named := [hs, hd], hs := some hs, hd := some hd, ar := ar }

/-- CNTA: 0 means 256 (R200, R338). -/
def meaningCnta (c : CSlot) (n : BitVec 3) (inc : BitVec 8) : Slot :=
  copySlot c (fun _ => none) fun s =>
    let k := if inc = 0 then 256 else inc.toNat
    { s.newJob c (.cnta k) 0 0 n 0 with inc := BitVec.ofNat 64 k }

def meaningLogf (c : CSlot) (hs hd : HReg) (n : BitVec 3) (ar keep : Bool) (km1 : BitVec 6) : Slot :=
  let k := km1.toNat + 1
  copySlot c
    (fun s =>
      let (a, b) := (s.hreg hs, s.hreg hd)
      if !(handleOk a && logfHs a k) then some (handleTrap (cslotNo c) hs)
      else if !(handleOk b && logfHd a b keep k) then some (handleTrap (cslotNo c) hd) else none)
    fun s => { s.newJob c (.logf keep k) (s.hreg hs) (s.hreg hd) n (logfR (s.hreg hs)) with
      named := [hs, hd], hs := some hs, hd := some hd, ar := ar }

/-! ### The start of a job -/

/-- Whether an earlier copy of the same owner works at the same end of the ring in register `h`: the slot at that end moves as it completes, so copies
at one end follow one another (R194, log 30). -/
def State.ringBusy (s : State) (j : Job) (write : Bool) (h : HReg) : Bool :=
  s.jobs.any fun k => decide (k.id < j.id) && k.ctx == j.ctx && k.sup == j.sup && !k.isBlat
    && (if write then k.hd == some h && hRing k.dst else k.hs == some h && hRing k.src)

/-- A ring handle with the fields it has now, none while FILLED keeps the copy waiting (R194). -/
def State.ringAt (s : State) (j : Job) (r : Option HReg) (img : Handle) (write : Bool) : Option Handle :=
  if !hRing img then some img
  else
    let live := match r with | some h => (s.jobH j h).getD img | none => img
    let img' := setBits (setBits (setBits img 200 8 (hHead live)) 208 8 (hTail live)) 216 8 (hFilled live)
    if write then (if hFilled live < hNslot img then some img' else none)
    else (if 0 < hFilled live then some img' else none)

/-- Chunks of a copy that run at once (R197). -/
def chunkWindow : Nat := 8

/-- The first chunk that has not started: up to eight run at once, in ascending order (R197). -/
def Job.unstarted (j : Job) (chunk : Nat) : Nat :=
  let chunked := match j.op with | .cpy .. | .cpyr _ | .gath | .scat | .kvcp | .logf .. => j.ready | _ => false
  if chunked then ((((List.range j.nch).filter fun c => !j.done.contains c).take chunkWindow).getLastD chunk) + 1 else chunk + 1

/-- A chunk failure noted in its job: the lowest chunk that failed. -/
def State.failChunk (s : State) (j : Job) (chunk : Nat) (f : EngFail × Nat) : State :=
  (s.engFailed j.atp f.1).updJob j.id fun j =>
    let mine : CopyFail := ⟨f.1.cause, f.1.va, f.2, chunk, j.unstarted chunk⟩
    let fail := match j.fail with | some g => if g.chunk < chunk then g else { mine with bound := g.bound } | none => mine
    { j with fail := some fail, failed := chunk :: j.failed }

/-- The acceptance that KVCP copies: the path, where its rows go, the number of the acceptance. -/
abbrev KvPath := List Nat × KvPlace × Nat

/-- What KVCP finds in its slot, read once at its start (R226), with the state that its read requests leave (R124): nothing to copy, a failure with the
number of chunks, or what it copies. -/
def State.kvcpLook (s : State) (j : Job) : Except (EngFail × Nat) (Option KvPath) × State :=
  match s.sqSlot ((hDim2 j.dst : BitVec 12)) with
  | none => (.ok none, s)
  | some q =>
    match s.span q.atp .s .read q.desc 256 with
    | .error f => (.error (f, 1), s)
    | .ok ps =>
      let (bs, s) := s.readPieces none ps
      let d : Desc := BitVec.ofNat 2048 (natOf bs)
      match s.span q.atp .s .read (dAddr d dACCREC) 32 with
      | .error f => (.error (f, 1), s)
      | .ok qs =>
        let (bs, s) := s.readPieces none qs
        let w := natOf bs
        let n := w % 256
        if dGet d dSTATE ≠ qACCEPTING ∨ w / 2 ^ 16 % 2 = 0 then (.ok none, s)
        else if 1 ≤ n ∧ 65536 < hStride2 j.dst + hStride1 j.dst * (2 ^ dGet d dPPLOG : Nat) then
          (.error (⟨.handle, j.dst.extractLsb' 0 48 |>.setWidth 64⟩, n), s)
        else (.ok (some ((List.range n).map (fun k => w / 2 ^ (128 + 8 * k) % 256), ⟨q.atp, dAddr d dKVPT, dGet d dCL, dGet d dPPLOG⟩, q.acc)), s)

/-- The ring handles of a job with the fields they have now, none while a ring or an earlier copy at its end keeps the job waiting. -/
def State.ringsAt (s : State) (j : Job) : Option (Handle × Handle) :=
  if (hRing j.src && j.hs.any (s.ringBusy j false)) || (hRing j.dst && j.hd.any (s.ringBusy j true)) then none
  else match s.ringAt j j.hs j.src false, s.ringAt j j.hd j.dst true with
    | some a, some b => some (a, b)
    | _, _ => none

/-- Start a job: the rings it needs are ready, its acceptance is read, its failure is noted. None while it waits. -/
def State.startJob (s : State) (j : Job) : Option (Job × State) :=
  if j.ready then some (j, s)
  else match s.ringsAt j with
    | none => none
    | some (a, b) =>
      let j1 := { j with src := a, dst := b, ready := true }
      match j.op with
      | .kvcp => match s.kvcpLook j with
        | (.error (f, n), s) =>
          let j2 := { j with nch := n }
          let t := (s.updJob j.id fun _ => j2).failChunk j2 0 (f, 0)
          some ((t.findJob j.id).getD j2, t)
        | (.ok none, s) => let j2 := { j1 with nch := 0 }; some (j2, s.updJob j.id fun _ => j2)
        | (.ok (some (p, kv, acc)), s) =>
          let j2 := { j1 with nch := p.length, path := p, acc := acc + 1, kv := some kv }
          some (j2, s.updJob j.id fun _ => j2)
      | _ => some (j1, s.updJob j.id fun _ => j1)

/-! ### Chunks -/

/-- Base addresses of a job's walks: a ring applies its pattern within one slot (R194). -/
def srcBase (h : Handle) : Word := if hRing h then slotBase h (hHead h) else hBase h
def dstBase (h : Handle) : Word := if hRing h then slotBase h (hTail h) else hBase h

/-- The elements of chunk `c` among `n` of `w` bits. -/
def chunkElems (c n w : Nat) : List Nat :=
  let per := 16384 / w
  (List.range (min per (n - c * per))).map (c * per + ·)

/-- The walk's element count, as CFOFF counts it. -/
def Job.elems (j : Job) : Nat :=
  match j.op with
  | .gath => hCount j.idx * dim1s (hDim0 j.src)
  | .scat => hCount j.idx * dim1s (hDim0 j.dst)
  | .kvcp => j.nch * dim1s (hDim0 j.src)
  | .logf _ _ => j.nch * logfV j.src
  | .cnta _ | .broken _ | .bitmap _ _ => 0
  | .wstr _ _ | .skip _ _ | .wstrIn _ _ => j.nch
  | .bdrv _ => hCount j.src
  | _ => hCount j.dst

/-- The first element of beat `k` of a handle's walk. -/
def beatElem (h : Handle) (k : Nat) : Nat := k / rowBeats h * dim1s (hDim0 h) + 2048 * (k % rowBeats h) / hElemBits h

/-- How a chunk comes out: it waits for a line, or for full granules, fails at an element, or is done. -/
inductive ChunkOut
  | wait
  | starved
  | fail (f : EngFail) (elem : Nat)
  | done (s : State)

def ChunkOut.ofWrite : Except (EngFail × Nat) State → ChunkOut
  | .error (f, e) => .fail f e
  | .ok s => .done s

/-- The granules that a consuming chunk empties: those no other chunk still reads (R116, R194). -/
def State.consumeChunk (s : State) (mine : List (ERun × CPlace)) (others : List ERun) (j : Job) : State :=
  let held := others.flatMap fun r => match s.copyPlace j j.src .read r with
    | .ok (.pieces ps) => ps.map fun (p, n) => (p.pa.toNat / 16, (p.pa.toNat + n - 1) / 16)
    | _ => []
  mine.foldl (fun s (_, p) => match p with
    | .pieces ps => ps.foldl (fun s (p, n) =>
        ((List.range (granCount p.pa.toNat n)).map (p.pa.toNat / 16 + ·)).foldl (fun s g =>
          if held.any (fun (a, b) => a ≤ g && g ≤ b) then s else s.clearGranules (16 * g) 16) s) s
    | .peer _ _ => s) s

/-- A walk's accesses stand in the die's translation cache (R108). -/
def State.dieFillRuns (s : State) (atp : Word) (rs : List (ERun × CPlace)) : State :=
  rs.foldl (fun s x => match x.2 with
    | .pieces _ => (s.dieFill atp x.1.va).dieFill atp (x.1.va + BitVec.ofNat 64 (x.1.bytes - 1))
    | .peer _ _ => s) s

/-- Donations to the job's context end where it writes their words (R54). -/
def State.endBoostRuns (s : State) (j : Job) (rs : List (ERun × CPlace)) : State :=
  rs.foldl (fun s x => match x.2 with | .pieces ps => s.endBoosts j.ctx ps | .peer _ _ => s) s

/-- The failure at the lowest element. -/
def lowestFail (fs : List (Option (EngFail × Nat))) : Option (EngFail × Nat) :=
  (fs.filterMap id).foldl (fun b f => match b with | some g => if f.2 < g.2 then some f else some g | none => some f) none

def errorOf {α : Type} : Except (EngFail × Nat) α → Option (EngFail × Nat)
  | .error f => some f
  | .ok _ => none

/-- How a chunk moves elements: where they come from and go to, in element order, which of those written are 0 with no source, the reader count of the
writes, how a value changes, whether it reduces, whether it consumes, and what the copy's other chunks still read. -/
structure Move where
  src : List EPos
  dst : List EPos
  zero : Nat → Bool := fun _ => false
  rcn : Nat := 0
  conv : Nat → Nat := id
  red : Option (Nat → Nat → Nat) := none
  cons : Bool := false
  rest : List EPos := []

/-- The elements of a move below one. -/
def Move.below (m : Move) (e : Nat) : Move := { m with src := m.src.filter fun x => decide (x.2.2 < e), dst := m.dst.filter fun x => decide (x.2.2 < e) }

/-- The values written, 0 where an element has no source. -/
def fillZeros (zero : Nat → Bool) : List EPos → List Nat → List Nat
  | [], _ => []
  | d :: ds, vs => if zero d.2.2 then 0 :: fillZeros zero ds vs else vs.headD 0 :: fillZeros zero ds vs.tail

/-- The places of a move's reads and writes, or the failure at the lowest element (R198). A reduction's destination needs R and W, as an atomic does (log 49). -/
def State.movePlaces (s : State) (j : Job) (m : Move) : Except (EngFail × Nat) (List (ERun × CPlace) × List (ERun × CPlace)) :=
  let pa := s.copyPlaces j j.src .read (mergeRuns (hElemBits j.src) m.src)
  let pb := s.copyPlaces j j.dst (if m.red.isSome then .atomic else .write) (mergeRuns (hElemBits j.dst) m.dst)
  match lowestFail [errorOf pa, errorOf pb], pa, pb with
  | none, .ok a, .ok b => .ok (a, b)
  | some f, _, _ | none, .error f, _ | none, _, .error f => .error f

/-- Move elements whose places are found. -/
def State.movePlaced (s : State) (j : Job) (m : Move) (a b : List (ERun × CPlace)) : ChunkOut :=
  let ws := hElemBits j.src
  let wd := hElemBits j.dst
  if hFE j.src && a.any (fun x => !s.placeFull x.2) then .starved
  else if b.any (fun x => s.placeLocked x.2) then .wait
  else
    let (vs, t) := (s.dieFillRuns j.atp (a ++ b)).readRuns j.view ws a
    let t := t.endBoostRuns j b
    let t := if hFE j.src && m.cons then t.consumeChunk a (mergeRuns ws m.rest) j else t
    match m.red with
    | some f => .ofWrite (t.reduceRuns f wd b (vs.map m.conv))
    | none => .ofWrite (t.writeRuns m.rcn wd b (fillZeros m.zero m.dst (vs.map m.conv)))

/-- A chunk that moves elements. `late` is a failure known of a later element. The lowest element that fails counts (R198): where a read, a write's place or
an index fails at one, a one-line commit below it may still be refused. -/
def State.moveChunk (s : State) (j : Job) (m : Move) (late : Option (EngFail × Nat)) : ChunkOut :=
  match lowestFail [errorOf (s.movePlaces j m), late], s.movePlaces j m with
  | none, .ok (a, b) => s.movePlaced j m a b
  | none, .error (f, e) => .fail f e
  | some (f, e), _ => match s.movePlaces j (m.below e) with
    | .error _ => .fail f e
    | .ok (a, b) => match s.movePlaced j (m.below e) a b with
      | .wait => .wait
      | .fail g i => .fail g i
      | .starved | .done _ => .fail f e

/-- The reader count that a copy's writes carry (R123, R339). -/
def Job.rcn (j : Job) : Nat := match j.op with | .cpy n _ _ => if hRC j.dst then n.toNat else 0 | _ => 0

/-- d op s of CPYR (R196). -/
def reduceOp (op : AtomOp) (b : BitVec 4) (d x : Nat) : Nat :=
  match EType.fmt? (etypeOf b) with
  | some f => (fpAdd f false .rne d x).1
  | none => atomNew op d x (if b = 11 then 8 else 4)

def posOf (p : Word × Nat) (e : Nat) : EPos := (p.1, p.2, e)

/-- A chunk of CPY or CPYR. -/
def State.cpyChunk (s : State) (j : Job) (c : Nat) (conv : Nat → Nat) (red : Option (Nat → Nat → Nat)) (cons : Bool) : ChunkOut :=
  let n := hCount j.dst
  let es := chunkElems c n (hElemBits j.dst)
  let at' := fun (e : Nat) => posOf (walkElem j.src (srcBase j.src) e) e
  let rest := if hFE j.src && cons then
      (((List.range j.nch).filter fun k => k != c && !j.done.contains k).flatMap fun k => chunkElems k n (hElemBits j.dst)).map at'
    else []
  s.moveChunk j { src := es.map at', dst := es.map fun e => posOf (walkElem j.dst (dstBase j.dst) e) e, rcn := j.rcn, conv := conv, red := red,
                  cons := cons, rest := rest } none

/-- Index `i` of hx with its address and what the read leaves, or why it cannot be read. -/
def State.indexAt (s : State) (j : Job) (i : Nat) : Except EngFail (Int × Word × State) :=
  let va := (walkElem j.idx (hBase j.idx) i).1
  match s.span j.atp j.mode .read va 4 with
  | .error f => .error f
  | .ok ps =>
    let (bs, t) := s.readPieces j.view ps
    .ok ((BitVec.ofNat 32 (natOf bs)).toInt, va, t)

/-- Whether a granule of an index is empty where hx has FE set: the engine reads the indices as it reads a source, as peek (R357). -/
def State.indexEmpty (s : State) (j : Job) (i : Nat) : Bool :=
  hFE j.idx && match s.span j.atp j.mode .read (walkElem j.idx (hBase j.idx) i).1 4 with
    | .error _ => false
    | .ok ps => !s.piecesFull ps

/-- The indices of the rows that a chunk touches, up to the first that cannot be read or lies outside the handle's rows, with that failure (R195). Of an index out of
range CFVA holds the index's own address (log 31). -/
def State.rowIndices (s : State) (j : Job) (row : Handle) (d0 : Nat) : List Nat → List (Nat × Int) × Option (EngFail × Nat) × State
  | [] => ([], none, s)
  | i :: is =>
    match s.indexAt j i with
    | .error f => ([], some (f, i * d0), s)
    | .ok (x, va, s) =>
      if x < -1 ∨ (dim1s (hDim1 row) : Int) ≤ x then ([], some (⟨.handle, va⟩, i * d0), s)
      else
        let (r, f, s) := s.rowIndices j row d0 is
        ((i, x) :: r, f, s)

/-- A chunk of GATH or SCAT (R195). -/
def State.gatherChunk (s : State) (j : Job) (c : Nat) (scatter : Bool) : ChunkOut :=
  let row := if scatter then j.dst else j.src
  let d0 := dim1s (hDim0 row)
  let es := chunkElems c j.elems (hElemBits row)
  let rows := (es.map (· / d0)).eraseDups
  if rows.any (s.indexEmpty j) then .starved
  else
  let (xs, bad, s) := s.rowIndices j row d0 rows
  let late := bad.map fun (f, e) => (f, max e (es.headD 0))
  let es := match bad with | some (_, e) => es.filter (decide <| · < e) | none => es
  let ix := fun (e : Nat) => match xs.find? (·.1 == e / d0) with | some p => p.2 | none => -1
  let live := es.filter fun e => ix e != -1
  let rowPos := fun (h : Handle) (base : Word) (e : Nat) => posOf (rowElem h base (ix e).toNat 0 (e % d0)) e
  let walkPos := fun (h : Handle) (base : Word) (e : Nat) => posOf (rowWalk h base (e / d0) (e % d0)) e
  if scatter then
    s.moveChunk j { src := live.map (walkPos j.src (srcBase j.src)), dst := live.map (rowPos j.dst (dstBase j.dst)) } late
  else
    s.moveChunk j { src := live.map (rowPos j.src (srcBase j.src)), dst := es.map (walkPos j.dst (dstBase j.dst)), zero := fun e => ix e == -1 } late

/-- A row of KVCP, to the cache slot that CL, KVPT and PPLOG give as the copy read them at its start (R226). -/
def State.kvcpChunk (s : State) (j : Job) (k : Nat) : ChunkOut :=
  match j.kv with
  | none => .done s
  | some kv =>
    let d0 := dim1s (hDim0 j.src)
    let slot := kv.first + k
    let pp := 2 ^ kv.pplog
    match s.span kv.atp .s .read (kv.kvpt + BitVec.ofNat 64 (8 * (slot / pp))) 8 with
    | .error f => .fail f (k * d0)
    | .ok ps =>
      let (bs, s) := s.readPieces none ps
      let base := BitVec.ofNat 64 (natOf bs) + BitVec.ofInt 64 (hStride2 j.dst + hStride1 j.dst * (slot % pp : Nat))
      let es := List.range d0
      s.moveChunk j { src := es.map fun e => posOf (rowElem j.src (hBase j.src) (j.path.getD k 0) 0 e) (k * d0 + e),
                      dst := es.map fun e => posOf (rowElem j.dst base 0 0 e) (k * d0 + e) } none

/-! ### The logit filter (R262) -/

def posInf32 : Nat := 0x7F800000
def maxFin32 : Nat := 0x7F7FFFFF

/-- An input as the filter reads it. -/
def logitOf (t : EType) (n : Nat) : Nat :=
  let y := (convert .f32 t false .rne n).1
  if (fmtF32.decode y).isNaN then negInf32 else if y = posInf32 then maxFin32 else y

/-- Whether an input is NaN or infinite. -/
def logitSpecial (t : EType) (n : Nat) : Bool :=
  let y := (convert .f32 t false .rne n).1
  (fmtF32.decode y).isNaN || y == posInf32 || y == negInf32

def gt32 (a b : Nat) : Bool := decide (0 < FV.cmp (fmtF32.decode a) (fmtF32.decode b))

/-- e2(a − b): 2 to the exact difference. -/
def e2diff (a b : Nat) : Nat :=
  (roundTo fmtF32 false .rne (Trans.exp2.value (FV.add false (fmtF32.decode a) (fmtF32.decode b).neg).1)).1

/-- One element of the running maximum and sum. -/
def softStep (m : Nat × Nat) (y : Nat) : Nat × Nat :=
  if m.1 = negInf32 ∧ y = negInf32 then m
  else if gt32 y m.1 then (y, add32 (fpMul fmtF32 false .rne m.2 (e2diff m.1 y)).1 0x3F800000)
  else (m.1, add32 m.2 (e2diff y m.1))

/-- Keep the K largest, in descending value, ties at the lower index. -/
def topInsert (k : Nat) (x : Nat × Nat) : List (Nat × Nat) → List (Nat × Nat)
  | l => (insertBy (fun a b => gt32 a.1 b.1) x l).take k

/-- The record of a row of filtered values (R212, R262). -/
def logitRecord (k : Nat) (ys : List Nat) : List Byte × Nat :=
  let (m, sum) := ys.foldl softStep (negInf32, 0)
  let top := (ys.zip (List.range ys.length)).foldl (fun l x =>
    if l.length < k || gt32 x.1 (l.getLastD (0, 0)).1 then topInsert k x l else l) []
  (bytesOf 4 m ++ bytesOf 4 sum ++ bytesOf 4 k ++ bytesOf 4 0 ++ top.flatMap (fun x => bytesOf 4 x.1 ++ bytesOf 4 x.2), m)

/-- Write the outputs of a row: each an address, bytes, and the element that a byte of it counts as. -/
def State.writeOuts (s : State) : List (CPlace × Word × List Byte × (Nat → Nat)) → Except (EngFail × Nat) State
  | [] => .ok s
  | (p, va, bs, elem) :: r => match s.writePlace 0 p bs with
    | .error o => .error (⟨.vstate, va + BitVec.ofNat 64 o⟩, elem o)
    | .ok t => t.writeOuts r

/-- A row of LOGF: its record counts as its first element, an exponential as its own (R198, R263). -/
def State.logfChunk (s : State) (j : Job) (keep : Bool) (k r : Nat) : ChunkOut :=
  let v := logfV j.src
  let d0 := hDim0 j.src
  let w := hElemBits j.src
  let t := etypeOf (hEtypeBits j.src)
  let es := (List.range v).map fun e => posOf (rowElem j.src (hBase j.src) (e / d0) r (e % d0)) (r * v + e)
  match s.copyPlaces j j.src .read (mergeRuns w es) with
  | .error (f, e) => .fail f e
  | .ok a =>
    if hFE j.src && a.any (fun x => !s.placeFull x.2) then .starved
    else
      let (xs, t') := (s.dieFillRuns j.atp a).readRuns j.view w a
      let ys := xs.map (logitOf t)
      let (rec, m) := logitRecord k ys
      let outs : List (ERun × List Byte × (Nat → Nat)) :=
        (⟨hBase j.dst + BitVec.ofNat 64 (r * (16 + 8 * k)), 0, 8 * rec.length, [r * v]⟩, rec, fun _ => r * v) ::
        (if keep then [(⟨hBase j.dst + BitVec.ofInt 64 (hStride2 j.dst) + BitVec.ofNat 64 (4 * v * r), 0, 32 * v, (List.range v).map (r * v + ·)⟩,
          ys.flatMap (fun y => bytesOf 4 (if m = negInf32 then 0 else e2diff y m)), fun o => r * v + o / 4)] else [])
      let place := fun (o : ERun × List Byte × (Nat → Nat)) => match s.copyPlace j j.dst .write o.1 with
        | .error f => (.error (f, o.2.2 (f.va.toNat - o.1.va.toNat)) : Except (EngFail × Nat) CPlace)
        | .ok p => .ok p
      match outs.mapM place with
      | .error (f, e) => .fail f e
      | .ok b =>
        if b.any s.placeLocked then .wait
        else
          let runs := (outs.zip b).map fun x => (x.1.1, x.2)
          let t' := (t'.dieFillRuns j.atp runs).endBoostRuns j runs
          match t'.writeOuts ((b.zip outs).map fun x => (x.1, x.2.1.va, x.2.2.1, x.2.2.2)) with
          | .error (f, e) => .fail f e
          | .ok u => .done (if xs.any (logitSpecial t) && !j.orphan then u.postTo j.ctx 0x0021 (engineCode j.slot) (BitVec.ofNat 8 r) j.bundle
                             else u)

/-! ### COPY_CHUNK -/

/-- Whether chunk `c` of a job may run: not yet done, within the window, and started before a failure was met (R197, R198). -/
def Job.mayRun (j : Job) (c : Nat) : Bool :=
  decide (c < j.nch) && !j.done.contains c && !j.addPending
    && decide (((List.range c).filter fun k => !j.done.contains k).length < chunkWindow)
    && (match j.fail with | some f => decide (c < f.bound) && !j.failed.contains c | none => true)

def State.runChunk (s : State) (j : Job) (c : Nat) : ChunkOut :=
  match j.op with
  | .cpy _ nsat cons =>
    let (a, b) := (hEtypeBits j.src, hEtypeBits j.dst)
    s.cpyChunk j c (if a = b then id else fun x => (convert (etypeOf b) (etypeOf a) nsat .rne x).1) none cons
  | .cpyr op => s.cpyChunk j c id (some (reduceOp op (hEtypeBits j.dst))) false
  | .gath => s.gatherChunk j c false
  | .scat => s.gatherChunk j c true
  | .kvcp => s.kvcpChunk j c
  | .logf keep k => s.logfChunk j keep k c
  | _ => .wait

/-- The SQM's write of a bitmap into the SPM of the context that asked: a failure is the DMP's to note, for no reply waits for it (R219). -/
def State.bitmapWrite (s : State) (j : Job) (va : Word) (bs : List Byte) : State :=
  let own : State := { s with wctx := j.ctx }
  match own.span j.atp .u .write va bs.length with
  | .error f => (s.logError f.cause.code f.va).endJob j.id
  | .ok ps => match own.writePieces 0 ps bs with
    | .error _ => s.endJob j.id
    | .ok t => ({ t with wctx := s.wctx } : State).endJob j.id

def State.copyChunk (s : State) (id c : Nat) : State :=
  match s.findJob id with
  | none => s
  | some j =>
    match j.op with
    | .bitmap va bits => s.bitmapWrite j va (bytesOf 512 bits.toNat)
    | _ =>
    if !s.started j || !s.gateOpen j || !j.mayRun c then s
    else match s.startJob j with
      | none => s
      | some (j, s) =>
        if !j.mayRun c then s
        else match s.runChunk j c with
          | .wait | .starved => s
          | .fail f e => s.failChunk j c (f, e)
          | .done t => t.updJob id fun j => { j with done := j.done ++ [c] }

/-! ### COPY_COMPLETE (R141, R192, R193) -/

/-- An atomic ADD at a counter's home (R133): wait, a failure, or done. A misaligned address fails with ALIGN (log 49). -/
def State.addCounter (s : State) (j : Job) (va inc : Word) : ChunkOut :=
  match s.translate j.atp j.mode .atomic true va 8 with
  | .error f => .fail ⟨f.1, va⟩ j.elems
  | .ok p =>
    let a := p.pa.toNat
    let s := s.evictL1 a 8
    if p.v && placeOf a == .hbm then
      if s.lineLocked (lineOf a) then .wait
      else
        let old := natOf (lineBytes (s.viewLine none (lineOf a)) (a - lineOf a) 8)
        match s.oneLineCommit a (bytesOf 8 (BitVec.ofNat 64 old + inc).toNat) with
        | none => .fail ⟨.vstate, va⟩ j.elems
        | some t => .done ((t.retag p).endBoosts j.ctx [(p, 8)])
    else .done ((((s.uncount a).retag p).writePa a (bytesOf 8 (BitVec.ofNat 64 (s.numPa a 8) + inc).toNat)).endBoosts j.ctx [(p, 8)])

/-- Whether every read and write of a job is performed: CNTA waits for every copy issued before it (R200). -/
def State.jobDone (s : State) (j : Job) : Bool :=
  s.started j && j.fail.isNone &&
    match j.op with
    | .cnta _ => !(s.jobs.any fun k => decide (k.id < j.id) && k.chain.isNone && !CopyOp.aside k.op)
    | .kvcp => j.ready && decide (j.nch ≤ j.done.length)
    | .bdrv _ => decide (j.nch ≤ j.done.length) && (j.ready || (s.ringsAt j).isSome)      -- one that drives nothing pops a slot all the same
    | .skip _ _ | .wstrIn _ _ | .bitmap _ _ => false
    | _ => decide (j.nch ≤ j.done.length)

/-- The completion counter rises: the local one at the tick boundary, or the memory counter at its home; a chain record whose counter address is 0 has none. -/
def State.countDone (s : State) (j : Job) : ChunkOut :=
  if j.cfg.getLsbD 63 then
    (if j.chain.isSome ∧ j.cfg.extractLsb' 0 48 = (0 : BitVec 48) then .done s else s.addCounter j ((j.cfg.extractLsb' 0 48).setWidth 64) j.inc)
  else if j.orphan then .done s
  else .done (s.deliverLater j.ctx (.count j.ctr (j.inc.setWidth 32)))

/-- Where OWN of a chain record stands, or the failure of its write. -/
def State.ownByte (s : State) (j : Job) (rec : Word) : Except EngFail (List (Pa × Nat)) := s.span j.atp j.mode .write (rec + 7) 1

/-- The engine clears OWN, with release, as the record's last act (R142, R199). -/
def State.clearOwn (s : State) (j : Job) : ChunkOut :=
  match j.chain with
  | none => .done s
  | some (_, rec) => match s.ownByte j rec with
    | .error f => .fail f j.elems
    | .ok ps =>
      if s.piecesLocked ps then .wait
      else match s.writePieces 0 ps [BitVec.ofNat 8 (natOf (s.readPieces none ps).1 % 128)] with
        | .error _ => .fail ⟨.vstate, rec⟩ j.elems
        | .ok t => .done t

/-- The rings' fields move by one slot (R194, R202). -/
def State.moveRings (s : State) (j : Job) : State :=
  let s := match j.hs with | some h => if hRing j.src then s.updJobH j h false 1 else s | none => s
  match j.hd with | some h => if hRing j.dst then s.updJobH j h true 1 else s | none => s

/-- KVCP counts toward KVN before its counter rises (R226). -/
def State.countKv (s : State) (j : Job) : Option State :=
  match j.op with
  | .kvcp => if j.acc = 0 then some s else s.kvDone ((hDim2 j.dst : BitVec 12)) (j.acc - 1)
  | _ => some s

/-- The copy's every chunk is done: the ADD or the record's OWN may still fail, with F = NCH (R192). -/
def State.copyComplete (s : State) (id : Nat) : State :=
  match s.findJob id with
  | none => s
  | some j =>
    if !s.jobDone j || !s.gateOpen j then s
    else
      let late := fun (f : EngFail) => (s.engFailed j.atp f).updJob id fun j => { j with fail := some ⟨f.cause, f.va, j.elems, j.nch, j.nch⟩, addPending := true }
      match s.countDone j with
      | .wait | .starved => s
      | .fail f _ => late f
      | .done t => match t.clearOwn j with
        | .wait | .starved => s
        | .fail f _ => late f
        | .done t => match t.countKv j with
          | none => s
          | some t => (t.moveRings j).endJob id

/-! ### COPYFAULT (R198) -/

def CopyOp.code : CopyOp → BitVec 5
  | .cpy .. => 1 | .cpyr _ => 2 | .gath => 3 | .scat => 4 | .bdrv _ => 6 | .blat _ => 7 | .wstr .. => 8 | .kvcp => 9 | .cnta _ => 10
  | .logf .. => 11 | .skip _ _ | .wstrIn _ _ => 8 | .broken op => op | .bitmap _ _ => 0

/-- A cause for a context of the core: pending where it runs, kept with it where it does not. -/
def State.pendTo (s : State) (id : BitVec 16) (t : Trap) : State :=
  if s.live && s.ctx.id == id then s.pend t else s.updCtx id fun c => { c with pend := c.pend ++ [t] }

def copyTrap (s : State) : Trap :=
  { cause := .copyfault, kind := .asynchronous, slot := 7, tbaddr := 0, ttick := s.rs.tick, tval := 0 }

/-- The record of a failed copy. -/
def Job.record (j : Job) (f : CopyFail) : FaultRec :=
  { valid := true, cause := f.cause.code, ctr := j.ctr, op := j.op.code,
    cfba := (match j.chain with | some (_, rec) => rec | none => j.bundle).setWidth 48, cfva := f.va.setWidth 48,
    cfoff := BitVec.ofNat 64 f.elem, nch := BitVec.ofNat 32 j.nch, first := BitVec.ofNat 32 f.chunk,
    mask := BitVec.ofNat 64 ((List.range 64).foldl (fun a i => if j.done.contains (f.chunk + i) then a + 2 ^ i else a) 0), job := some j.id }

def State.copyfault (s : State) (id : Nat) : State :=
  match s.findJob id with
  | none => s
  | some j =>
    match j.op, j.fail with
    | .skip pos nb, _ =>
      if s.frec.valid then s
      else ({ s with
          jobs := s.jobs.filter (·.id != id),
          frec := { valid := true, cause := Cause.prot.code, ctr := j.ctr, op := 8, cfba := j.bundle.setWidth 48, cfva := 0,
                    cfoff := BitVec.ofNat 64 pos, nch := BitVec.ofNat 32 nb, first := BitVec.ofNat 32 nb, mask := 0, job := none } } : State).pendTo
        j.ctx (copyTrap s)
    | _, none => s
    | _, some f =>
      if !j.addPending && (List.range f.bound).any (fun k => !j.done.contains k && !j.failed.contains k) then s
      else if j.orphan then
        (match j.chain with | some (ch, _) => s.setChan ch { s.chan[ch.toNat] with walking := false } | none => s).endJob id
          |>.logError f.cause.code f.va
      else if s.frec.valid || s.frec.job == some id then s
      else
        let s := match j.chain with | some (ch, _) => s.setChan ch { s.chan[ch.toNat] with walking := false } | none => s
        { s with frec := j.record f }.pendTo j.ctx (copyTrap s)

/-! ### CHAIN_RECORD (R142, R199) -/

/-- The job of a chain record, none where the record breaks a rule (Table 9.4); bits that Table 9.1 gives no meaning are ignored (R8). -/
def State.recordJob (s : State) (ch : BitVec 3) (c : Chain) (r : BitVec 1024) : Option Job :=
  let w := r.extractLsb' 0 64
  let next := r.extractLsb' 64 64
  let src := r.extractLsb' 128 256
  let dst := r.extractLsb' 384 256
  let ctr : BitVec 48 := r.extractLsb' 640 48
  let inc := r.extractLsb' 704 64
  let loc := w.getLsbD 59
  let mode : BitVec 8 := w.extractLsb' 0 8
  let rules := next.toNat % 128 == 0 && next.extractLsb' 48 16 == (0 : BitVec 16) && (loc || ctr.toNat % 8 == 0)
    && r.extractLsb' 768 256 == (0 : BitVec 256)
    && s.copyHandle src && s.copyHandle dst && ringOk src && ringOk dst && hCount src == hCount dst
  let op : Option CopyOp :=
    match (w.extractLsb' 8 5).toNat with
    | 1 => if cpyIllop src dst (mode.getLsbD 2) then none
           else some (.cpy (mode.extractLsb' 3 4) (mode.getLsbD 2) (mode.getLsbD 1))
    | 2 => match AtomOp.ofBits (mode.extractLsb' 0 4) with
             | some o => if o != AtomOp.swap && cpyrShape src dst o then some (.cpyr o) else none
             | none => none
    | _ => none
  match rules, op with
  | true, some op =>
    some { id := s.seq, op := op, slot := c.slot, ctx := c.ctx, atp := c.atp, sup := c.sup, bundle := c.bundle, src := src, dst := dst, idx := 0,
           named := [], hs := none, hd := none, ctr := w.extractLsb' 56 3,
           cfg := if loc then 0 else BitVec.ofNat 64 (2 ^ 63 + (w.extractLsb' 60 3).toNat * 2 ^ 60 + ctr.toNat),
           inc := if loc then 1 else inc, ar := mode.getLsbD 7, before := s.seq,
           view := (s.findCtx c.ctx).bind Ctx.copyView, chain := some (ch, c.next), nch := chunkCount (hCount dst) (hElemBits dst),
           done := [], path := [], acc := 0, ready := false, fail := none, failed := [], addPending := false,
           orphan := !(s.findCtx c.ctx).any (!·.dead) }
  | _, _ => none

/-- A record that cannot be read or breaks a rule: a job without chunks that has failed, with the OP and CSEL of the record, 0 where it could not be read
(log 49). -/
def State.brokenRecord (s : State) (ch : BitVec 3) (c : Chain) (op : BitVec 5) (csel : BitVec 3) (f : EngFail) : State :=
  let j : Job :=
    { id := s.seq, op := .broken op, slot := c.slot, ctx := c.ctx, atp := c.atp, sup := c.sup, bundle := c.bundle, src := 0, dst := 0,
      idx := 0, named := [], hs := none, hd := none, ctr := csel, cfg := 0, inc := 0, ar := false, before := s.seq, view := none,
      chain := some (ch, c.next), nch := 0, done := [], path := [], acc := 0, ready := false, fail := some ⟨f.cause, f.va, 0, 0, 0⟩, failed := [],
      addPending := false, orphan := !(s.findCtx c.ctx).any (!·.dead) }
  { s with seq := s.seq + 1, jobs := s.jobs ++ [j] }

/-- The channel stops and says so (R199). -/
def State.chanStop (s : State) (ch : BitVec 3) (c : Chain) : State :=
  (s.setChan ch { c with walking := false }).postTo c.ctx 0x0011 (engineCode c.slot) (ch.setWidth 8) c.bundle

def State.chainRecord (s : State) (ch : BitVec 3) : State :=
  let c := s.chan[ch.toNat]
  if !c.walking || s.jobs.any (fun j => j.chain.any (·.1 == ch)) then s
  else if c.next = 0 then s.chanStop ch c
  else match s.span c.atp (if c.sup then .s else .u) .read c.next 128 with
    | .error f => (s.engFailed c.atp f).brokenRecord ch c 0 0 f
    | .ok ps =>
      let (bs, s) := s.readPieces none ps
      let r := BitVec.ofNat 1024 (natOf bs)
      if !r.getLsbD 63 then s.chanStop ch c
      else match s.recordJob ch c r with
        | none => s.brokenRecord ch c (r.extractLsb' 8 5) (r.extractLsb' 56 3) ⟨.handle, c.next⟩
        | some j => { s with jobs := s.jobs ++ [j], seq := s.seq + 1 }.setChan ch { c with next := r.extractLsb' 64 64 }

/-! ### WB_ENTRY_FILL (R25, R97, R178 to R180) -/

/-- Offsets of a descriptor's planes (R78) and the rows of its unit. -/
def planeB (h : Handle) : Nat := (h.extractLsb' 112 22).toNat * 4096
def planeC (h : Handle) : Nat := (h.extractLsb' 134 22).toNat * 4096
def planeS (h : Handle) : Nat := (h.extractLsb' 156 20).toNat * 4096

/-- A page with W set gives no weights, whatever else a read of it would meet: PROT with its address (R25). -/
def State.weightPage (s : State) (j : Job) (a : Nat) : Option EngFail :=
  match s.leafIn j.atp a with
  | some l => if l.flags.getLsbD 3 ∧ a < 2 ^ 48 then some ⟨.prot, BitVec.ofNat 64 (a / 2 ^ l.bits * 2 ^ l.bits)⟩ else none
  | none => none

def spanFail {α : Type} : Except EngFail α → Option EngFail
  | .error f => some f
  | .ok _ => none

/-- Read weights, in the view that the WSTR took at issue (R153): W set in a page fails with that page's address (R25). A cell written through another mapping
while it is streamed gives its old or its new byte (R144): the model delivers the byte that memory holds at this step (log 49). -/
def State.weightRead (s : State) (j : Job) (va : Word) (n : Nat) : Except EngFail (List Byte) :=
  match (piecesOf va n).findSome? fun (a, k) => (s.weightPage j a).or (spanFail (s.span j.atp j.mode .read (BitVec.ofNat 64 a) k)) with
  | some f => .error f
  | none => match s.span j.atp j.mode .read va n with
    | .error f => .error f
    | .ok ps => .ok (s.readPieces j.view ps).1

/-- Field `k` of `w` bits of a row of bytes. -/
def packedAt (w : Nat) (bs : List Byte) (i : Nat) : Nat := (bs.getD (w * i / 8) 0).toNat / 2 ^ (w * i % 8) % 2 ^ w

/-- The code of element k of row r at the delivered width: padding is 0x80 (R94, R96, R97). -/
def codeAt (mask : BitVec 2) (a b c : List Byte) (rows ks r k : Nat) : Nat :=
  let full := if rows ≤ r ∨ ks ≤ k then 0x80
    else packedAt 2 a (64 * r + k) * 64 + packedAt 2 b (64 * r + k) * 16 + packedAt 4 c (64 * r + k)
  if mask = 1 then full / 64 else if mask = 2 then full / 16 else full

/-- One unit as a WB entry (R96, R179). The super-scales start at the first 256-byte boundary at or after the scale codes: where these end on one, at that one
(log 49). -/
def State.weightUnit (s : State) (j : Job) (mask : BitVec 2) (g b : Nat) : Except EngFail WbEntry := do
  let h := j.src
  let u := g * hDim2 h + b
  let base := hBase h
  let units := (hDim0 h + 159) / 160
  let supers := planeS h + (units * hDim2 h * 160 + 255) / 256 * 256
  let groups := (hDim2 h + 255) / 256
  let rows := min 160 (hDim0 h - 160 * g)
  let ks := min 64 (hDim1 h - 64 * b)
  let pa ← s.weightRead j (base + BitVec.ofNat 64 (2560 * u)) 2560
  let pb ← if mask = 1 then pure [] else s.weightRead j (base + BitVec.ofNat 64 (planeB h + 2560 * u)) 2560
  let pc ← if mask = 3 then s.weightRead j (base + BitVec.ofNat 64 (planeC h + 5120 * u)) 5120 else pure []
  let sc ← s.weightRead j (base + BitVec.ofNat 64 (planeS h + 160 * u)) 160
  let ss ← (List.range rows).mapM fun r => s.weightRead j (base + BitVec.ofNat 64 (supers + 4 * ((160 * g + r) * groups + b / 256))) 4
  return { width := mask,
           codes := BitVec.ofNat 81920 (packLanes 8 ((List.range 10240).map fun i => codeAt mask pa pb pc rows ks (i / 64) (i % 64))),
           scales := BitVec.ofNat 1280 (packLanes 8 ((List.range 160).map fun r => if r < rows then (sc.getD r 0).toNat else 0)),
           supers := BitVec.ofNat 5120 (packLanes 32 (ss.map natOf)), rows := rows, ks := ks }

/-- Whether the core at a position of the cluster runs a context of a kernel (R180). -/
def State.runsKernel (s : State) (kernel pos : Nat) : Bool :=
  if pos = s.position.toNat then s.live && s.ctx.kernel == kernel
  else match s.kernels.find? (·.id == kernel) with
    | some k => k.live.contains (s.coreNum.toNat / 8 * 8 + pos)
    | none => false

/-- The destination on this core as a context's ID + 1, 0 for none, and the positions skipped. -/
def State.wstrTarget (s : State) (j : Job) : Nat × List Nat :=
  let mask := (List.range 8).filter (j.dst.extractLsb' 192 8).getLsbD
  match s.findCtx j.ctx with
  | none => (0, [])
  | some c =>
    if mask.isEmpty then (c.id.toNat + 1, [])
    else (if mask.contains s.position.toNat && s.runsKernel c.kernel s.position.toNat then s.ctx.id.toNat + 1 else 0,
          mask.filter fun p => !s.runsKernel c.kernel p)

/-- A WSTR starts: its destinations are known, and a skip is reported beside it. -/
def State.startWstr (s : State) (j : Job) : Job × State :=
  if j.ready then (j, s)
  else
    let (t, skipped) := s.wstrTarget j
    let j1 := { j with ready := true, acc := t, done := if t = 0 then List.range j.nch else [] }
    let s := s.updJob j.id fun _ => j1
    match skipped with
    | [] => (j1, s)
    | p :: _ => (j1, { s with seq := s.seq + 1, jobs := s.jobs ++ [{ j1 with id := s.seq, op := .skip p j.nch, named := [], done := [] }] })

/-- The weight buffer and width of a request, the core's own or another's. -/
def CopyOp.weights : CopyOp → Option (Bool × BitVec 2)
  | .wstr wb1 mask | .wstrIn wb1 mask => some (wb1, mask)
  | _ => none

/-- The next block of a request enters its WB, if no earlier request still fills it and it has a free entry. -/
def State.wbNext (s : State) (j : Job) (wb1 : Bool) (mask : BitVec 2) : State :=
  let b := j.done.length
  let tgt : BitVec 16 := BitVec.ofNat 16 (j.acc - 1)
  let earlier := s.jobs.any fun k => decide (k.id < j.id) && (if k.ready then k.acc else (s.wstrTarget k).1) == j.acc && decide (k.done.length < k.nch)
    && (match CopyOp.weights k.op with | some (w, _) => w == wb1 | none => false)
  match (s.findCtx tgt).filter (!·.dead) with
  | none => if b < j.nch then s.updJob j.id fun j => { j with done := List.range j.nch } else s
  | some c =>
    if j.nch ≤ b ∨ earlier ∨ 4 ≤ (c.wb wb1).length then s
    else match s.weightUnit j mask (hDim0 j.dst) (hDim1 j.dst + b) with
      | .error f => s.failChunk j b (f, b)
      | .ok e =>
        (s.updCtx tgt fun c => if wb1 then { c with wb1 := c.wb1 ++ [e] } else { c with wb0 := c.wb0 ++ [e] }).updJob j.id
          fun j => { j with done := j.done ++ [b] }

/-- Another core's WSTR is in this core's WB whole, or has failed there: that is its issuer's to count and to report (R180, R198). -/
def State.endForeign (s : State) (id : Nat) : State :=
  match s.findJob id with
  | some j => match j.op with
    | .wstrIn _ _ => if j.fail.isSome || decide (j.nch ≤ j.done.length) then s.endJob id else s
    | _ => s
  | none => s

/-- Another core's WSTR names this core, which runs a context of its kernel: the whole request takes its place among the requests to the WB (R179, R180). -/
def State.wstrArrives (s : State) (w : WstrIn) : State :=
  if s.live && s.ctx.kernel == w.kernel && handleOk w.src && weightOk w.src && handleOk w.req && requestOk w.src w.req then
    let j : Job :=
      { id := s.seq, op := .wstrIn w.wb1 w.mask, slot := .c0, ctx := s.ctx.id, atp := w.atp, sup := w.sup, bundle := 0, src := w.src,
        dst := w.req, idx := 0, named := [], hs := none, hd := none, ctr := 0, cfg := 0, inc := 0, ar := false, before := 0, view := w.view,
        chain := none, nch := hDim2 w.req, done := [], path := [], acc := s.ctx.id.toNat + 1, ready := true, fail := none, failed := [],
        addPending := false, orphan := false }
    { s with seq := s.seq + 1, jobs := s.jobs ++ [j] }
  else s

/-- WB_ENTRY_FILL: a request of another core arrives, or the next block of a request of the core's WBs is delivered. -/
def State.wbFill (s : State) (source : WbSource) : State :=
  match source with
  | .foreign w => s.wstrArrives w
  | .own id => match s.findJob id with
    | none => s
    | some j => match j.op with
      | .wstr wb1 mask =>
        if !s.started j || j.fail.isSome then s
        else
          let (j, s) := s.startWstr j
          s.wbNext j wb1 mask
      | .wstrIn wb1 mask => (s.wbNext j wb1 mask).endForeign id
      | _ => s

/-! ### BUS_SLOT (R201 to R203, R327) -/

/-- The next beat of a BDRV is driven. -/
def State.driveBeat (s : State) (j : Job) : State :=
  let k := j.done.length
  if j.nch ≤ k then s
  else
    let (o, n) := beatOffset j.src k
    let va := srcBase j.src + BitVec.ofInt 64 o
    match s.span j.atp j.mode .read va n with
    | .error f => s.failChunk j k (f, beatElem j.src k + 8 * (f.va.toNat - va.toNat) / hElemBits j.src)
    | .ok ps =>
      if hFE j.src && !s.piecesFull ps then s
      else ((s.readPieces j.view ps).2).updJob j.id fun j => { j with done := j.done ++ [k] }

/-- The BDRVs that may drive: those that drive already come first, so that one's beats follow one another. -/
def State.drivers (s : State) : List Job :=
  let l := s.jobs.filter fun j => (match j.op with | .bdrv m => m != 0 | _ => false) && s.started j && s.gateOpen j && j.fail.isNone
  l.filter (·.ready) ++ l.filter (!·.ready)

/-- The core drives the next beat of a BDRV. Its first beat waits for its ring and until every receiver of its mask has an armed latch: which receivers have,
the step says (R202, log 34). -/
def State.busDrive (s : State) (armed : BitVec 8) : State :=
  let able := fun (j : Job) => match j.op with
    | .bdrv m => if j.ready || m &&& armed == m then s.startJob j else none
    | _ => none
  match s.drivers.findSome? able with
  | none => s
  | some (j, t) => t.driveBeat j

/-- A beat that finds no latch with room: the latch ends, BUSMISS waits for the boundary, the BDRV's later beats are dropped. CFOFF takes the beat index,
also where the record of a failed copy stands (R203, log 49). -/
def State.busMiss (s : State) (d : BitVec 3) (k : Nat) (j : Option Job) : State :=
  let who := match j with | some j => j.ctx | none => s.ctx.id
  let s := match j with | some j => s.endJob j.id | none => s
  let s := { s with
    busMissed := s.busMissed ||| BitVec.ofNat 8 (2 ^ d.toNat),
    frec := { s.frec with cfoff := BitVec.ofNat 64 k } }
  s.pendTo who { cause := .busmiss, kind := .imprecise, slot := 7, tbaddr := 0, ttick := s.rs.tick, tval := d.setWidth 64 }

/-- Whether beat `k` is the last of a latch: its pattern is exhausted or, for a ring, one slot is full (R202). -/
def latchFull (h : Handle) (nch k : Nat) : Bool :=
  decide (nch ≤ k + 1) || (hRing h && decide (64 * hSlotsz h ≤ ((List.range (k + 1)).map fun i => (beatOffset h i).2).foldl (· + ·) 0))

/-- A failed write of a beat: the latch is no longer armed. -/
def State.latchFail (s : State) (j : Job) (k : Nat) (h : Handle) (va : Word) (f : EngFail) : State :=
  let t := s.failChunk j k (f, beatElem h k + 8 * (f.va.toNat - va.toNat) / hElemBits h)
  { t with latches := t.latches.filter (·.job != j.id) }

/-- A beat of another driver reaches the core. -/
def State.busReceive (s : State) (d : BitVec 3) (beat : Beat) : State :=
  let k := s.busSeen[d.toNat]
  if s.busMissed.getLsbD d.toNat then s
  else match s.latches.find? (·.driver == d) with
    | none => s.busMiss d k none
    | some l => match s.findJob l.job with
      | none => s.busMiss d k none
      | some j =>
        match s.ringAt j j.hd j.dst true with
        | none => s.busMiss d k (some j)
        | some h =>
          let h := if j.ready then j.dst else h
          let (o, n) := beatOffset h l.beat
          let va := dstBase h + BitVec.ofInt 64 o
          match s.span j.atp j.mode .write va n with
          | .error f => s.latchFail j l.beat h va f
          | .ok ps =>
            match s.writePieces 0 ps (bytesOf n beat.toNat) with
            | .error o => s.latchFail j l.beat h va ⟨.vstate, va + BitVec.ofNat 64 o⟩
            | .ok t =>
              let t := t.endBoosts j.ctx ps
              let t := t.updJob j.id fun j => { j with
                dst := h, ready := true, done := if latchFull h j.nch l.beat then List.range j.nch else j.done ++ [l.beat] }
              let latches := if latchFull h j.nch l.beat then t.latches.filter (·.job != j.id)
                else updFirst (·.job == j.id) (fun l => { l with beat := l.beat + 1 }) t.latches
              { t with latches := latches }.copyComplete j.id

def State.busSlot (s : State) (d : BitVec 3) (last : Bool) (beat : Beat) : State :=
  if d = s.position then s.busDrive (beat.setWidth 8)
  else
    let t := s.busReceive d beat
    { t with
      busSeen := t.busSeen.set d.toNat (if last then 0 else s.busSeen[d.toNat] + 1),
      busMissed := if last then t.busMissed &&& ~~~(BitVec.ofNat 8 (2 ^ d.toNat)) else t.busMissed }

/-! ### One definition per instruction -/

def execCnop (_c : CSlot) (g : Guard) (s : State) : Host.Outcome State Fault Refusal := runSlot g slotNop s
def execCpy (c : CSlot) (g : Guard) (hs hd : HReg) (n : BitVec 3) (ar : Bool) (rcn : BitVec 4) (nsat cons : Bool) (s : State) :
    Host.Outcome State Fault Refusal :=
  runSlot g (meaningCpy c hs hd n ar rcn nsat cons (.cpy c g hs hd n ar rcn nsat cons)) s
def execCpyr (c : CSlot) (g : Guard) (hs hd : HReg) (n : BitVec 3) (ar : Bool) (op : AtomOp) (s : State) :
    Host.Outcome State Fault Refusal := runSlot g (meaningCpyr c hs hd n ar op) s
def execGath (c : CSlot) (g : Guard) (hs hd : HReg) (n : BitVec 3) (ar : Bool) (hx : HReg) (s : State) :
    Host.Outcome State Fault Refusal := runSlot g (meaningGather c false hs hd n ar hx) s
def execScat (c : CSlot) (g : Guard) (hs hd : HReg) (n : BitVec 3) (ar : Bool) (hx : HReg) (s : State) :
    Host.Outcome State Fault Refusal := runSlot g (meaningGather c true hs hd n ar hx) s
def execChain (c : CSlot) (g : Guard) (hs : HReg) (_n : BitVec 3) (ch : BitVec 3) (s : State) : Host.Outcome State Fault Refusal :=
  runSlot g (meaningChain c hs ch) s
def execBdrv (c : CSlot) (g : Guard) (hs : HReg) (n : BitVec 3) (mask : BitVec 8) (s : State) : Host.Outcome State Fault Refusal :=
  runSlot g (meaningBdrv c hs n mask) s
def execBlat (c : CSlot) (g : Guard) (hd : HReg) (n : BitVec 3) (pos : BitVec 3) (s : State) : Host.Outcome State Fault Refusal :=
  runSlot g (meaningBlat c hd n pos (.blat c g hd n pos)) s
def execWstr (c : CSlot) (g : Guard) (hs hd : HReg) (n : BitVec 3) (wb1 : Bool) (mask : BitVec 2) (s : State) :
    Host.Outcome State Fault Refusal := runSlot g (meaningWstr c hs hd n wb1 mask) s
def execKvcp (c : CSlot) (g : Guard) (hs hd : HReg) (n : BitVec 3) (ar : Bool) (s : State) : Host.Outcome State Fault Refusal :=
  runSlot g (meaningKvcp c hs hd n ar) s
def execCnta (c : CSlot) (g : Guard) (n : BitVec 3) (inc : BitVec 8) (s : State) : Host.Outcome State Fault Refusal :=
  runSlot g (meaningCnta c n inc) s
def execLogf (c : CSlot) (g : Guard) (hs hd : HReg) (n : BitVec 3) (ar keep : Bool) (km1 : BitVec 6) (s : State) :
    Host.Outcome State Fault Refusal := runSlot g (meaningLogf c hs hd n ar keep km1) s
def execCopyChunk (job chunk : Nat) (s : State) : Host.Outcome State Fault Refusal := .next (s.copyChunk job chunk)
def execCopyComplete (job : Nat) (s : State) : Host.Outcome State Fault Refusal := .next (s.copyComplete job)
def execCopyfault (job : Nat) (s : State) : Host.Outcome State Fault Refusal := .next (s.copyfault job)
def execChainRecord (ch : BitVec 3) (s : State) : Host.Outcome State Fault Refusal := .next (s.chainRecord ch)
def execWbEntryFill (source : WbSource) (s : State) : Host.Outcome State Fault Refusal := .next (s.wbFill source)
def execBusSlot (driver : BitVec 3) (last : Bool) (beat : Beat) (s : State) : Host.Outcome State Fault Refusal :=
  .next (s.busSlot driver last beat)

end Sys2Proof.Machine
end

