-- ==== Sys2Proof/Machine/PowerCtl.lean ====
section
/-! DEFINITION. Operating points (chapter 14): requests in the bundle header, settling windows, the changes that the power controller makes
itself, budget tokens, thermal notices and the energy counters. -/

namespace Sys2Proof.Machine

/-! ### Points (R264 to R269) -/

/-- The length of a settling window (R267). -/
def windowLength (point g : BitVec 3) : Nat := if point < g then 400 + 300 * (g.toNat - point.toNat) else 64

def State.settle (s : State) (g : BitVec 3) : State :=
  { s with power := { s.power with tgt := g, settling := true, rem := windowLength s.power.point g, fresh := some s.tickName } }

/-- A header request, judged at the bundle's issue tick (R266). -/
def State.oppRequest (s : State) (tgt : BitVec 3) : State :=
  if s.ctx.csr.oppctl.getLsbD 0 then s
  else if tgt = s.power.point then s
  else if tgt < s.power.floor then s.post 0x0002 5 (tgt.setWidth 8) s.rs.pc
  else
    let g := min3 tgt s.limit      -- no point below the floor is granted (R265)
    let s := if g ≠ tgt then s.post 0x0031 5 (tgt.setWidth 8) s.rs.pc else s
    let s := { s with power := { s.power with granted := g } }
    if g ≠ s.power.point then s.settle g else s

/-- OPPSETTLE: a request inside a settling window (R268). -/
def State.oppTrap (s : State) : Option Trap := if s.power.settling then some (mkTrap .oppsettle 7 (BitVec.ofNat 64 s.power.rem)) else none

/-- Whether the last tick of a settling window waits for the point to be reached (R267). -/
def State.settlingHold (s : State) : Bool := s.power.settling && decide (s.power.rem ≤ 1) && s.power.point != s.power.tgt

/-- SETTLING_WINDOW_END: the new point is in force as the last tick of the window is due; a droop puts it off (R267, R273). -/
def State.settlingEnd (s : State) : State :=
  if s.settlingHold && !s.power.droop then { s with power := { s.power with point := s.power.tgt } } else s

/-! ### Stall ratios and AUTO (R275) -/

/-- Windows in a row whose stall ratio reaches ADN, and whose stall ratio stays within AUP; 0 disables each. -/
def Power.stallRuns (p : Power) (adn aup : Nat) : Power :=
  { p with lowRuns := if adn ≠ 0 ∧ adn * p.total.toNat ≤ p.heldClk.toNat * 256 then p.lowRuns + 1 else 0,
           highRuns := if aup ≠ 0 ∧ p.heldClk.toNat * 256 ≤ aup * p.total.toNat then p.highRuns + 1 else 0 }

def State.autoLower (s : State) : State :=
  if 2 ≤ s.power.lowRuns ∧ s.power.floor < s.power.point then s.pwcPoint (s.power.point - 1) else s

def State.autoRaise (s : State) : State :=
  if 2 ≤ s.power.highRuns ∧ s.power.point < s.ceiling then s.pwcPoint (s.power.point + 1) else s

/-- AUTO at a refresh: its two conditions are judged each for itself. -/
def State.autoStep (s : State) : State :=
  let ctl := s.ctx.csr.oppctl
  if s.live && ctl.getLsbD 0 then
    let s := { s with power := s.power.stallRuns (ctl.extractLsb' 8 8).toNat (ctl.extractLsb' 16 8).toNat }
    s.autoLower.autoRaise
  else { s with power := { s.power with lowRuns := 0, highRuns := 0 } }

/-- STALLR_REFRESH. -/
def State.stallr (s : State) (total held split : BitVec 15) : State :=
  ({ s with power := { s.power with total := total, heldClk := held, split := split } } : State).autoStep

/-- SPLIT_STAGE_CHANGE: up to a higher stage, or down by one (R271). -/
def State.splitStage (s : State) (stage : BitVec 2) : State :=
  if s.power.stage < stage ∨ stage.toNat + 1 = s.power.stage.toNat then { s with power := { s.power with stage := stage } } else s

/-! ### Thermal notices (R279) -/

/-- The bundle that the core's context issues next: while a trap of it is handled, the one that ERET returns to (R70). -/
def State.nextBundle (s : State) : Word :=
  if s.mode = .s ∧ s.trap.tcause.extractLsb' 0 8 ≠ (0 : BitVec 8) then s.trap.tepc.setWidth 64 else s.ctx.rs.pc

/-- THERMAL_NOTICE: the core drops to the lowest point that a notice in force names, and its context says so, with the bundle it issues next (R70, R279). Notices of
one source stand side by side until its release. -/
def State.thermal (s : State) (source : Nat) (point : BitVec 3) : State :=
  let p := s.power
  let s := { s with power := { p with notices := p.notices ++ [(source, point)], earlier := some (p.earlier.getD p.point) } }
  (s.applyCeiling).post 0x0032 5 (point.setWidth 8) s.nextBundle

/-- THERMAL_RELEASE: back to the earlier point, within the ceiling that is left and not below the floor. -/
def State.thermalRelease (s : State) (source : Nat) : State :=
  if !s.power.notices.any (·.1 == source) then s
  else
    let rest := s.power.notices.filter (·.1 != source)
    let was := s.power.earlier.getD s.power.point
    let s := { s with power := { s.power with
      notices := rest, earlier := if rest.isEmpty then none else s.power.earlier,
      slowdown := s.power.slowdown && source != s.coreNum.toNat / 32 } }
    s.pwcPoint (s.within was)

/-- OPPFLR_WRITE: a core below the floor is raised to it, and a floor that falls leaves the ceiling in force (R265). A floor raised above the ceiling wins, and the PWC
of the die raises the slow-down of R279; the point that its notice names is free (log 23). -/
def State.oppflr (s : State) (v : BitVec 3) : State :=
  let p := s.power
  let s := { s with power := { p with floor := v } }
  let s := if p.point < v || (p.settling && decide (p.tgt < v)) then s.pwcPoint v else s.applyCeiling
  if s.ceiling < v && p.floor < v && !p.slowdown then
    ({ s with draws := s.draws + 1, power := { s.power with slowdown := true } } : State).thermal (s.coreNum.toNat / 32) (BitVec.ofNat 3 (Config.pick s.draws))
  else s

/-! ### Budget tokens (R276, R277) -/

/-- PBGNT: the grant moves HELD and the group's total. Of a grant that falls by more than the package holds, what it has lent stays with the borrowers until it is
reconciled (R277, log 23). -/
def State.grant (s : State) (g : BitVec 32) : State :=
  let p := s.power
  let fall := min (p.pbgnt.toNat - g.toNat) p.held.toNat
  let rise := g.toNat - p.pbgnt.toNat
  { s with power := { p with pbgnt := g, held := BitVec.ofNat 32 (p.held.toNat - fall + rise), group := BitVec.ofNat 32 (p.group.toNat - fall + rise) } }.applyCeiling

/-- LEND: as the lender, tokens and cores go down before the flit is sent; as the borrower, they come. -/
def State.lend (s : State) (k : BitVec 32) (outgoing : Bool) : State :=
  let p := s.power
  if outgoing then (if k ≤ p.held then { s with power := { p with held := p.held - k } }.applyCeiling else s)
  else if p.held.toNat + k.toNat ≤ p.group.toNat then { s with power := { p with held := p.held + k } } else s

/-- RECALL: the borrower lowers its cores, then HELD. -/
def State.recall (s : State) (k : BitVec 32) : State :=
  let p := s.power
  if k ≤ p.held then { s with power := { p with held := p.held - k } }.applyCeiling else s

/-- TOKEN_RECONCILE: the firmware sets what the package holds within the group's total. -/
def State.reconcileTokens (s : State) (held group : BitVec 32) : State :=
  if held ≤ group then { s with power := { s.power with held := held, group := group } }.applyCeiling else s

/-! ### Energy (R280) -/

/-- Shares of a difference in proportion to estimates: the floor of each, the remainder to the largest. -/
def energyShares (diff : Int) (es : List Nat) : List Int :=
  let total := es.foldl (fun (a b : Nat) => a + b) 0
  let sh : List Int := es.map fun (e : Nat) => (diff * (e : Int)).fdiv (total : Int)
  let left : Int := diff - sh.foldl (fun (a b : Int) => a + b) (0 : Int)
  let top := es.foldl max 0
  let i := es.findIdx (· == top)
  sh.set i (sh.getD i 0 + left)

/-- A share of a reconciliation: ECNT never falls, a negative share becomes a debit. -/
def Ctx.share (c : Ctx) (d : Int) : Ctx := if d < 0 then { c with debit := c.debit + d.natAbs } else c.charge d.toNat

/-- ENERGY_RECONCILE: the die's reading against the estimates of all contexts of the die, this core's first; this core's take their shares. -/
def State.energyReconcile (s : State) (reading : EnergyReading) : State :=
  let cs := s.contexts
  let es : List Nat := cs.map (·.estimate) ++ reading.others
  let sum : Nat := es.foldl (fun a b => a + b) 0
  if sum = 0 then s
  else
    let sh := (cs.map (·.id)).zip (energyShares ((reading.sensor : Int) - (sum : Int)) es)
    sh.foldl (fun s x => s.updCtx x.1 fun c => { c.share x.2 with estimate := 0 }) s

/-! ### One definition per instruction -/

/-- The header of a bundle: it traps inside a window, else the request is judged. -/
def execOppRequest (tgt : BitVec 3) (s : State) : Host.Outcome State Fault Refusal :=
  .next (match s.oppTrap with | some t => s.raise t | none => s.oppRequest tgt)
def execSettlingWindowEnd (s : State) : Host.Outcome State Fault Refusal := .next s.settlingEnd
def execStallrRefresh (total held split : BitVec 15) (s : State) : Host.Outcome State Fault Refusal := .next (s.stallr total held split)
def execSplitStageChange (stage : BitVec 2) (s : State) : Host.Outcome State Fault Refusal := .next (s.splitStage stage)
/-- A droop stretches the clock, which is held time, until it clears (R273). -/
def execDroopStretch (s : State) : Host.Outcome State Fault Refusal := .next { s with power := { s.power with droop := true } }
def execDroopClear (s : State) : Host.Outcome State Fault Refusal := .next { s with power := { s.power with droop := false } }
def execThermalNotice (source : Nat) (point : BitVec 3) (s : State) : Host.Outcome State Fault Refusal := .next (s.thermal source point)
def execThermalRelease (source : Nat) (s : State) : Host.Outcome State Fault Refusal := .next (s.thermalRelease source)
def execOppflrWrite (value : BitVec 3) (s : State) : Host.Outcome State Fault Refusal := .next (s.oppflr value)
def execLend (tokens : BitVec 32) (outgoing : Bool) (s : State) : Host.Outcome State Fault Refusal := .next (s.lend tokens outgoing)
def execRecall (tokens : BitVec 32) (s : State) : Host.Outcome State Fault Refusal := .next (s.recall tokens)
def execTokenReconcile (held group : BitVec 32) (s : State) : Host.Outcome State Fault Refusal := .next (s.reconcileTokens held group)
def execEnergyReconcile (reading : EnergyReading) (s : State) : Host.Outcome State Fault Refusal := .next (s.energyReconcile reading)

end Sys2Proof.Machine
end

