-- ==== Sys2Proof/Machine/Dispatcher.lean ====
section
/-! DEFINITION. The kernel dispatcher (chapters 2 and 12): launch queues, placement, preloading, context switches, the end of tasks and kernels,
notices and their answers, and ERET. Cores other than the subject core take part as entries of the kernels' core lists. -/

namespace Sys2Proof.Machine

/-! ### Launch queues (R34, R35) -/

/-- Read and write words of the KDS in a queue's address space. -/
def State.kdsRead (s : State) (atp va : Word) (n : Nat) : Option Nat :=
  match s.span atp .s .read va n with
  | .ok ps => some (natOf (s.readPieces none ps).1)
  | .error _ => none

def State.kdsWrite (s : State) (atp va : Word) (n v : Nat) : Option State :=
  match s.span atp .s .write va n with
  | .ok ps => if s.piecesLocked ps then none else (s.writePieces 0 ps (bytesOf n v)).toOption
  | .error _ => none

/-- Bits of a number. -/
def bitsOf (v lo len : Nat) : Nat := v / 2 ^ lo % 2 ^ len

/-- The entries of a task table: none where one cannot be read. -/
def State.taskTable (s : State) (atp ttab : Word) : Nat → Option (List (Word × Word × Word × Word))
  | 0 => some []
  | n + 1 => match s.taskTable atp ttab n, s.kdsRead atp (ttab + BitVec.ofNat 64 (32 * n)) 32 with
    | some es, some v =>
      let w := fun i => BitVec.ofNat 64 (bitsOf v (64 * i) 64)
      some (es ++ [(w 0, w 1, w 2, w 3)])
    | _, _ => none

/-- Whether a reserved field of a record is nonzero (Table 2.1). -/
def recordReserved (k : Kernel) : Bool :=
  let w := (k.word 0).toNat
  bitsOf w 56 8 != 0 || bitsOf w 43 5 != 0 || bitsOf w 28 4 != 0 || bitsOf w 23 1 != 0 || bitsOf w 12 4 != 0 || bitsOf w 5 3 != 0
    || [1, 2, 3, 4, 5].any (fun i => (k.word i).extractLsb' 48 16 != (0 : BitVec 16)) || k.word 14 != 0 || k.word 15 != 0

/-- The QERR code of a record (Table 2.3), 0 for none. Where several checks fail at once the table does not say which code is written: the model
writes the lowest (DESIGN CHOICE, log 49). -/
def State.launchError (s : State) (k : Kernel) (maxcls : Nat) (tooFar : Bool) (table : Option (List (Word × Word × Word × Word))) : Nat :=
  let g := k.gdom
  let badshape := k.cpc < 1 || 8 < k.cpc || k.cpd < 1 || 4 < k.cpd || k.dies < 1 || 8 < k.dies
    || (g != 0 && (k.gcnt < 1 || 16 < k.gcnt || !s.feature featPEER)) || (g == 0 && k.gcnt != 0)
  let es := table.getD []
  if badshape then 1
  else if 32 < k.spmb ∨ 24 < k.acmb ∨ es.any (fun e => decide (k.spmb * bankBytes < e.2.2.1.toNat)) then 2
  else if k.ntask = 0 ∨ k.ttab.toNat % 64 ≠ 0 ∨ es.any (fun e => e.1.toNat % 32 != 0) then 3
  else if 4 < k.ndep then 4
  else if tooFar then 5
  else if maxcls < k.cls.toNat then 6
  else if recordReserved k || es.any (fun e => e.2.2.2 != 0) then 7
  else if table.isNone then 8
  else 0

/-- A kernel as its record is taken. `order` numbers the records as the KDS takes them: within a queue that is HEAD order, and between queues, where
HEAD orders nothing, R52's last tie goes by it too (DESIGN CHOICE, log 49). -/
def Kernel.fresh (id queue : Nat) (atp : Word) (record : BitVec 1024) : Kernel :=
  { id := id, queue := queue, atp := atp, record := record, entries := [], st := .waiting, age := 0, order := id, targets := [], cores := [],
    placedAt := 0, live := [], clusterIds := [], dieIds := [], packageId := 0, result := 0, lastNotice := 0 }

/-- The queue of a header, bound to its home die where it is new (R34). -/
def State.queueIndex (s : State) (hdr atp : Word) (home : BitVec 3) : Nat × State :=
  match s.queues.findIdx? (fun q => q.hdr == hdr && q.atp == atp) with
  | some i => (i, s)
  | none => (s.queues.length, { s with queues := s.queues ++ [⟨hdr, atp, home⟩] })

/-- Whether the KDS of a die watches the queue: the home die's alone does. -/
def State.watches (s : State) (hdr atp : Word) (home : BitVec 3) : Bool :=
  match s.queues.find? (fun q => q.hdr == hdr && q.atp == atp) with
  | some q => q.home == home
  | none => true

/-- A stopped queue: QIDX, QERR and QSTATE (R35). -/
def State.stopQueue (s : State) (hdr atp : Word) (head code : Nat) : State :=
  match s.kdsWrite atp (hdr + 40) 8 head with
  | none => s
  | some t => match t.kdsWrite atp (hdr + 32) 8 (1 + code * 256) with
    | none => s
    | some u => u.interrupt srcQSTOP

/-- LAUNCH_TAKE: the KDS of the queue's home die checks and copies the next record of a running queue, in RUN alone (R34, R35, R285). A record or a
table entry that fails translation or permission, or meets an uncorrectable error, cannot be read: FETCH. -/
def State.launchTake (s : State) (hdr atp : Word) (home : BitVec 3) : State :=
  if s.host.devst ≠ 3 || !s.watches hdr atp home then s
  else match s.kdsRead atp hdr 64 with
    | none => s
    | some h =>
      let head := bitsOf h 128 64
      let tail := bitsOf h 192 64
      let size := 2 ^ bitsOf h 64 5
      if bitsOf h 256 8 ≠ 0 ∨ head = tail then s
      else
        let (q, s) := s.queueIndex hdr atp home
        let slot := BitVec.ofNat 64 (bitsOf h 0 48 + 128 * (head % size))
        match s.kdsRead atp slot 128 with
        | none => s.stopQueue hdr atp head 8
        | some r =>
          let k := Kernel.fresh (s.kernels.length + 1) q atp (BitVec.ofNat 1024 r)
          let table := s.taskTable atp k.ttab k.ntask
          let e := s.launchError k (bitsOf h 72 3) (decide (size < (tail + 2 ^ 64 - head) % 2 ^ 64)) table
          if e ≠ 0 then s.stopQueue hdr atp head e
          else match s.kdsWrite atp (hdr + 16) 8 (head + 1) with
            | none => s
            | some t => { t with kernels := t.kernels ++ [{ k with entries := (table.getD []).map fun x => (x.1, x.2.1, x.2.2.1) }] }

/-- Whether a dependence is met (R32). -/
def State.depMet (s : State) (k : Kernel) (i : Nat) : Bool :=
  match s.kdsRead k.atp ((k.word (6 + 2 * i)).extractLsb' 0 48 |>.setWidth 64) 8 with
  | some v => decide ((k.word (7 + 2 * i)).toNat ≤ v)
  | none => false

def State.findKernel (s : State) (id : Nat) : Option Kernel := s.kernels.find? (·.id == id)

/-- DEPENDENCE_CHECK: kernels of one queue become ready in HEAD order (R32, R36). -/
def State.dependenceCheck (s : State) (id : Nat) : State :=
  match s.findKernel id with
  | none => s
  | some k =>
    if k.st == KState.waiting && (List.range k.ndep).all (s.depMet k)
        && !(s.kernels.any fun (x : Kernel) => x.queue == k.queue && decide (x.order < k.order) && x.st == KState.waiting) then
      s.updKernel id fun k => { k with st := .ready }
    else s

/-! ### Choice of cores (R37, R52) -/

def coreAt (die cluster pos : Nat) : Nat := die * 32 + cluster * 8 + pos

/-- What the KDS of one die reserves for a kernel: its lowest-numbered clusters and positions that fit, or none. -/
def dieCores (free : Nat → Bool) (k : Kernel) (d : Nat) : Option (List Nat) :=
  let cluster := fun c =>
    let l := ((List.range 8).map (coreAt d c)).filter free
    if k.cpc ≤ l.length then some (l.take k.cpc) else none
  let cs := (List.range 4).filterMap cluster
  if k.cpd ≤ cs.length then some (cs.take k.cpd).flatten else none

/-- The KDS of the home die reserves through the dies' KDSs in ascending order and takes all cores or none. The dies are the lowest-numbered that fit, a
kernel of one die included: R37 does not say that such a kernel runs on its home die (DEDUCED, log 49). -/
def fitCores (free : Nat → Bool) (dieOk : Nat → Bool) (k : Kernel) : Option (List Nat) :=
  let ds := ((List.range 8).filter dieOk).filterMap (dieCores free k)
  if k.dies ≤ ds.length then some (ds.take k.dies).flatten else none

/-- Whether a core runs no context. -/
def State.coreFree (s : State) (core : Nat) : Bool :=
  if core = s.coreNum.toNat then !s.live && s.mode == .u && !s.offline
  else !(s.busy.contains core) && (s.occupant core).isNone

/-- Whether `a` is considered before `b` (R52). -/
def ahead (a b : Kernel) : Bool :=
  decide (b.cls < a.cls) || (a.cls == b.cls && (decide (b.age < a.age) || (a.age == b.age && decide (a.order < b.order))))

/-- The ready kernels considered before `k`. -/
def State.aheadOf (s : State) (k : Kernel) : List Kernel := s.kernels.filter fun (f : Kernel) => f.st == KState.ready && f.id != k.id && ahead f k

/-- Dies that `k` may use: none that is the target of a kernel ahead of it. -/
def State.dieOpen (s : State) (k : Kernel) (d : Nat) : Bool := !((s.aheadOf k).any fun f => f.targets.contains d)

/-! ### Domain IDs (R40, R46) -/

/-- IDs from a starting point on, around the 255. -/
def idRing (start : Nat) : List Nat := (List.range 255).map fun i => (start + i) % 255 + 1

/-- `n` IDs that no live domain of the level holds. -/
def pickIds (used : List Nat) (n start : Nat) : Option (List Nat) :=
  let l := (idRing start).filter fun i => !used.contains i
  if n ≤ l.length then some (l.take n) else none

/-- Kernels whose domains live: placed and not ended. -/
def State.liveKernels (s : State) : List Kernel := s.kernels.filter fun (k : Kernel) => k.st == KState.placed

/-- The IDs for a kernel's domains: one for each of its clusters, of its dies, and one for the package. Which free ones is free (log 5). -/
def State.idsFor (s : State) (k : Kernel) : Option (List Nat × List Nat × Nat) :=
  let pick := fun i => Config.pick (s.draws + i)
  match pickIds (s.liveKernels.flatMap (·.clusterIds)) (k.dies * k.cpd) (pick 0), pickIds (s.liveKernels.flatMap (·.dieIds)) k.dies (pick 1),
      pickIds (s.liveKernels.map (·.packageId)) 1 (pick 2) with
  | some c, some d, some (p :: _) => some (c, d, p)
  | _, _, _ => none

/-- The cores that R37 gives a kernel; one that lacks an ID does not fit (R40). -/
def State.fit (s : State) (k : Kernel) : Option (List Nat) :=
  if (s.idsFor k).isSome then fitCores s.coreFree (s.dieOpen k) k else none

/-- AGE_TICK: 64 µs pass for the ready kernels and for the running task (R49, R52). -/
def State.ageTick (s : State) : State :=
  let s := { s with kernels := s.kernels.map fun (k : Kernel) => if k.st == KState.ready then { k with age := k.age + 1 } else k }
  let s := if s.live && s.mode == .u then { s with ctx := { s.ctx with runTime := s.ctx.runTime + 1 } } else s
  match s.kernels.find? (fun (k : Kernel) => k.st == KState.ready && (s.aheadOf k).isEmpty) with
  | none => s
  | some k =>
    if 16 ≤ k.age ∧ k.targets.isEmpty then
      let open' := fun c =>
        if c = s.coreNum.toNat then !(s.live && decide (k.cls < s.ctx.cls)) && !s.offline
        else !(s.busy.contains c) && match s.occupant c with | some o => decide (o.cls ≤ k.cls) | none => true
      let dies := match fitCores open' (fun _ => true) k with | some cs => (cs.map (· / 32)).eraseDups | none => []
      s.updKernel k.id fun k => { k with targets := dies }
    else s

/-! ### The initial state of a context (R38, R40) -/

/-- The first number from `start` on, modulo `n`, that is not used. -/
def firstFree (used : List Nat) (n start : Nat) : Nat → Option Nat
  | 0 => none
  | fuel + 1 => if used.contains (start % n) then firstFree used n (start + 1) fuel else some (start % n)

/-- DMR of a core of a kernel: the IDs of its cluster, its die and the package, and the group (R40). -/
def dmrOf (k : Kernel) (cores : List Nat) (core : Nat) (ids : List Nat × List Nat × Nat) : Word :=
  let c := ids.1.getD ((cores.map (· / 8)).eraseDups.findIdx (· == core / 8)) 0
  let d := ids.2.1.getD ((cores.map (· / 32)).eraseDups.findIdx (· == core / 32)) 0
  BitVec.ofNat 64 (k.gdom.toNat * 2 ^ 48 + ids.2.2 * 2 ^ 32 + d * 2 ^ 24 + c * 2 ^ 16 + 3)

def Dom.start (n : Nat) : Dom := { Dom.reset with exp := BitVec.ofNat 32 n }

/-- The domains of a member: levels 0 to 3 and 5 (R40, R41). -/
def kernelDoms (k : Kernel) : Vector Dom 6 :=
  let n := k.dies * k.cpd * k.cpc
  #v[.start 1, .start k.cpc, .start (k.cpd * k.cpc), .start n, .start 0, .start (if k.gdom = 0 then 0 else n * k.gcnt)]

/-- A task's table entry, numbered from 1. -/
def Kernel.entry (k : Kernel) (n : Nat) : Word × Word × Word := k.entries.getD (n - 1) (0, 0, 0)

/-- The state at the entry of task 1 (Table 2.4). -/
def State.newCtx (s : State) (k : Kernel) (id : BitVec 16) (rank count : Nat) (dmr : Word) (doms : Vector Dom 6) : Ctx :=
  let pc := (k.entry 1).1
  let r := Ctx.reset.rs
  let pre := match s.preloaded with | some p => if p.kernel = k.id ∧ p.banks ≠ 0 then some p else none | none => none
  { Ctx.reset with
    id := id, kernel := k.id, cls := k.cls, pre := k.pre, rank := BitVec.ofNat 8 rank, task := 1, core := s.coreNum, pkg := s.host.package,
    rs := { r with pc := pc, npc := pc, s := ((r.s.set 1 k.args).set 2 (BitVec.ofNat 64 rank)).set 3 (BitVec.ofNat 64 count) },
    csr := { CtxCsr.reset with dmr := dmr, atp := k.atp, msimg := if pre.isSome ∧ k.mimg ≠ 0 then msimgOf k.mimg 0 else 0 },
    doms := doms, spmBanks := k.spmb, acmBanks := List.range k.acmb,
    spm := (pre.map (·.spm)).getD [], full := (pre.map (·.full)).getD [],
    load := if pre.isNone then .task else if k.mimg ≠ 0 then .store else .none }

/-! ### Loads before the first bundle (R420, R171) -/

def loadTrap (s : State) (cause : Cause) (va : Word) : Trap :=
  { cause := cause, kind := .boundary, slot := 7, tepc := some s.rs.pc, tbaddr := 0, ttick := s.rs.tick, tval := va }

/-- Load a micro-image for the running context, or take the trap of R420. -/
def State.loadStore (s : State) (va : Word) : State :=
  match s.readImage s.ctx.csr.atp va with
  | .ok img => { s.storeImage va img with ctx := { (s.storeImage va img).ctx with load := .none } }
  | .error .micro => s.enterTrap (loadTrap s .micro 0)
  | .error (.access f) =>
    let atp := s.ctx.csr.atp
    (s.engFailed atp f).enterTrap (loadTrap s f.cause f.va)

/-- An SPM image: its bytes at offset 0 and the granules it fills. -/
def State.spmImage (s : State) (atp va len : Word) : Except EngFail (Mem × List Nat) :=
  if va = 0 ∨ len = 0 then .ok ([], [])
  else match s.span atp .u .read va len.toNat with
    | .error f => .error f
    | .ok ps => .ok (Memory.write [] 0 (s.readPieces none ps).1, granSet [] 0 (granCount 0 len.toNat))

/-- Whether the micro-store must be reloaded for the running context (R171). A context that has loaded nothing has nothing to reload, and its calls find
the store of another kernel empty (log 55). -/
def State.needsStore (s : State) : Bool := s.ctx.csr.msimg != 0 && s.microTag != s.ctx.kernel

/-- What is still to be loaded is loaded before the context's next bundle. -/
def State.doLoad (s : State) : State :=
  if !s.live || s.mode == .s then s
  else match s.ctx.load, s.kernelOf s.ctx with
    | .task, some k =>
      let (_, img, len) := k.entry 1
      match s.spmImage s.ctx.csr.atp img len with
      | .error f => (s.engFailed s.ctx.csr.atp f).enterTrap (loadTrap s f.cause f.va)
      | .ok (m, g) =>
        let s := { s with ctx := { s.ctx with spm := m, full := g } }
        if k.mimg = 0 then { s with ctx := { s.ctx with load := .none } } else s.loadStore k.mimg
    | .store, _ => s.loadStore ((s.ctx.csr.msimg.extractLsb' 0 48).setWidth 64)
    | _, _ => if s.needsStore then s.loadStore ((s.ctx.csr.msimg.extractLsb' 0 48).setWidth 64) else s

/-! ### Residency (R190, R250) -/

/-- A core's register bank sets, ACM banks and SPM banks. -/
def bankSets : Nat := 4
def acmTotal : Nat := 24
def spmTotal : Nat := 32

/-- Save register sets of the contexts that ran least recently, the list's first ones, until `n` are left in bank sets. -/
def saveSets (n : Nat) : List Ctx → List Ctx
  | [] => []
  | c :: cs => if c.bankSet && n < ((c :: cs).filter (·.bankSet)).length then { c with bankSet := false } :: saveSets n cs else c :: saveSets n cs

/-- Save ACM banks: `n` of those that may go, the first context's first, highest number first. The banks saved, and the contexts. -/
def saveAcm : Nat → List Ctx → List Nat × List Ctx
  | _, [] => ([], [])
  | n, c :: cs =>
    let out := ((List.range acmTotal).reverse.filter c.acmRes.contains).take n
    let (more, rest) := saveAcm (n - out.length) cs
    (out ++ more, { c with acmRes := c.acmRes.filter fun b => !out.contains b } :: rest)

/-- Save SPM banks: `n` of them, the first context's first, highest logical bank first. -/
def saveSpm : Nat → List Ctx → List Ctx
  | _, [] => []
  | n, c :: cs => { c with spmRes := c.spmRes - n } :: saveSpm (n - c.spmRes) cs

/-- SPM banks tagged for a preloaded task. -/
def State.tagged (s : State) : Nat := match s.preloaded with | some p => p.banks | none => 0

/-- Room for an incoming context that needs `spm` SPM banks, taken from the contexts that do not run, register sets first (R250). Banks tagged for a preload
give way where no other room is left (log 53). -/
def State.makeRoom (s : State) (spm : Nat) : State :=
  let s := { s with parked := saveSets (bankSets - 1) s.parked }
  let s := if spmTotal < spm + s.tagged then { s with preloaded := none } else s
  let used := (s.parked.map (·.spmRes)).foldl (· + ·) 0
  { s with parked := saveSpm (used + spm + s.tagged - spmTotal) s.parked }

/-- `n` ACM banks beside the banks `own`: the lowest free ones, then such as others hold (R250). -/
def State.takeAcm (s : State) (own : List Nat) (n : Nat) : List Nat × State :=
  let held := own ++ s.parked.flatMap (·.acmRes)
  let free := (List.range acmTotal).filter fun b => !held.contains b
  let (out, parked) := saveAcm (n - free.length) s.parked
  let banks := free.take n ++ out
  ((List.range acmTotal).filter banks.contains, { s with parked := parked })

/-- The bank that a list of renamings gives a bank. -/
def newBank (ren : List (Nat × Nat)) (b : Nat) : Nat := ((ren.find? (·.1 == b)).map (·.2)).getD b

/-- A context whose ACM banks come back in other places: its regions keep their order of bands (log 53). -/
def Ctx.moveAcm (ren : List (Nat × Nat)) (c : Ctx) : Ctx :=
  { c with
    acmBanks := (List.range acmTotal).filter (c.acmBanks.map (newBank ren)).contains,
    acm := c.acm.foldl (fun m x => Memory.set m (newBank ren (x.1 / acmBankBytes) * acmBankBytes + x.1 % acmBankBytes) x.2) [],
    regions := c.regions.map fun r => r.map fun r => { r with banks := r.banks.map (newBank ren) } }

/-- A returning context's missing ACM banks: one whose place is free returns there, the others to places that are taken as for any incoming context, highest
number first from the context that ran least recently (R250, log 53). -/
def State.restoreAcm (s : State) (c : Ctx) : Ctx × State :=
  let held := s.parked.flatMap (·.acmRes)
  let stay := c.acmBanks.filter fun b => c.acmRes.contains b || !held.contains b
  let out := c.acmBanks.filter fun b => !stay.contains b
  if out.isEmpty then (c, s)
  else
    let (banks, s) := s.takeAcm stay out.length
    (c.moveAcm (out.zip banks), s)

/-! ### Context switches (R249, R250) -/

/-- What a switch must see delivered first: the combining buffer's reductions, the pushes to msgout and hostq (R138, R249). -/
def State.delivered (s : State) : Bool :=
  s.comb.isEmpty && s.ctx.msgout.isEmpty && s.ctx.hostq.isEmpty
    && !(s.ctx.rs.reqs.any fun q => q.reply.isNone && match q.kind with | .red .. => true | _ => false)

/-- A switch can be made: the core is in U mode, no micro-word runs and nothing is left to deliver (R190, R246, R249). -/
def State.switchable (s : State) : Bool :=
  s.live && s.mode == .u && s.delivered && match s.ctx.running with | some r => r.stage != .started | none => true

/-- A switch that is wanted and cannot be made yet: the combining buffer is flushed. -/
def State.prepare (s : State) : State := if s.live && s.mode == .u && !s.comb.isEmpty then s.flushComb else s

/-- The running context leaves the core: its requests that have no reply are sent again at its return. -/
def State.switchOut (s : State) (sleep : Option (BitVec 40 × Word)) : State :=
  let c := { s.ctx with rs := s.ctx.rs.reply.withdraw fun _ => true, pend := s.pending, bundleRnd := none, sleep := sleep }
  { s with live := false, pending := [], parked := s.parked ++ [c] }

/-- A context comes to the core with all its banks: what is missing is restored from its save area; WCTX names it, its store is reloaded where needed
(R113, R171, R250). -/
def State.switchIn (s : State) (c : Ctx) : State :=
  let s := ({ s with parked := s.parked.filter (·.id != c.id) } : State)
  let (c, s) := (s.makeRoom c.spmBanks).restoreAcm c
  let s := { s with
    live := true, pending := c.pend, wctx := c.id,
    ctx := { c with rs := c.rs.resend c.csr.atp, sleep := none, pend := [], bankSet := true, acmRes := c.acmBanks, spmRes := c.spmBanks } }
  (s.applyCeiling).doLoad

/-- The context that runs next among those switched out: highest class, longest waiting. -/
def State.nextCtx (s : State) (ok : Ctx → Bool) : Option Ctx :=
  (s.parked.filter fun c => s.wakes c && ok c).foldl (fun (b : Option Ctx) c => match b with
    | some x => if x.effClass < c.effClass then some c else some x
    | none => some c) none

/-- A core without a context takes up one that was switched out. -/
def State.dispatchNext (s : State) : State :=
  if s.live || s.mode == .s || s.offline then s
  else match s.nextCtx (fun _ => true) with
    | some c => s.switchIn c
    | none => s

/-- The running context makes way for one that was switched out, as that stands once the messages on their way are delivered. -/
def State.switchTo (s : State) (id : BitVec 16) : State :=
  let t := s.switchOut none
  match t.parked.find? (·.id == id) with
  | some c => t.switchIn c
  | none => t

/-- QUANTUM_EXPIRY: a context of the same class has its turn, and none waits for one of a lower class (R53, R57). -/
def State.quantum (s : State) : State :=
  if !s.live then s.dispatchNext
  else match s.nextCtx (fun c => decide (s.ctx.effClass ≤ c.effClass)) with
    | some c => if s.switchable then s.switchTo c.id else s.prepare
    | none => s

/-- YIELD at its boundary (R395): the tick passes where no context of its class or a higher one is ready; else the core waits until the switch can be made, and
the tick passes as the caller returns. -/
def State.yieldSwitch (s : State) : Option State :=
  match s.nextCtx (fun c => decide (s.ctx.effClass ≤ c.effClass)) with
  | none => some (s.setRs { s.rs with wait := .none }).boundary
  | some c =>
    if s.switchable then some ((s.setRs { s.rs with wait := .none }).switchTo c.id)
    else if s.prepare = s then none else some s.prepare

/-! ### Donation (R54) -/

/-- The descheduled owner of the word at an address. -/
def State.ownerOf (s : State) (a : Nat) : Option Ctx :=
  match s.l1.find? (fun w => w.owned && w.addr.toNat == a / 8 * 8) with
  | some w => s.parked.find? fun c => c.id == w.owner && !c.dead
  | none => none

/-- A descheduled waiter whose word has changed waits for it no longer, whatever the word holds later (R54). -/
def State.noteWakes (s : State) : State :=
  if s.parked.all (·.sleep.isNone) then s
  else { s with parked := s.parked.map fun c => if s.wakes c then { c with sleep := none } else c }

/-- Whether the word at an address is registered to a descheduled context, of this core or of another one. -/
def State.ownerSleeps (s : State) (a : Nat) : Bool := (s.ownerOf a).isSome || s.asleep.contains (BitVec.ofNat 40 (a / 8 * 8))

/-- Donate a class along at most `n` links. -/
def State.donateTo (s : State) (cls a : Nat) : Nat → State
  | 0 => s
  | n + 1 => match s.ownerOf a with
    | none => s
    | some o =>
      let s := s.updCtx o.id fun c =>
        { c with boost := (BitVec.ofNat 3 cls, BitVec.ofNat 40 a) :: c.boost.filter fun b => b.2 != BitVec.ofNat 40 a || cls < b.1.toNat }
      match o.sleep with
      | some (b, _) => s.donateTo cls b.toNat n
      | none => s

/-- A held WAITM on a word of a descheduled owner: the waiter sleeps until the word changes, an owner on this core runs at the higher class; one on
another core has the class donated there. -/
def State.donate (s : State) (a : Nat) : State :=
  if !s.ownerSleeps a then s
  else if !s.switchable then s.prepare
  else
    let v := BitVec.ofNat 64 (s.numPa (a / 8 * 8) 8)
    ((s.switchOut (some (BitVec.ofNat 40 (a / 8 * 8), v))).donateTo s.ctx.effClass a 4).dispatchNext

/-! ### PLACEMENT, PRELOAD and PREEMPTION -/

/-- The position of a core in a list. -/
def rankOf (cores : List Nat) (core : Nat) : Nat := cores.findIdx (· == core)

/-- The kernel takes the cores and its IDs. -/
def State.take (s : State) (k : Kernel) (cores : List Nat) (ids : List Nat × List Nat × Nat) : State :=
  { s.updKernel k.id fun k => { k with st := .placed, cores := cores, live := cores, placedAt := s.seq, targets := [], clusterIds := ids.1, dieIds := ids.2.1, packageId := ids.2.2 } with
    seq := s.seq + 1, draws := s.draws + 4 }

/-- The kernel takes the cores; the subject core starts its context, with ACM banks of its own. -/
def State.placeOn (s : State) (k : Kernel) (cores : List Nat) : State :=
  let me := s.coreNum.toNat
  match s.idsFor k, firstFree (s.contexts.map (·.id.toNat)) (2 ^ 16) (Config.pick (s.draws + 3)) (s.contexts.length + 1) with
  | some ids, some id =>
    if cores.contains me then
      let c := s.newCtx k (BitVec.ofNat 16 id) (rankOf cores me) cores.length (dmrOf k cores me ids) (kernelDoms k)
      let s := s.take k cores ids
      let s := { s with preloaded := s.preloaded.filter fun p => p.kernel != k.id }
      let (banks, s) := s.takeAcm [] k.acmb
      s.switchIn { c with acmBanks := banks }
    else s.take k cores ids
  | _, _ => s

/-- Whether a kernel behind `f` must wait although `f` does not fit: backfilling has stopped, at age 16 of the first kernel of all or of its class
(R52, R57). -/
def State.stops (s : State) (f k : Kernel) : Bool := decide (16 ≤ f.age) && (f.cls == k.cls || (s.aheadOf f).isEmpty)

/-- Whether a kernel is ready and its turn has come: no kernel ahead of it fits or keeps it back (R52). -/
def State.turn (s : State) (k : Kernel) : Bool :=
  k.st == KState.ready && s.host.devst == 3 && !((s.aheadOf k).any fun f => (s.fit f).isSome || s.stops f k)

/-- PLACEMENT (R37, R38). -/
def State.placement (s : State) (id : Nat) : State :=
  match s.findKernel id with
  | none => s
  | some k => match s.fit k with
    | some cores => if s.turn k then s.placeOn k cores else s
    | none => s

/-- The first bundle of a task enters the instruction cache, where it can be fetched (R55). -/
def State.warm (s : State) (k : Kernel) : State :=
  match s.translate k.atp .u .exec false (k.entry 1).1 32 with
  | .ok p => s.bundleFetched p.pa
  | .error _ => s

/-- PRELOAD: the instruction cache is warmed, and the image of a waiting kernel's first task is copied into banks that no resident context holds, where there
are enough (R55); an image that cannot be read is left to the placement. -/
def State.preload (s : State) (id : Nat) : State :=
  match s.findKernel id with
  | none => s
  | some k =>
    let used := (s.contexts.map (·.spmRes)).foldl (fun a b => a + b) 0
    if !k.pld || !(k.st == KState.ready || k.st == KState.waiting) || s.preloaded.isSome || !s.live then s
    else
      let s := s.warm k
      if spmTotal < used + k.spmb then { s with preloaded := some ⟨id, 0, [], []⟩ }
      else match s.spmImage k.atp (k.entry 1).2.1 (k.entry 1).2.2 with
        | .error _ => s
        | .ok (m, g) => { s with preloaded := some ⟨id, k.spmb, m, g⟩ }

/-- The context that a kernel may pre-empt on a core: the class it runs at and the order of its placement (R39, R54). -/
def State.victim (s : State) (k : Kernel) (core : Nat) : Option (Nat × Nat) :=
  if core = s.coreNum.toNat then
    if s.live && s.mode == .u && s.ctx.pre && decide (s.ctx.effClass < k.cls.toNat) then
      some (s.ctx.effClass, match s.kernelOf s.ctx with | some x => x.placedAt | none => 0) else none
  else match s.occupant core with
    | some o => if o.pre && decide (o.cls < k.cls) then some (o.cls.toNat, o.placedAt) else none
    | none => none

/-- The lowest class first, within a class the most recently placed. -/
def sooner (a b : Nat × Nat) : Bool := a.1 < b.1 || (a.1 == b.1 && b.2 < a.2)

/-- Whether one list of victims, each sorted, is chosen before another of its length. -/
def soonerAll : List (Nat × Nat) → List (Nat × Nat) → Bool
  | a :: as, b :: bs => sooner a b || (a == b && soonerAll as bs)
  | _, _ => false

/-- A plan: the victims, sorted, and the cores it takes. -/
abbrev Plan := List (Nat × Nat) × List Nat

/-- The plan that pre-empts fewer contexts, then the one whose victims are chosen sooner (R39). -/
def Plan.before (a b : Plan) : Bool := a.1.length < b.1.length || (a.1.length == b.1.length && soonerAll a.1 b.1)

def sortVictims (l : List (Nat × Nat)) : List (Nat × Nat) := l.foldr (insertBy fun a b => !sooner b a) []

/-- The cores of one cluster for a pre-emption: free ones first, then victims as R39 chooses them; of equal ones the lowest-numbered
core's (R405). -/
def State.clusterPlan (s : State) (k : Kernel) (d c : Nat) : Option Plan :=
  let cs := (List.range 8).map (coreAt d c)
  let free := cs.filter s.coreFree
  let vs := cs.filterMap fun x => (s.victim k x).map fun v => (x, v)
  let sorted := vs.foldr (insertBy fun (a b : Nat × Nat × Nat) => !sooner b.2 a.2) []
  let chosen := sorted.take (k.cpc - free.length)
  if k.cpc ≤ free.length + vs.length then
    some (chosen.map (·.2), cs.filter fun x => (free.take k.cpc).contains x || chosen.any fun v => v.1 == x)
  else none

/-- The best `n` plans as one: fewest contexts, then the victims of R39's order, then the lowest numbers; none where there are fewer. -/
def cheapest (n : Nat) (ps : List Plan) : Option Plan :=
  if ps.length < n then none
  else
    let l := (ps.foldr (insertBy fun (a b : Plan) => !b.before a) []).take n
    some (sortVictims (l.flatMap (·.1)), l.flatMap (·.2))

/-- Cores in ascending order. -/
def ascending (l : List Nat) : List Nat := (List.range 256).filter l.contains

def State.preemptPlan (s : State) (k : Kernel) : Option (List Nat) :=
  let die := fun d => cheapest k.cpd ((List.range 4).filterMap (s.clusterPlan k d))
  (cheapest k.dies (((List.range 8).filter (s.dieOpen k)).filterMap die)).map fun p => ascending p.2

/-- A KDS notice to the supervisor about the running context (R250). -/
def State.notice (s : State) (tval : BitVec 8) : State :=
  (s.updKernel s.ctx.kernel fun k => { k with lastNotice := tval }).enterNotice (tval.setWidth 64)

/-- PREEMPTION: the fewest contexts make way (R39); whether the supervisor must decide first is free (log 5). -/
def State.preemption (s : State) (id : Nat) : State :=
  match s.findKernel id with
  | none => s
  | some k =>
    if !s.turn k || (s.fit k).isSome || (s.idsFor k).isNone then s
    else match s.preemptPlan k with
      | none => s
      | some cores =>
        if cores.contains s.coreNum.toNat && s.live then
          if !s.switchable then s.prepare
          else if Config.pick s.draws % 2 = 1 then { s with draws := s.draws + 1 }.notice 2
          else ({ s with draws := s.draws + 1 }.switchOut none).placeOn k cores
        else s.placeOn k cores

/-- TLIM_OVERRUN (R49). -/
def State.tlimOverrun (s : State) : State :=
  match s.kernelOf s.ctx with
  | some k => if k.tlim ≠ 0 && decide (k.tlim < s.ctx.runTime) then (if s.switchable then s.notice 1 else s.prepare) else s
  | none => s

/-! ### The end of tasks and kernels (R33, R45 to R48, R348) -/

/-- Whether every beat pushed to the write ports is written. -/
def Ctx.portsWritten (c : Ctx) : Bool := c.ports.toList.all fun p => !p.bound || !p.wr || p.beats.isEmpty

/-- The successor task n starts (Table 2.7, R349). -/
def State.successor (s : State) (n : BitVec 8) : State :=
  match s.kernelOf s.ctx with
  | none => s
  | some k =>
    let s := (List.finRange 32).foldl (fun s p => s.closePort (BitVec.ofFin p)) s
    let pc := (k.entry n.toNat).1
    let r := s.ctx.rs
    { s with ctx := { s.ctx with
      rs := { r with pc := pc, npc := pc, wait := .none, s := ((((r.s.set 48 0).set 49 0).set 55 0).set 51 0).set 50 1 },
      latches := Vector.replicate 2 0, masks := Vector.replicate 2 0, maskTile := Vector.replicate 128 (BitVec.allOnes 160), task := n, runTime := 0 } }

/-- What the final hold of EXIT awaits. -/
def State.exitReady (s : State) : Bool :=
  let c := s.ctx
  !(s.jobs.any fun j => j.ctx == c.id && !j.orphan && !CopyOp.aside j.op) && s.chan.toList.all (fun ch => !ch.walking || ch.ctx != c.id)
    && c.calls.isEmpty && c.running.isNone && c.taps.all (·.complete) && c.portsWritten && s.unperformed.isEmpty && s.comb.isEmpty

/-- The task retires: with LEAVE it leaves its domains whole, else they break (R45). -/
def State.retireTask (s : State) (leave : Bool) : State :=
  let c := s.ctx
  let s := if leave then s else s.breakDomains c.kernel
  let s := s.updKernel c.kernel fun k => k.retire s.coreNum.toNat 0
  (s.dropCtx c.id).dispatchNext

/-! ### Members on other cores (R45, R48) -/

/-- Whether two cores of a kernel share its domain of a level (R40). -/
def shares (level a b : Nat) : Bool :=
  if level = 0 then a == b else if level = 1 then a / 8 == b / 8 else if level = 2 then a / 32 == b / 32 else level == 3 || level == 5

/-- A member leaves: the decrement applies to the running phase where it had not arrived, else from the next (R45). -/
def Dom.leave (arrived near : Bool) (d : Dom) : Dom :=
  if arrived then { d with pendingLeave := d.pendingLeave + 1, near := if near then d.near - 1 else d.near }
  else ({ d with exp := d.exp - 1 } : Dom).settle

/-- Whether a member that has gone shared a level with this core: one of another package shares level 5 alone. -/
def sharedWith (m : MemberEnd) (core level : Nat) : Bool := if m.elsewhere then level == 5 else shares level core m.core

/-- What the end of a member's task elsewhere does to the domains of a context of its kernel here; a phase of the group that this completes is agreed on
as any other (R278). -/
def Ctx.memberGone (core : Nat) (m : MemberEnd) (c : Ctx) : Ctx :=
  ({ c with doms := Vector.ofFn fun l =>
      let d := c.doms[l]
      if sharedWith m core l.val && d.exp != 0 then (if m.leave then d.leave (m.arrived.getLsbD l.val) !m.elsewhere else d.break_) else d } : Ctx).agree
    (c.dom 5).phc

/-- Whether another member of a kernel can end: a live core of this package, or a core of another package of the group. -/
def State.otherMember (s : State) (k : Kernel) (m : MemberEnd) : Bool :=
  k.st == KState.placed && (if m.elsewhere then decide (1 < k.gcnt) else k.live.contains m.core && m.core != s.coreNum.toNat)

/-- The task of another member ends: a core of this package retires from the kernel, and the domains shrink or break (R45). -/
def State.memberEnd (s : State) (k : Kernel) (m : MemberEnd) : State :=
  if !s.otherMember k m then s
  else
    let t := if m.elsewhere then s else s.updKernel k.id fun k => k.retire m.core m.result
    let f := fun (c : Ctx) => if c.kernel = k.id then c.memberGone s.coreNum.toNat m else c
    s.followGroup { t with ctx := f t.ctx, parked := t.parked.map f }

/-- The kernel has ended: its record is closed, its IDs are free, KDONE is raised where its queue asks for it (R46, R286). -/
def State.closeKernel (s : State) (k : Kernel) : State :=
  let s := s.updKernel k.id fun k => { k with st := .ended, live := [] }
  match s.queues[k.queue]? with
  | some q => match s.kdsRead q.atp (q.hdr + 8) 8 with
    | some w => if bitsOf w 16 1 = 1 then s.interrupt srcKDONE else s
    | none => s
  | none => s

/-- KERNEL_END: the task of another core ends, or, once every core has retired, the result word is written and DONE rises (R33, R48). -/
def State.kernelEnd (s : State) (id : Nat) (others : Option MemberEnd) : State :=
  match s.findKernel id, others with
  | none, _ => s
  | some k, some m => s.memberEnd k m
  | some k, none =>
    if !(k.st == KState.placed) || !k.live.isEmpty then s
    else match s.span k.atp .s .write k.done 16 with
      | .error _ => s.closeKernel k
      | .ok ps =>
        if s.piecesLocked ps then s
        else
          let old := natOf ((s.readPieces none ps).1.take 8)
          match s.writePieces 0 ps (bytesOf 8 ((old + 1) % 2 ^ 64) ++ bytesOf 8 k.result.toNat) with
          | .ok t => t.closeKernel k
          | .error _ => s.closeKernel k

/-! ### Answers of the supervisor and ERET (R247, R250, R347) -/

/-- The core leaves S mode. -/
def State.leaveS (s : State) : State :=
  { s with mode := .u, sup := s.sup.leave, ctx := { s.ctx with rs := s.ctx.rs.resend s.ctx.csr.atp },
           trap := { s.trap with busy := false, ctxcmd := none, skipBreak := true } }

/-- An arrival of a phase that has not completed is withdrawn (R250). -/
def Dom.withdraw (d : Dom) : Dom :=
  let o := d.ownCounted
  { d with arrived := d.arrived - (if 1 ≤ o then 1 else 0), ahead := d.ahead - (if 2 ≤ o then 1 else 0), own := 0, held := [] }

/-- Rerun: the context's state is discarded and it restarts at task 1 with its memberships and the SLVL of a new task (R250, Table 2.4). -/
def State.rerun (s : State) (id : BitVec 16) : State :=
  match s.findCtx id with
  | none => s
  | some c => match s.kernelOf c with
    | none => s
    | some k =>
      let s := ((s.doom id 5).abortTxn id).releaseSnap id
      let s := { s with
        jobs := s.jobs.map (fun (j : Job) => if j.ctx = id then { j with orphan := true } else j),
        preloaded := none, comb := if s.live && s.ctx.id == id then [] else s.comb,
        pending := if s.live && s.ctx.id == id then [] else s.pending }
      let c' := s.newCtx k id c.rank.toNat k.cores.length (c.csr.dmr &&& ~~~7 ||| CtxCsr.reset.dmr) (c.doms.map Dom.withdraw)
      s.updCtx id fun _ => { c' with acmBanks := c.acmBanks, bankSet := c.bankSet, acmRes := c.acmRes, spmRes := c.spmRes }

/-- The cause that a kill records: the trap's, or none after a notice. -/
def State.killCause (s : State) : BitVec 8 := let c : BitVec 8 := s.trap.tcause.extractLsb' 0 8; if c = 0 then 0xFF else c

/-- Whether the handler serves a notice. -/
def State.atNotice (s : State) : Bool := s.mode == .s && s.trap.tcause.extractLsb' 0 8 == (0 : BitVec 8)

/-- CTXCMD resume: the context runs on, with a fresh allowance (R49). -/
def State.cmdResume (s : State) : State := { s.leaveS with ctx := { s.ctx with runTime := 0 } }.doLoad

/-- CTXCMD kill, of the context the handler serves, which records the trap's cause, or of another one, which no trap ended (R33, R251). A preload stays
intact: the successor is dispatched with it (R56; log 52). -/
def State.cmdKill (s : State) (id : BitVec 16) : State :=
  { s.kill id (if id = s.ctx.id then s.killCause else 0xFF) with preloaded := s.preloaded }

/-- The return of the handler after the last CTXCMD written (R250). -/
def State.supReturn (s : State) : State :=
  let back := fun (s : State) =>
    if s.atNotice then s.cmdResume
    else ({ s.trapReturn with trap := { s.trapReturn.trap with ctxcmd := none } } : State).doLoad
  match s.trap.ctxcmd with
  | some (2, id) => if id = s.ctx.id then (s.cmdKill id).leaveS.dispatchNext else back (s.cmdKill id)
  | some (3, id) => if id = s.ctx.id then (s.rerun id).leaveS.doLoad else back (s.rerun id)
  | _ => back s

/-- ERET's traps: PRIV in U mode, a double trap on a misaligned TEPC. -/
def eretTrap (s : State) : Option Trap :=
  match s.mode with
  | .u => some (mkTrap .priv 0 0)
  | .s => if !s.atNotice && s.trap.tepc.toNat % 32 ≠ 0 then some (mkTrap .align 0 (s.trap.tepc.setWidth 64)) else none

def meaningEret : Slot := Slot.scalar [] [] (fun _ s => eretTrap s) noHold fun _ s => s.supReturn

/-! ### One definition per instruction -/

def execEret (g : Guard) (s : State) : Host.Outcome State Fault Refusal := runSlot g meaningEret s
def execLaunchTake (hdr : Word) (queue : QueuePlace) (s : State) : Host.Outcome State Fault Refusal := .next (s.launchTake hdr queue.atp queue.home)
def execDependenceCheck (kernel : Nat) (s : State) : Host.Outcome State Fault Refusal := .next (s.dependenceCheck kernel)
def execPlacement (kernel : Nat) (s : State) : Host.Outcome State Fault Refusal := .next (s.placement kernel)
def execPreload (kernel : Nat) (s : State) : Host.Outcome State Fault Refusal := .next (s.preload kernel)
def execPreemption (kernel : Nat) (s : State) : Host.Outcome State Fault Refusal := .next (s.preemption kernel)
def execQuantumExpiry (s : State) : Host.Outcome State Fault Refusal := .next s.quantum
def execTlimOverrun (s : State) : Host.Outcome State Fault Refusal := .next s.tlimOverrun
def execAgeTick (s : State) : Host.Outcome State Fault Refusal := .next s.ageTick
def execKernelEnd (kernel : Nat) (others : Option MemberEnd) (s : State) : Host.Outcome State Fault Refusal := .next (s.kernelEnd kernel others)
/-- The answers to a notice, each with the return of the core to the dispatcher. -/
def execCtxcmdResume (s : State) : Host.Outcome State Fault Refusal := .next (if s.atNotice then s.cmdResume else s)
def execCtxcmdKill (s : State) : Host.Outcome State Fault Refusal :=
  .next (if s.atNotice then (s.cmdKill s.ctx.id).leaveS.dispatchNext else s)
def execCtxcmdRerun (s : State) : Host.Outcome State Fault Refusal := .next (if s.atNotice then (s.rerun s.ctx.id).leaveS.doLoad else s)
/-- DOMAIN_ARRIVAL, for the running context or one switched out (R42, R53). -/
def execDomainArrival (level : BitVec 3) (who : Arriver) (s : State) : Host.Outcome State Fault Refusal :=
  .next (s.followGroup (s.anyCtx fun s => s.domainArrival level who))

end Sys2Proof.Machine
end

