-- ==== Sys2Proof/Machine/Agents.lean ====
section
/-! DEFINITION. What another agent of the package has the memory system do at its serialisation points: reads, writes and atomics of memory, snapshots and
transactions (R120, R124, R130, R148 to R161). A transaction of another agent is named by its TID. -/

namespace Sys2Proof.Machine

/-- Whether a write of another agent can be performed: within a line, at a place that takes it. -/
def State.foreignOk (s : State) (acc : Acc) (pa n : Nat) : Bool := decide (0 < n) && decide (pa % 128 + n ≤ 128) && (s.checkPlace acc false pa n).isNone

/-- The word that another core's store writes is registered to its context, which may stand descheduled (R54). -/
def State.foreignOwner (s : State) (pa : Nat) (w : Writer) : State :=
  match w with
  | .store true => { s with asleep := BitVec.ofNat 40 (pa / 8 * 8) :: s.asleep }
  | _ => s

/-- A write of another agent: a one-line commit in a versioned page, which a refusal leaves without effect here, else a plain one. Only an engine sets full bits. -/
def State.foreignWrite (s : State) (p : Pa) (rcn : Nat) (bs : List Byte) (w : Writer) : State :=
  let a := p.pa.toNat
  if p.v && placeOf a == .hbm then ((s.oneLineCommit a bs).map fun t => t.dropOwned a bs.length).getD s
  else
    let t := s.agentWrite p rcn bs
    match w, placeOf a with
    | .store _, .window _ _ => s.writePa a bs
    | _, _ => t

/-- A line's page as a foreign access names it; the key domain stays the line's own. -/
def State.foreignPa (s : State) (pa : BitVec 40) (v rca : Bool) : Pa := ⟨pa, v, rca, s.encOf (lineOf pa.toNat)⟩

/-- The lines in which a TID has an entry. -/
def State.tidLines (s : State) (tid : BitVec 12) : List Nat := (s.chains.filter fun l => (entryOf tid l.entries).isSome).map (·.line.toNat)

def State.findForeign (s : State) (tid : BitVec 12) : Option ForeignTxn :=
  if s.foreignCommits.any (·.1 == tid) then none else s.foreignTxns.find? (·.tid == tid)

def State.updForeign (s : State) (tid : BitVec 12) (f : ForeignTxn → ForeignTxn) : State := { s with foreignTxns := updFirst (·.tid == tid) f s.foreignTxns }

/-- The transaction is doomed: its entries go at once (R156). -/
def State.doomForeign (s : State) (tid : BitVec 12) : State := (s.discardTid tid).updForeign tid fun f => { f with doomed := true }

/-- A store of another agent's transaction (R156). -/
def State.foreignTxnStore (s : State) (f : ForeignTxn) (pa : Nat) (bs : List Byte) : State :=
  if f.doomed then s
  else match s.putTentative f.tid f.tsnap (1024 ≤ (s.tidLines f.tid).length) pa bs with
    | .merged t => t
    | .created t => t
    | .tooLarge | .refused => s.doomForeign f.tid

/-- TCOMMIT of another agent: a doomed transaction takes no stamp; one that has written no line commits at once; any other sends its validations (R157). -/
def State.foreignTcommit (s : State) (f : ForeignTxn) : State :=
  let ended := fun (s : State) => { s with foreignTxns := s.foreignTxns.filter (·.tid != f.tid) }
  let slices := ((s.tidLines f.tid).map homeSlice).eraseDups
  if f.doomed then ended s
  else
    let c := s.vsuLast + 1
    if slices.isEmpty then ended { s with vsuLast := c }
    else { s with vsuLast := c, vsuOpen := c :: s.vsuOpen,
                  foreignCommits := s.foreignCommits ++ [(f.tid, { stamp := c, toValidate := slices, toFinalise := slices, abort := false })] }

/-- Whether another agent's request can be accepted now: it waits at a locked line, for room among the snapshots, for its TID. -/
def State.foreignReady (s : State) : ForeignAct → Bool
  | .store pa v _ _ _ _ => !(v && s.lineLocked (lineOf pa.toNat))
  | .atomic pa v _ _ _ => !(v && s.lineLocked (lineOf pa.toNat))
  | .snap => s.snapRoom
  | .tbegin tid _ => !s.usedTids.contains tid
  | _ => true

/-- Another agent's request is accepted at its serialisation point. -/
def State.foreignAct (s : State) (act : ForeignAct) : State :=
  if !s.foreignReady act then s
  else match act with
  | .load pa => if placeOf pa.toNat = .hbm then s.countRead pa.toNat else s
  | .store pa v rca rcn bs w =>
    if s.foreignOk .write pa.toNat bs.length then (s.foreignWrite (s.foreignPa pa v rca) rcn.toNat bs w).foreignOwner pa.toNat w else s
  | .atomic pa v op operand wide =>
    let n := if wide then 8 else 4
    if pa.toNat % n = 0 ∧ s.foreignOk .atomic pa.toNat n then
      let p := s.foreignPa pa v false
      let old := if v && placeOf pa.toNat == .hbm then natOf (lineBytes (s.viewLine none (lineOf pa.toNat)) (pa.toNat % 128) n) else s.numPa pa.toNat n
      s.foreignWrite p 0 (bytesOf n ((combineOp op (BitVec.ofNat 64 old) operand n).toNat % 256 ^ n)) (.store false)
    else s
  | .snap => { s with foreignSnaps := s.foreignSnaps ++ [s.completedMark] }
  | .snapx stamp => { s with foreignSnaps := s.foreignSnaps.erase stamp }
  | .tbegin tid snap => { s with foreignTxns := s.foreignTxns ++ [⟨tid, ((snap.filter s.foreignSnaps.contains).getD s.completedMark), false⟩] }
  | .txnStore tid pa bs => match s.findForeign tid with
    | some f => if placeOf pa.toNat = .hbm ∧ s.foreignOk .write pa.toNat bs.length then s.foreignTxnStore f pa.toNat bs else s
    | none => s
  | .tcommit tid => match s.findForeign tid with
    | some f => s.foreignTcommit f
    | none => s
  | .tabort tid => match s.findForeign tid with
    | some _ => { s.discardTid tid with foreignTxns := s.foreignTxns.filter (·.tid != tid) }
    | none => s
  | .regions core banks =>
    if core = s.coreNum.toNat then s
    else { s with remoteAcm := (s.remoteAcm.filter fun b => b / 32 != core) ++ ((banks.filter (· < 32)).map fun b => 32 * core + b) }

end Sys2Proof.Machine
end

