-- ==== Sys2Proof/Machine/Platform.lean ====
section
/-! DEFINITION. What reaches the core from outside it: arrivals from the memory system (R60, R64, R74, R75), the taking of a pending trap (R245), errors
(R254), the sealing of KV pages and the scrubber (R258, R293), the host, the firmware, the peer ports and the FREEZE input (chapter 15). -/

namespace Sys2Proof.Machine

/-! ### The core and the memory system -/

/-- Whether a pending trap may be taken: at a boundary of U mode, once the first bundle after an ERET has had its turn. -/
def State.trapDue (s : State) : Bool := s.live && s.mode == .u && !s.trap.skipBreak && !(entryHeld s.ctx)

/-- The pending causes that may be taken: PROBEHALT waits until sd has landed (R234). -/
def State.ripe (s : State) : List Trap := if s.rs.due.isEmpty then s.pending else s.pending.filter fun t => t.cause != .probehalt

/-- TRAP_ENTRY: the pending cause that R245 puts first is taken. -/
def State.trapEntry (s : State) : State :=
  if !s.trapDue then s
  else match firstTrap s.ripe with
    | some t => s.enterTrap t
    | none => s

/-- MAILBOX_WRITE: a write of named bytes reaches a mailbox of the context in the core's window, with its arrival bit; it takes effect at that context's next
tick boundary (R75, R76). -/
def State.mailboxWrite (s : State) (k : BitVec 3) (mask : BitVec 8) (v : Word) : State := s.deliverLater s.wctx (.mailbox k mask v)

/-! ### Uncorrectable errors (R254) -/

/-- Where the data of a copy's chunk is read: its address and its first element. -/
def Job.chunkFrom (j : Job) (c : Nat) : Word × Nat :=
  match j.op with
  | .kvcp => ((rowElem j.src (hBase j.src) (j.path.getD c 0) 0 0).1, c * dim1s (hDim0 j.src))
  | .wstr _ _ | .wstrIn _ _ => (hBase j.src, c)
  | .logf _ _ => ((walkElem j.src (hBase j.src) (c * logfV j.src)).1, c * logfV j.src)
  | .gath => let e := (chunkElems c j.elems (hElemBits j.src)).headD 0; (hBase j.src, e)
  | _ => let e := (chunkElems c (hCount j.dst) (hElemBits j.dst)).headD 0; ((walkElem j.src (srcBase j.src) e).1, e)

def CopyOp.readsData : CopyOp → Bool
  | .cpy .. | .cpyr _ | .gath | .scat | .wstr .. | .wstrIn .. | .kvcp | .logf .. => true
  | .bdrv _ | .blat _ | .cnta _ | .skip _ _ | .broken _ | .bitmap _ _ => false

/-- The data of a scalar load is lost: MCHK at the boundary before its landing tick, and its destination is not written. -/
def State.loadError (s : State) (id : Nat) : State :=
  match s.findReq id with
  | some q => match q.kind, q.pa, q.lost with
    | .load _, some p, none | .loadH _, some p, none => (s.logError 0x20 (p.pa.setWidth 64)).loseReq id (p.pa.setWidth 64)
    | _, _, _ => s
  | none => s

/-- The data of a copy's chunk is lost: the chunk fails with cause 0x20. -/
def State.copyError (s : State) (id c : Nat) : State :=
  match s.findJob id with
  | some j =>
    if CopyOp.readsData j.op && s.started j && j.mayRun c then
      let (va, e) := j.chunkFrom c
      (s.logError 0x20 va).failChunk j c (⟨.mchk, va⟩, e)
    else s
  | none => s

/-- The DMP kills a resident context; the handler that served it has nothing left to serve. -/
def State.killResident (s : State) (id : BitVec 16) : State :=
  if (s.findCtx id).isNone then s
  else
    let serving := s.mode == .s && s.live && s.ctx.id == id
    let t := (s.logError 0x20 0).kill id 0x20
    (if serving then t.dropSupervisor else t).dispatchNext

/-- UNCORRECTABLE_ERROR, or a corrected one, which is logged and raises nothing. -/
def State.uncorrectable (s : State) (place : ErrorPlace) : State :=
  match place with
  | .loadData id => s.loadError id
  | .copyData id c => s.copyError id c
  | .memory line => { s with poison := BitVec.ofNat 40 (lineOf line.toNat) :: s.poison }
  | .contextBank id => s.killResident id
  | .sharedLogic => (s.logError 0x20 0).coreLost
  | .soft line => { s with soft := BitVec.ofNat 40 (lineOf line.toNat) :: s.soft }
  | .corrected detail => s.logError 0 detail

/-! ### Sealing (R256 to R259) -/

/-- A node of the code tree: weight, rank of R258's ties (leaves by symbol, then internal nodes by creation), symbols beneath. -/
structure HNode where
  weight : Nat
  rank : Nat
  syms : List Nat
  deriving DecidableEq, Repr

def HNode.le (a b : HNode) : Bool := decide (a.weight < b.weight) || (a.weight == b.weight && decide (a.rank ≤ b.rank))

/-- Merge the two lowest nodes until one is left; each merge deepens the symbols beneath by one. -/
def huffGo : Nat → Nat → List HNode → List Nat → List Nat
  | fuel + 1, next, a :: b :: rest, depth =>
    let m : HNode := ⟨a.weight + b.weight, next, a.syms ++ b.syms⟩
    huffGo fuel (next + 1) (insertBy HNode.le m rest) (depth.zipIdx.map fun (d, i) => if m.syms.contains i then d + 1 else d)
  | _, _, _, depth => depth

/-- The depths of the leaves of one tree. -/
def huffDepths (h : List Nat) : List Nat :=
  let leaves : List HNode := (h.zipIdx.filter fun x => x.1 != 0).map fun x => ⟨x.1, x.2, [x.2]⟩
  huffGo 16 16 (leaves.foldl (fun l x => insertBy HNode.le x l) []) (List.replicate 16 0)

/-- Trees until no code is longer than 12 bits, the counts halved between them. -/
def huffLengths : Nat → List Nat → List Nat
  | 0, h => huffDepths h
  | fuel + 1, h =>
    let d := huffDepths h
    if d.all (· ≤ 12) then d else huffLengths fuel (h.map fun x => (x + 1) / 2)

/-- LEN for the counts of a page's top nibbles. -/
def codeLengths (h : List Nat) : List Nat :=
  if (h.filter (· != 0)).length = 1 then h.map fun x => if x = 0 then 0 else 1 else huffLengths 17 h

/-- How often each top nibble occurs. -/
def nibbleCounts : List Byte → Vector Nat 16 → Vector Nat 16
  | [], h => h
  | b :: bs, h => let k : Fin 16 := (b.extractLsb' 4 4).toFin; nibbleCounts bs (h.set k.val (h[k.val] + 1))

/-- The low nibbles of a chunk, two to a byte, the even element low (R257). -/
def lowNibbles : List Byte → List Byte
  | a :: b :: r => BitVec.ofNat 8 (a.toNat % 16 + 16 * (b.toNat % 16)) :: lowNibbles r
  | _ => []

/-- The code stream of a chunk's top nibbles, element 0 first (R257, R258). -/
def codeStream (ls : List Nat) (bs : List Byte) : List Byte :=
  let table := kvCode ls
  packBits (bs.flatMap fun b => match table.find? (·.1 == b.toNat / 16) with | some x => msbBits x.2.1 x.2.2 | none => [])

/-- Bytes padded with 0 to whole sectors of 128. -/
def padSectors (bs : List Byte) : List Byte := bs ++ List.replicate ((128 - bs.length % 128) % 128) 0

/-- How sealing stores a chunk (R258): its header byte, and the bytes of its slot that it writes. Constant where all bytes are equal, encoded where that fits in
15 sectors, else raw. -/
def storeChunk (ls : List Nat) (bs : List Byte) : Byte × List Byte :=
  if bs.all (· == bs.headD 0) then (0, [bs.headD 0])
  else
    let enc := lowNibbles bs ++ padSectors (codeStream ls bs)
    let sectors := enc.length / 128
    if sectors ≤ 15 then (BitVec.ofNat 8 (sectors - 1), enc) else (0x1F, bs)

/-- The second pass over a page: each chunk whose bytes are known is stored; one whose expansion fails stays as it is. -/
def State.storePage (s : State) (hdr page : Nat) (ls : List Nat) : List Byte × Mem :=
  (List.range 32).foldl (fun (acc : List Byte × Mem) c => match s.chunkBytes hdr page c with
    | some bs => let x := storeChunk ls bs; (acc.1 ++ [x.1], Memory.write acc.2 (page + 2048 * c) x.2)
    | none => (acc.1 ++ [Memory.get s.mem (hdr + 8 + c) &&& 0x1F], acc.2)) ([], s.mem)

/-- Each chunk of a page whose expansion fails as the BDE reads it counts (R260). -/
def State.countBad (s : State) (page : Nat) : State := (List.range 32).foldl (fun s c => s.kvError (page + 2048 * c)) s

/-- SEAL: the page whose header asks for it is sealed in one step. The BDE writes the header whole, its reserved bits as 0 (R8); a copy of it that the core's L1
owned is out of date and leaves. -/
def State.sealPage (s : State) (page : BitVec 40) : State :=
  match s.kvPageHeader page.toNat with
  | some (hdr, 0) =>
    if !s.feature featKVC || !(Memory.get s.mem (hdr + 40)).getLsbD 0 then s
    else
      let s := s.countBad page.toNat
      let bs := ((List.range 32).filterMap fun c => s.chunkBytes hdr page.toNat c).flatten
      let ls := codeLengths (nibbleCounts bs (Vector.replicate 16 0)).toList
      let (forms, m) := s.storePage hdr page.toNat ls
      let ctl := (Memory.get s.mem (hdr + 40) &&& 4) ||| 2
      ({ s with mem := Memory.write (Memory.setNum m hdr 8 (packLanes 4 ls)) (hdr + 8) (forms ++ ctl :: List.replicate 23 0) } : State).dropOwned hdr 64
  | _ => s

/-- The key version of a line: its stack's pass, one more below the scrub pointer (R292, R293). -/
def State.keyVersion (s : State) (line : BitVec 40) : Nat :=
  let p := s.scrub.toList.getD (line.toNat / 2 ^ 36) ⟨0, 0⟩
  p.pass + if line.setWidth 36 < p.pointer then 1 else 0

/-- A record of the scrubber: the address in [39:0] and the pass above it (R293). -/
def State.logScrub (s : State) (code : BitVec 8) (line : BitVec 40) (pass : Nat) : State := s.logError code (BitVec.ofNat 64 (line.toNat + 2 ^ 40 * pass))

/-- SCRUB_STEP: the line at its stack's pointer is re-encrypted under the next key version; its data stays. A single-symbol error is corrected, an uncorrectable
one stays; each is logged (R293). -/
def State.scrubStep (s : State) (line : BitVec 40) : State :=
  if h : line.toNat / 2 ^ 36 < 8 then
    let p := s.scrub[line.toNat / 2 ^ 36]
    if p.pointer = line.setWidth 36 then
      let q : Scrub := if p.pointer.toNat + 128 = 2 ^ 36 then ⟨0, p.pass + 1⟩ else ⟨p.pointer + 128, p.pass⟩
      let s := if s.soft.contains line then { s with soft := s.soft.filter (· != line) }.logScrub 0 line p.pass else s
      let s := if s.poisoned line.toNat 128 then s.logScrub 0x20 line p.pass else s
      { s with scrub := s.scrub.set (line.toNat / 2 ^ 36) q }
    else s
  else s

/-! ### Bring-up (R283, R290) -/

def State.updHost (s : State) (f : HostIf → HostIf) : State := { s with host := f s.host }

/-- In RECOVERY the adapter accepts only a new image (R290): what else the host sends does nothing. -/
def State.fromHost (s : State) (f : State → State) : State := if s.host.devst = 4 then s else f s

/-- POWER_ON: the boot ROMs read their images; a recovery image that was written stands in the firmware store's place. -/
def State.powerOn (s : State) : State :=
  if s.host.devst ≠ 0 then s
  else ((s.updHost fun h => { h with firmware := if h.recovery.isEmpty then h.firmware else h.recovery, raised := false }).setDevst 1)

/-- Why the boot ROM of a die refuses its image (R290), 0 for none: 4 unreadable, 1 bad signature, 2 key mismatch, 3 rolled back. Of several reasons the first in
the order of the checks. -/
def HostIf.bootCode (h : HostIf) : Option DieImage → BitVec 8
  | none => 4
  | some i => if !i.signed then 1 else if i.keyHash ≠ h.keyHash then 2 else if i.version < h.version then 3 else 0

/-- The codes of the eight dies. -/
def HostIf.bootCodes (h : HostIf) (images : List (Option DieImage)) : List (BitVec 8) := (List.range 8).map fun d => h.bootCode (images.getD d none)

/-- The fused minimum after a verified boot: an image may raise it, once per boot, and never lowers it. -/
def HostIf.raiseMinimum (h : HostIf) (images : List DieImage) : HostIf :=
  let to' := (images.filter (·.raises)).foldl (fun v i => max v i.version) h.version
  if h.raised || to' = h.version then h else { h with version := to', raised := true }

/-- DIES_READY: READY, or RECOVERY with BOOTERR naming the failing dies and the code of the lowest-numbered of them (log 15). The firmware writes the port map,
generates the memory keys and may grant debug unlock (R289, R292, R294). -/
def State.diesReady (s : State) (images : List (Option DieImage)) (ports : List (BitVec 4)) : State :=
  if s.host.devst ≠ 1 then s
  else
    let codes := s.host.bootCodes images
    if codes.all (· == 0) then
      let is := images.filterMap id
      let t := s.updHost fun h => { h.raiseMinimum is with
        digests := Vector.ofFn fun d => ((images.getD d.val none).map (·.digest)).getD 0,
        unlocked := is.any (·.unlock),
        keys := Vector.ofFn fun d => Config.memoryKey (s.draws + d.val) }
      { t with draws := s.draws + 16, peers := Vector.ofFn fun p => { t.peers[p] with member := ports.getD p.val (BitVec.ofFin p) } }.setDevst 2
    else
      let failed := BitVec.ofNat 8 (codes.zipIdx.foldl (fun m c => if c.1 = 0 then m else m + 2 ^ c.2) 0)
      let code := (codes.find? (· != 0)).getD 0
      let e : Word := 0#48 ++ failed ++ code
      ((s.updHost fun h => { h with booterr := e }).logError code e).setDevst 4

/-- MODULE_RESET: everything returns to its reset value but the fuses, the firmware images and what the outside holds. -/
def State.moduleReset (s : State) : State :=
  { State.reset with
    agenda := s.agenda, draws := s.draws, seq := s.seq, coreNum := s.coreNum, peerMem := s.peerMem, peerWin := s.peerWin,
    host := { HostIf.reset with version := s.host.version, keyHash := s.host.keyHash, recovery := s.host.recovery, firmware := s.host.firmware, messages := s.host.messages } }

/-- ARM (R283). -/
def State.arm (s : State) (v : Word) : State :=
  let h := s.host
  if h.devst ≠ 2 ∨ !v.getLsbD 0 then s
  else
    let f := h.facc &&& h.feat
    if 10 < h.stg.toNat ∨ 32 < h.vpool.toNat then s.updHost fun h => { h with facc := f, booterr := 0x10 }
    else (s.updHost fun h => { h with facc := f, accepted := f, pool := h.vpool, staging := h.stg, package := h.pkgno }).setDevst 3

/-! ### Host registers (Table 15.1) -/

/-- A vector that is pending and no longer masked is sent. -/
def HostIf.sendPending (h : HostIf) (n : Nat) : HostIf :=
  let b : BitVec 5 := BitVec.ofNat 5 (2 ^ n)
  if h.msixOn && !h.msixMask && h.msixPending &&& b != 0 && !msixMasked (h.msix.toList.getD n 0) then
    { h with msixPending := h.msixPending &&& ~~~b, messages := h.messages ++ [BitVec.ofNat 3 n] }
  else h

/-- The control word of the MSI-X capability: enable and function mask; what is pending and masked no longer is sent (log 17). -/
def HostIf.control (h : HostIf) (v : Word) : HostIf :=
  (List.range 5).foldl HostIf.sendPending { h with msixOn := v.getLsbD 15, msixMask := v.getLsbD 14 }

/-- HOST_REG_WRITE: 8 bytes of a BAR0 register. FACC and HCFG take a write in READY alone. -/
def HostIf.regWrite (h : HostIf) (o : Nat) (v : Word) : HostIf :=
  if o = 0x0008 then { h with apbase := v.extractLsb' 36 4 }
  else if 0x0040 ≤ o ∧ o < 0x0060 ∧ o % 8 = 0 then
    if h.devst = 2 then { h with facc := setBits h.facc (8 * (o - 0x0040)) 64 v.toNat } else h
  else if o = 0x0060 then
    if h.devst = 2 then { h with pkgno := v.extractLsb' 12 12, vpool := v.extractLsb' 4 6, stg := v.extractLsb' 0 4 } else h
  else if o = 0x0080 then { h with inten := v.extractLsb' 0 5 }
  else if 0x2000 ≤ o ∧ o < 0x2050 ∧ o % 8 = 0 then
    let n := (o - 0x2000) / 16
    { h with msix := h.msix.setIfInBounds n (setBits (h.msix.toList.getD n 0) (8 * (o % 16)) 64 v.toNat) }.sendPending n
  else h

/-- INTST_CLEAR: a write of 1 clears a source (R286). -/
def HostIf.clear (h : HostIf) (v : Word) : HostIf := { h with intst := h.intst &&& ~~~(v.extractLsb' 0 5) }

/-- BAR2_ACCESS: a device physical access at APBASE's window, performed in order; one that fails the checks of R114 is not performed. -/
def State.bar2 (s : State) (write : Bool) (offset : BitVec 36) (size : Size) (v : Word) : State :=
  let pa := s.host.apbase.toNat * 2 ^ 36 + offset.toNat
  let n := sizeBytes size
  if offset.toNat % n ≠ 0 then s
  else if (s.checkPlace (if write then .write else .read) true pa n).isSome then (if write then s else s.kvError pa)
  else if write then ((if placeOf pa = .hbm then s.uncount pa else s).dropOwned pa n).writePa pa (bytesOf n v.toNat)
  else if placeOf pa = .hbm then s.countRead pa else s

/-! ### Attestation and recovery (R290, R291) -/

/-- ATTEST_REQUEST: the nonce at BAR4 offset 0 and the request at offset 32; an unfinished request is replaced. -/
def State.attestRequest (s : State) (nonce : BitVec 256) : State :=
  s.updHost fun h => { h with nonce := nonce, attestReq := true, attestDone := false }

/-- HCFG as the host reads it. -/
def HostIf.hcfg (h : HostIf) : Word := 0#40 ++ h.pkgno ++ 0#2 ++ h.vpool ++ h.stg

/-- The part of a report that is signed. -/
def HostIf.reportBody (h : HostIf) : List Byte :=
  bytesOf 32 h.nonce.toNat
    ++ (h.digests.toList.map fun d => bytesOf 32 d.toNat).flatten
    ++ bytesOf 32 h.feat.toNat ++ bytesOf 32 h.facc.toNat ++ bytesOf 8 h.hcfg.toNat ++ bytesOf 8 h.version
    ++ bytesOf 1312 (Config.identityKey h.digests.toList).toNat

/-- ATTEST_REPORT: the report is placed at offset 1,024 and offset 40 reads 1. -/
def State.attestReport (s : State) : State :=
  if !s.host.attestReq then s
  else
    let b := s.host.reportBody
    (s.updHost fun h => { h with attestReq := false, attestDone := true, report := b ++ bytesOf 2420 (Config.signature b).toNat }).interrupt
      srcATTEST

/-- RECOVERY_IMAGE_WRITE: in RECOVERY alone the adapter takes a new image through BAR4. -/
def State.recoveryWrite (s : State) (offset : BitVec 13) (v : Word) : State :=
  if s.host.devst ≠ 4 then s
  else s.updHost fun h => { h with recovery := Memory.setNum h.recovery offset.toNat 8 v.toNat }

/-! ### Peer ports (R288) -/

/-- Replays of one flit that may fail before the port goes down. -/
def maxReplays : Nat := 8

def State.updPeer (s : State) (p : BitVec 4) (f : PeerPort → PeerPort) : State := { s with peers := s.peers.set p.toNat (f s.peers[p.toNat]) }

/-- Whether bytes lie in this package's peer window (PEXB, PEXL: 64 KiB units, R289). -/
def State.exposed (s : State) (pa n : Nat) : Bool := decide (s.pexb.toNat * 65536 ≤ pa) && decide (pa + n ≤ (s.pexb.toNat + s.pexl.toNat) * 65536)

/-- A chunk of another package's copy at this one: nothing is performed outside the peer window, where the chunk fails there (R289). -/
def State.peerChunk (s : State) (c : FlitLoad) : State :=
  match c with
  | .own _ => s
  | .read pa n => if s.exposed pa.toNat n then (piecesOf (pa.setWidth 64) n).foldl (fun s r => s.foreignAct (.load (BitVec.ofNat 40 r.1))) s else s
  | .write pa bs =>
    if s.exposed pa.toNat bs.length then
      (piecesOf (pa.setWidth 64) bs.length).foldl (fun s r =>
        s.foreignAct (.store (BitVec.ofNat 40 r.1) false false 0 ((bs.drop (r.1 - pa.toNat)).take r.2) .engine)) s
    else s
  | .reduce pa op operand wide => if s.exposed pa.toNat (if wide then 8 else 4) then s.foreignAct (.atomic pa false op operand wide) else s

/-- The copy of this package that owns a flit. -/
def flitOwner : FlitLoad → Option Nat
  | .own j => j
  | _ => none

/-- FLIT_RECEIVE: a good flit in sequence is taken and the chunk it carries performed, one seen before is dropped, any other is asked for again. -/
def State.flit (s : State) (port : BitVec 4) (crcOk : Bool) (number : Nat) (carried : FlitLoad) : State :=
  let p := s.peers[port.toNat]
  if !p.up then s
  else if crcOk ∧ number = p.number then (s.updPeer port fun p => { p with number := p.number + 1, replays := 0 }).peerChunk carried
  else if crcOk ∧ number < p.number then s
  else if maxReplays < p.replays then s
  else
    let s := s.updPeer port fun p => { p with replays := p.replays + 1 }
    if p.replays = maxReplays then s
    else match (flitOwner carried).bind s.findJob with
      | some j => s.postTo j.ctx 0x0012 (engineCode j.slot) 0 j.bundle
      | none => s

/-- PORT_DOWN: after the eighth failed replay; the firmware logs it. -/
def State.portDown (s : State) (port : BitVec 4) : State :=
  let p := s.peers[port.toNat]
  if p.up ∧ maxReplays < p.replays then (s.updPeer port fun p => { p with up := false }).logError 0x20 (port.setWidth 64) else s

/-- PORT_UP: the firmware brings a port up, and knows from its member the window that it exposes (R288, R289). -/
def State.portUp (s : State) (window : PeerWindow) : State :=
  let port := window.port
  let m := s.peers[port.toNat].member
  let s := { s with peerWin := (m, window.base ++ 0#16, window.len ++ 0#16) :: s.peerWin.filter (·.1 != m) }
  if s.peers[port.toNat].up then s else s.updPeer port fun p => { p with up := true, number := 0, replays := 0 }

/-! ### FREEZE (R294) and the management port (R243) -/

def State.freeze (s : State) : State :=
  if s.host.frozen then s else (s.updHost fun h => { h with frozen := true, thawed := h.devst }).setDevst 5

def State.thaw (s : State) : State :=
  if s.host.frozen then (s.updHost fun h => { h with frozen := false }).setDevst s.host.thawed else s

/-- What a scan read-out captures: while the package is frozen, all architectural state, key memory read as 0 unless debug unlock was granted (R294). -/
def State.scanOut (s : State) : Option State :=
  if !s.host.frozen then none
  else some (if s.host.unlocked then s else s.updHost fun h => { h with keys := Vector.replicate 16 0 })

/-- The DMP's write of a CSR of the subject core that supervisors write too. -/
def State.portStore (s : State) (n : Nat) (v : Word) : State := { ({ s with mode := .s } : State).csrStore n v with mode := s.mode }

/-- MANAGEMENT_PORT_ACCESS: a die's firmware writes a CSR of one of its cores (R243). PBGNT, PWT and the peer window are the package's, OPPFLR the die's and the BDE
registers the stack's; the others are state here of the subject core alone. A grant moves HELD and the group's total, and the token point with them. -/
def State.management (s : State) (core : BitVec 8) (csr : BitVec 12) (v : Word) : State :=
  let n := csr.toNat
  if 0xF20 ≤ n ∧ n ≤ 0xF22 then s.bdeStore (core.toNat / 32) n v
  else if n = 0xF31 then s.grant (v.extractLsb' 0 32)
  else if 0xF38 ≤ n ∧ n ≤ 0xF3F then (s.fStore n v).applyCeiling
  else if n = 0xF40 ∨ n = 0xF41 then s.fStore n v
  else if n = 0xF30 then (if core.toNat / 32 = s.coreNum.toNat / 32 then s.oppflr (v.extractLsb' 0 3) else s)
  else if core ≠ s.coreNum then s
  else if n < 0xF00 then s.portStore n v
  else if n = 0xF12 then s.publishProbes
  else s.fStore n v

/-! ### One definition per instruction -/

def execDataArrival (req : Nat) (s : State) : Host.Outcome State Fault Refusal := .next (s.arrived req)
def execResultLanding (s : State) : Host.Outcome State Fault Refusal := .next s.landDue
def execTrapEntry (s : State) : Host.Outcome State Fault Refusal := .next s.trapEntry
def execMailboxWrite (k : BitVec 3) (mask : BitVec 8) (v : Word) (s : State) : Host.Outcome State Fault Refusal := .next (s.mailboxWrite k mask v)
def execRequestAccepted (req : ReqSource) (s : State) : Host.Outcome State Fault Refusal :=
  .next (match req with | .own id => s.accepted id | .foreign act => s.foreignAct act)
def execTranslationComplete (req : Nat) (s : State) : Host.Outcome State Fault Refusal := .next (s.translated req)
def execBundleFetched (pa : BitVec 40) (s : State) : Host.Outcome State Fault Refusal := .next (s.bundleFetched pa)
def execSealPage (page : BitVec 40) (s : State) : Host.Outcome State Fault Refusal := .next (s.sealPage page)
def execScrubStep (line : BitVec 40) (s : State) : Host.Outcome State Fault Refusal := .next (s.scrubStep line)
def execUncorrectableError (place : ErrorPlace) (s : State) : Host.Outcome State Fault Refusal := .next (s.uncorrectable place)
/-- Firmware clears a core that was marked offline. -/
def execCoreOfflineClear (s : State) : Host.Outcome State Fault Refusal := .next { s with offline := false }
def execPowerOn (s : State) : Host.Outcome State Fault Refusal := .next s.powerOn
def execDiesReady (images : List (Option DieImage)) (ports : List (BitVec 4)) (s : State) : Host.Outcome State Fault Refusal :=
  .next (s.diesReady images ports)
def execModuleReset (s : State) : Host.Outcome State Fault Refusal := .next s.moduleReset
def execArm (v : Word) (s : State) : Host.Outcome State Fault Refusal := .next (s.arm v)
def execIntstClear (v : Word) (s : State) : Host.Outcome State Fault Refusal := .next (s.fromHost (·.updHost fun h => h.clear v))
def execHostRegWrite (reg : HostReg) (v : Word) (s : State) : Host.Outcome State Fault Refusal :=
  .next (s.fromHost (·.updHost fun h => match reg with | .bar0 offset => h.regWrite offset.toNat v | .msixControl => h.control v))
def execBar2Access (write : Bool) (offset : BitVec 36) (size : Size) (v : Word) (s : State) : Host.Outcome State Fault Refusal :=
  .next (s.fromHost (·.bar2 write offset size v))
def execAttestRequest (nonce : BitVec 256) (s : State) : Host.Outcome State Fault Refusal := .next (s.fromHost (·.attestRequest nonce))
def execAttestReport (s : State) : Host.Outcome State Fault Refusal := .next s.attestReport
def execRecoveryImageWrite (offset : BitVec 13) (v : Word) (s : State) : Host.Outcome State Fault Refusal := .next (s.recoveryWrite offset v)
def execFlitReceive (port : BitVec 4) (crcOk : Bool) (number : Nat) (carried : FlitLoad) (s : State) : Host.Outcome State Fault Refusal :=
  .next (s.flit port crcOk number carried)
def execPortDown (port : BitVec 4) (s : State) : Host.Outcome State Fault Refusal := .next (s.portDown port)
def execPortUp (window : PeerWindow) (s : State) : Host.Outcome State Fault Refusal := .next (s.portUp window)
def execFreezeAssert (s : State) : Host.Outcome State Fault Refusal := .next s.freeze
def execFreezeRelease (s : State) : Host.Outcome State Fault Refusal := .next s.thaw
def execManagementPortAccess (reg : CoreCsr) (v : Word) (s : State) : Host.Outcome State Fault Refusal :=
  .next (s.management reg.core reg.csr v)

end Sys2Proof.Machine
end

