-- ==== Sys2Proof/Machine/Dispatch.lean ====
section
/-! DEFINITION. The dispatch: one arm for each constructor of Instr, one call of its meaning. -/

namespace Sys2Proof.Machine

def exec (i : Instr) (s : State) : Host.Outcome State Fault Refusal :=
  match i with
  | .oppRequest tgt => Sys2Proof.Machine.execOppRequest tgt s
  | .nop g => Sys2Proof.Machine.execNop g s
  | .add g d a b => Sys2Proof.Machine.execAdd g d a b s
  | .sub g d a b => Sys2Proof.Machine.execSub g d a b s
  | .and g d a b => Sys2Proof.Machine.execAnd g d a b s
  | .or g d a b => Sys2Proof.Machine.execOr g d a b s
  | .xor g d a b => Sys2Proof.Machine.execXor g d a b s
  | .andn g d a b => Sys2Proof.Machine.execAndn g d a b s
  | .shl g d a b => Sys2Proof.Machine.execShl g d a b s
  | .shr g d a b => Sys2Proof.Machine.execShr g d a b s
  | .sra g d a b => Sys2Proof.Machine.execSra g d a b s
  | .min g d a b => Sys2Proof.Machine.execMin g d a b s
  | .minu g d a b => Sys2Proof.Machine.execMinu g d a b s
  | .max g d a b => Sys2Proof.Machine.execMax g d a b s
  | .maxu g d a b => Sys2Proof.Machine.execMaxu g d a b s
  | .mul g d a b => Sys2Proof.Machine.execMul g d a b s
  | .mulh g d a b => Sys2Proof.Machine.execMulh g d a b s
  | .mulhu g d a b => Sys2Proof.Machine.execMulhu g d a b s
  | .div g d a b => Sys2Proof.Machine.execDiv g d a b s
  | .divu g d a b => Sys2Proof.Machine.execDivu g d a b s
  | .clz g d a => Sys2Proof.Machine.execClz g d a s
  | .popc g d a => Sys2Proof.Machine.execPopc g d a s
  | .sel g d a b code => Sys2Proof.Machine.execSel g d a b code s
  | .cmpGuard g n a b cc => Sys2Proof.Machine.execCmpGuard g n a b cc s
  | .cmpRegister g d a b cc => Sys2Proof.Machine.execCmpRegister g d a b cc s
  | .cmpi g toReg d a cc imm => Sys2Proof.Machine.execCmpi g toReg d a cc imm s
  | .lea g d a b n => Sys2Proof.Machine.execLea g d a b n s
  | .ext g d a pos len sx => Sys2Proof.Machine.execExt g d a pos len sx s
  | .ins g d a pos len => Sys2Proof.Machine.execIns g d a pos len s
  | .addi g d a imm => Sys2Proof.Machine.execAddi g d a imm s
  | .andi g d a imm => Sys2Proof.Machine.execAndi g d a imm s
  | .ori g d a imm => Sys2Proof.Machine.execOri g d a imm s
  | .xori g d a imm => Sys2Proof.Machine.execXori g d a imm s
  | .shli g d a count => Sys2Proof.Machine.execShli g d a count s
  | .shri g d a count => Sys2Proof.Machine.execShri g d a count s
  | .srai g d a count => Sys2Proof.Machine.execSrai g d a count s
  | .movi g d imm => Sys2Proof.Machine.execMovi g d imm s
  | .movk g d value k => Sys2Proof.Machine.execMovk g d value k s
  | .fadd g d a b => Sys2Proof.Machine.execFadd g d a b s
  | .fsub g d a b => Sys2Proof.Machine.execFsub g d a b s
  | .fmul g d a b => Sys2Proof.Machine.execFmul g d a b s
  | .ffma g d a b c => Sys2Proof.Machine.execFfma g d a b c s
  | .fmin g d a b => Sys2Proof.Machine.execFmin g d a b s
  | .fmax g d a b => Sys2Proof.Machine.execFmax g d a b s
  | .fcmp g toReg d a b cc => Sys2Proof.Machine.execFcmp g toReg d a b cc s
  | .fcvt g d a dst src nsat rm => Sys2Proof.Machine.execFcvt g d a dst src nsat rm s
  | .ld g d base disp size sx ord scope lat => Sys2Proof.Machine.execLd g d base disp size sx ord scope lat s
  | .st g data base disp size ord scope => Sys2Proof.Machine.execSt g data base disp size ord scope s
  | .ldfe g d base disp size peek ord scope lat => Sys2Proof.Machine.execLdfe g d base disp size peek ord scope lat s
  | .stfe g data base disp size ord scope => Sys2Proof.Machine.execStfe g data base disp size ord scope s
  | .amo g d a b op size ord scope lat => Sys2Proof.Machine.execAmo g d a b op size ord scope lat s
  | .amor g d a b op size level => Sys2Proof.Machine.execAmor g d a b op size level s
  | .cas g d a b c failAcq size ord scope lat => Sys2Proof.Machine.execCas g d a b c failAcq size ord scope lat s
  | .red g a b op size ord scope => Sys2Proof.Machine.execRed g a b op size ord scope s
  | .fence g sc ord scope => Sys2Proof.Machine.execFence g sc ord scope s
  | .br g cond a offset => Sys2Proof.Machine.execBr g cond a offset s
  | .jmp g a offset => Sys2Proof.Machine.execJmp g a offset s
  | .call g offset => Sys2Proof.Machine.execCall g offset s
  | .callRegister g a offset => Sys2Proof.Machine.execCallRegister g a offset s
  | .ret g => Sys2Proof.Machine.execRet g s
  | .bloop g offset => Sys2Proof.Machine.execBloop g offset s
  | .exit g n => Sys2Proof.Machine.execExit g n s
  | .exitLeave g => Sys2Proof.Machine.execExitLeave g s
  | .trap g code => Sys2Proof.Machine.execTrap g code s
  | .svc g code => Sys2Proof.Machine.execSvc g code s
  | .eret g => Sys2Proof.Machine.execEret g s
  | .waitm g data base disp size scope cc => Sys2Proof.Machine.execWaitm g data base disp size scope cc s
  | .waitc g n a imm => Sys2Proof.Machine.execWaitc g n a imm s
  | .sync g => Sys2Proof.Machine.execSync g s
  | .arrive g => Sys2Proof.Machine.execArrive g s
  | .grab g d base ord scope lat => Sys2Proof.Machine.execGrab g d base ord scope lat s
  | .yield g => Sys2Proof.Machine.execYield g s
  | .csrr g d csr => Sys2Proof.Machine.execCsrr g d csr s
  | .csrrRemote g d a csr lat => Sys2Proof.Machine.execCsrrRemote g d a csr lat s
  | .csrw g a csr => Sys2Proof.Machine.execCsrw g a csr s
  | .csrs g a csr => Sys2Proof.Machine.execCsrs g a csr s
  | .csrc g a csr => Sys2Proof.Machine.execCsrc g a csr s
  | .tlbiAll g => Sys2Proof.Machine.execTlbiAll g s
  | .tlbiAsid g a => Sys2Proof.Machine.execTlbiAsid g a s
  | .tlbiPage g a b => Sys2Proof.Machine.execTlbiPage g a b s
  | .cflush g a b => Sys2Proof.Machine.execCflush g a b s
  | .cinv g a b ins => Sys2Proof.Machine.execCinv g a b ins s
  | .hld g h base disp ord scope => Sys2Proof.Machine.execHld g h base disp ord scope s
  | .hst g h base disp ord scope => Sys2Proof.Machine.execHst g h base disp ord scope s
  | .hset g h a f => Sys2Proof.Machine.execHset g h a f s
  | .hget g d h f => Sys2Proof.Machine.execHget g d h f s
  | .hadvHead g h a => Sys2Proof.Machine.execHadvHead g h a s
  | .hadvTail g h a => Sys2Proof.Machine.execHadvTail g h a s
  | .hwait g h => Sys2Proof.Machine.execHwait g h s
  | .bind g p h wr peek => Sys2Proof.Machine.execBind g p h wr peek s
  | .unbindPort g p => Sys2Proof.Machine.execUnbindPort g p s
  | .unbindHandle g h => Sys2Proof.Machine.execUnbindHandle g h s
  | .mpset g n a => Sys2Proof.Machine.execMpset g n a s
  | .acq g k a => Sys2Proof.Machine.execAcq g k a s
  | .arel g k => Sys2Proof.Machine.execArel g k s
  | .averRead g d k => Sys2Proof.Machine.execAverRead g d k s
  | .averWait g k v => Sys2Proof.Machine.execAverWait g k v s
  | .mload g a => Sys2Proof.Machine.execMload g a s
  | .maskld g a b => Sys2Proof.Machine.execMaskld g a b s
  | .snap g d => Sys2Proof.Machine.execSnap g d s
  | .snapx g => Sys2Proof.Machine.execSnapx g s
  | .tbegin g d => Sys2Proof.Machine.execTbegin g d s
  | .tcommit g d => Sys2Proof.Machine.execTcommit g d s
  | .tabort g => Sys2Proof.Machine.execTabort g s
  | .vpub g h scope => Sys2Proof.Machine.execVpub g h scope s
  | .vbind g hd hs a => Sys2Proof.Machine.execVbind g hd hs a s
  | .tapx g d h a b post => Sys2Proof.Machine.execTapx g d h a b post s
  | .tapw g a => Sys2Proof.Machine.execTapw g a s
  | .sqget g d a b => Sys2Proof.Machine.execSqget g d a b s
  | .sqnode g d a b sealing noNode => Sys2Proof.Machine.execSqnode g d a b sealing noNode s
  | .sqaccMask g d a b => Sys2Proof.Machine.execSqaccMask g d a b s
  | .sqaccAccept g d a b => Sys2Proof.Machine.execSqaccAccept g d a b s
  | .sqcommit g d a => Sys2Proof.Machine.execSqcommit g d a s
  | .sqroll g d a => Sys2Proof.Machine.execSqroll g d a s
  | .sqsetAdmit g d a b => Sys2Proof.Machine.execSqsetAdmit g d a b s
  | .sqsetPreempt g d a b => Sys2Proof.Machine.execSqsetPreempt g d a b s
  | .sqsetResume g d a b => Sys2Proof.Machine.execSqsetResume g d a b s
  | .sqsetRelease g d a b => Sys2Proof.Machine.execSqsetRelease g d a b s
  | .sqsetRetire g d a b => Sys2Proof.Machine.execSqsetRetire g d a b s
  | .sqsetPool g d a b => Sys2Proof.Machine.execSqsetPool g d a b s
  | .rngseed g a b => Sys2Proof.Machine.execRngseed g a b s
  | .ecmarkRead g d => Sys2Proof.Machine.execEcmarkRead g d s
  | .ecmarkMark g d a => Sys2Proof.Machine.execEcmarkMark g d a s
  | .vnop k g => Sys2Proof.Machine.execVnop k g s
  | .vadd k g t d a b => Sys2Proof.Machine.execVadd k g t d a b s
  | .vsub k g t d a b => Sys2Proof.Machine.execVsub k g t d a b s
  | .vmul k g t d a b => Sys2Proof.Machine.execVmul k g t d a b s
  | .vfma k g t d a b c => Sys2Proof.Machine.execVfma k g t d a b c s
  | .vmin k g t d a b => Sys2Proof.Machine.execVmin k g t d a b s
  | .vmax k g t d a b => Sys2Proof.Machine.execVmax k g t d a b s
  | .vabs k g t d a => Sys2Proof.Machine.execVabs k g t d a s
  | .vneg k g t d a => Sys2Proof.Machine.execVneg k g t d a s
  | .vexp2 k g t d a => Sys2Proof.Machine.execVexp2 k g t d a s
  | .vlog2 k g t d a => Sys2Proof.Machine.execVlog2 k g t d a s
  | .vrcp k g t d a => Sys2Proof.Machine.execVrcp k g t d a s
  | .vrsq k g t d a => Sys2Proof.Machine.execVrsq k g t d a s
  | .vcvt k g dst d a rm src => Sys2Proof.Machine.execVcvt k g dst d a rm src s
  | .vcmp k g t d a b cc => Sys2Proof.Machine.execVcmp k g t d a b cc s
  | .vsel k g t d a b => Sys2Proof.Machine.execVsel k g t d a b s
  | .vand k g t d a b => Sys2Proof.Machine.execVand k g t d a b s
  | .vor k g t d a b => Sys2Proof.Machine.execVor k g t d a b s
  | .vxor k g t d a b => Sys2Proof.Machine.execVxor k g t d a b s
  | .vshl k g t d a b => Sys2Proof.Machine.execVshl k g t d a b s
  | .vshr k g t d a b => Sys2Proof.Machine.execVshr k g t d a b s
  | .vrsum k g t d a => Sys2Proof.Machine.execVrsum k g t d a s
  | .vrmax k g t d a => Sys2Proof.Machine.execVrmax k g t d a s
  | .vscan k g t d a => Sys2Proof.Machine.execVscan k g t d a s
  | .vtopk k g t d a km1 idx => Sys2Proof.Machine.execVtopk k g t d a km1 idx s
  | .vperm k g t d a b => Sys2Proof.Machine.execVperm k g t d a b s
  | .vmov k g t d a => Sys2Proof.Machine.execVmov k g t d a s
  | .vrng k g t d => Sys2Proof.Machine.execVrng k g t d s
  | .mnop g => Sys2Proof.Machine.execMnop g s
  | .mcall g routine expected region pop bump ignv => Sys2Proof.Machine.execMcall g routine expected region pop bump ignv s
  | .cnop c g => Sys2Proof.Machine.execCnop c g s
  | .cpy c g hs hd n ar rcn nsat cons => Sys2Proof.Machine.execCpy c g hs hd n ar rcn nsat cons s
  | .cpyr c g hs hd n ar op => Sys2Proof.Machine.execCpyr c g hs hd n ar op s
  | .gath c g hs hd n ar hx => Sys2Proof.Machine.execGath c g hs hd n ar hx s
  | .scat c g hs hd n ar hx => Sys2Proof.Machine.execScat c g hs hd n ar hx s
  | .chain c g hs n ch => Sys2Proof.Machine.execChain c g hs n ch s
  | .bdrv c g hs n mask => Sys2Proof.Machine.execBdrv c g hs n mask s
  | .blat c g hd n pos => Sys2Proof.Machine.execBlat c g hd n pos s
  | .wstr c g hs hd n wb1 mask => Sys2Proof.Machine.execWstr c g hs hd n wb1 mask s
  | .kvcp c g hs hd n ar => Sys2Proof.Machine.execKvcp c g hs hd n ar s
  | .cnta c g n inc => Sys2Proof.Machine.execCnta c g n inc s
  | .logf c g hs hd n ar keep km1 => Sys2Proof.Machine.execLogf c g hs hd n ar keep km1 s
  | .xnop g => Sys2Proof.Machine.execXnop g s
  | .xpose g d a w => Sys2Proof.Machine.execXpose g d a w s
  | .xcvt g d a pair h => Sys2Proof.Machine.execXcvt g d a pair h s
  | .xexp g d a l w => Sys2Proof.Machine.execXexp g d a l w s
  | .xpack g d a l w => Sys2Proof.Machine.execXpack g d a l w s
  | .dataArrival req => Sys2Proof.Machine.execDataArrival req s
  | .resultLanding => Sys2Proof.Machine.execResultLanding s
  | .trapEntry => Sys2Proof.Machine.execTrapEntry s
  | .mailboxWrite k byteMask value => Sys2Proof.Machine.execMailboxWrite k byteMask value s
  | .domainArrival level who => Sys2Proof.Machine.execDomainArrival level who s
  | .copyChunk job chunk => Sys2Proof.Machine.execCopyChunk job chunk s
  | .copyComplete job => Sys2Proof.Machine.execCopyComplete job s
  | .copyfault job => Sys2Proof.Machine.execCopyfault job s
  | .cfresResume => Sys2Proof.Machine.execCfresResume s
  | .cfresDiscard => Sys2Proof.Machine.execCfresDiscard s
  | .chainRecord ch => Sys2Proof.Machine.execChainRecord ch s
  | .wbEntryFill source => Sys2Proof.Machine.execWbEntryFill source s
  | .portFetch p => Sys2Proof.Machine.execPortFetch p s
  | .portBeatWrite p => Sys2Proof.Machine.execPortBeatWrite p s
  | .busSlot driver last beat => Sys2Proof.Machine.execBusSlot driver last beat s
  | .messageDelivery outbound source payload => Sys2Proof.Machine.execMessageDelivery outbound source payload s
  | .rngRefill => Sys2Proof.Machine.execRngRefill s
  | .callStart => Sys2Proof.Machine.execCallStart s
  | .maskLoad => Sys2Proof.Machine.execMaskLoad s
  | .wordStart => Sys2Proof.Machine.execWordStart s
  | .wordRetire => Sys2Proof.Machine.execWordRetire s
  | .drain => Sys2Proof.Machine.execDrain s
  | .callEnd => Sys2Proof.Machine.execCallEnd s
  | .validate slice => Sys2Proof.Machine.execValidate slice s
  | .finalise slice => Sys2Proof.Machine.execFinalise slice s
  | .vkill tid => Sys2Proof.Machine.execVkill tid s
  | .muckerReclaim => Sys2Proof.Machine.execMuckerReclaim s
  | .sliceEvict line => Sys2Proof.Machine.execSliceEvict line s
  | .pageReturn => Sys2Proof.Machine.execPageReturn s
  | .pendingTokenMove slot => Sys2Proof.Machine.execPendingTokenMove slot s
  | .sqevqPush => Sys2Proof.Machine.execSqevqPush s
  | .crossingApply => Sys2Proof.Machine.execCrossingApply s
  | .tevrRecord => Sys2Proof.Machine.execTevrRecord s
  | .steerWriteback tap => Sys2Proof.Machine.execSteerWriteback tap s
  | .tapComplete tap => Sys2Proof.Machine.execTapComplete tap s
  | .tapqPush => Sys2Proof.Machine.execTapqPush s
  | .launchTake hdr queue => Sys2Proof.Machine.execLaunchTake hdr queue s
  | .dependenceCheck kernel => Sys2Proof.Machine.execDependenceCheck kernel s
  | .placement kernel => Sys2Proof.Machine.execPlacement kernel s
  | .preload kernel => Sys2Proof.Machine.execPreload kernel s
  | .preemption kernel => Sys2Proof.Machine.execPreemption kernel s
  | .quantumExpiry => Sys2Proof.Machine.execQuantumExpiry s
  | .tlimOverrun => Sys2Proof.Machine.execTlimOverrun s
  | .ageTick => Sys2Proof.Machine.execAgeTick s
  | .kernelEnd kernel others => Sys2Proof.Machine.execKernelEnd kernel others s
  | .ctxcmdResume => Sys2Proof.Machine.execCtxcmdResume s
  | .ctxcmdKill => Sys2Proof.Machine.execCtxcmdKill s
  | .ctxcmdRerun => Sys2Proof.Machine.execCtxcmdRerun s
  | .ctxdatWrite value => Sys2Proof.Machine.execCtxdatWrite value s
  | .rglenWrite value => Sys2Proof.Machine.execRglenWrite value s
  | .feopClear first count => Sys2Proof.Machine.execFeopClear first count s
  | .feopSet first count => Sys2Proof.Machine.execFeopSet first count s
  | .ptsync => Sys2Proof.Machine.execPtsync s
  | .sealPage page => Sys2Proof.Machine.execSealPage page s
  | .scrubStep line => Sys2Proof.Machine.execScrubStep line s
  | .uncorrectableError place => Sys2Proof.Machine.execUncorrectableError place s
  | .settlingWindowEnd => Sys2Proof.Machine.execSettlingWindowEnd s
  | .stallrRefresh total held split => Sys2Proof.Machine.execStallrRefresh total held split s
  | .splitStageChange stage => Sys2Proof.Machine.execSplitStageChange stage s
  | .droopStretch => Sys2Proof.Machine.execDroopStretch s
  | .thermalNotice source point => Sys2Proof.Machine.execThermalNotice source point s
  | .thermalRelease source => Sys2Proof.Machine.execThermalRelease source s
  | .oppflrWrite value => Sys2Proof.Machine.execOppflrWrite value s
  | .lend tokens outgoing => Sys2Proof.Machine.execLend tokens outgoing s
  | .recall tokens => Sys2Proof.Machine.execRecall tokens s
  | .energyReconcile reading => Sys2Proof.Machine.execEnergyReconcile reading s
  | .powerOn => Sys2Proof.Machine.execPowerOn s
  | .diesReady images ports => Sys2Proof.Machine.execDiesReady images ports s
  | .moduleReset => Sys2Proof.Machine.execModuleReset s
  | .arm value => Sys2Proof.Machine.execArm value s
  | .intstClear value => Sys2Proof.Machine.execIntstClear value s
  | .hostRegWrite reg value => Sys2Proof.Machine.execHostRegWrite reg value s
  | .bar2Access write offset size value => Sys2Proof.Machine.execBar2Access write offset size value s
  | .attestRequest nonce => Sys2Proof.Machine.execAttestRequest nonce s
  | .attestReport => Sys2Proof.Machine.execAttestReport s
  | .recoveryImageWrite offset value => Sys2Proof.Machine.execRecoveryImageWrite offset value s
  | .flitReceive port crcOk number carried => Sys2Proof.Machine.execFlitReceive port crcOk number carried s
  | .portDown port => Sys2Proof.Machine.execPortDown port s
  | .freezeAssert => Sys2Proof.Machine.execFreezeAssert s
  | .freezeRelease => Sys2Proof.Machine.execFreezeRelease s
  | .requestAccepted req => Sys2Proof.Machine.execRequestAccepted req s
  | .translationComplete req => Sys2Proof.Machine.execTranslationComplete req s
  | .bundleFetched pa => Sys2Proof.Machine.execBundleFetched pa s
  | .ownedWordEviction pa => Sys2Proof.Machine.execOwnedWordEviction pa s
  | .hostqTraceqDrain trace => Sys2Proof.Machine.execHostqTraceqDrain trace s
  | .portUp window => Sys2Proof.Machine.execPortUp window s
  | .droopClear => Sys2Proof.Machine.execDroopClear s
  | .managementPortAccess reg value => Sys2Proof.Machine.execManagementPortAccess reg value s
  | .tokenReconcile held group => Sys2Proof.Machine.execTokenReconcile held group s
  | .coreOfflineClear => Sys2Proof.Machine.execCoreOfflineClear s

end Sys2Proof.Machine
end

