-- ==== Sys2Proof/Machine/Sequencer.lean ====
section
/-! DEFINITION. The sequencer: fetching a bundle, the trap that R245 ranks first, the issue of its slots in one tick (R58 to R67, R74, R245), what ends
a hold after issue, and the steps that the engines and units can take while the core does not move (log 1). -/

namespace Sys2Proof.Machine

/-- The guard and the meaning of a slot instruction; none for a step that no slot holds. -/
def meaningOf (i : Instr) : Option (Guard × Slot) :=
  match i with
  | .nop g => some (g, slotNop)
  | .add g d a b => some (g, meaningAdd d a b)
  | .sub g d a b => some (g, meaningSub d a b)
  | .and g d a b => some (g, meaningAnd d a b)
  | .or g d a b => some (g, meaningOr d a b)
  | .xor g d a b => some (g, meaningXor d a b)
  | .andn g d a b => some (g, meaningAndn d a b)
  | .shl g d a b => some (g, meaningShl d a b)
  | .shr g d a b => some (g, meaningShr d a b)
  | .sra g d a b => some (g, meaningSra d a b)
  | .min g d a b => some (g, meaningMin d a b)
  | .minu g d a b => some (g, meaningMinu d a b)
  | .max g d a b => some (g, meaningMax d a b)
  | .maxu g d a b => some (g, meaningMaxu d a b)
  | .mul g d a b => some (g, meaningMul d a b)
  | .mulh g d a b => some (g, meaningMulh d a b)
  | .mulhu g d a b => some (g, meaningMulhu d a b)
  | .div g d a b => some (g, meaningDiv d a b)
  | .divu g d a b => some (g, meaningDivu d a b)
  | .clz g d a => some (g, meaningClz d a)
  | .popc g d a => some (g, meaningPopc d a)
  | .sel g d a b code => some (g, meaningSel d a b code)
  | .cmpGuard g n a b cc => some (g, meaningCmp false (n.setWidth 6) a b cc)
  | .cmpRegister g d a b cc => some (g, meaningCmp true d a b cc)
  | .cmpi g toReg d a cc imm => some (g, meaningCmpi toReg d a cc imm)
  | .lea g d a b n => some (g, meaningLea d a b n)
  | .ext g d a pos len sx => some (g, meaningExt d a pos len sx)
  | .ins g d a pos len => some (g, meaningIns d a pos len)
  | .addi g d a imm => some (g, meaningAddi d a imm)
  | .andi g d a imm => some (g, meaningAndi d a imm)
  | .ori g d a imm => some (g, meaningOri d a imm)
  | .xori g d a imm => some (g, meaningXori d a imm)
  | .shli g d a n => some (g, meaningShli d a n)
  | .shri g d a n => some (g, meaningShri d a n)
  | .srai g d a n => some (g, meaningSrai d a n)
  | .movi g d imm => some (g, meaningMovi d imm)
  | .movk g d v k => some (g, meaningMovk d v k)
  | .fadd g d a b => some (g, meaningFadd d a b)
  | .fsub g d a b => some (g, meaningFsub d a b)
  | .fmul g d a b => some (g, meaningFmul d a b)
  | .ffma g d a b c => some (g, meaningFfma d a b c)
  | .fmin g d a b => some (g, meaningFmin d a b)
  | .fmax g d a b => some (g, meaningFmax d a b)
  | .fcmp g toReg d a b cc => some (g, meaningFcmp toReg d a b cc)
  | .fcvt g d a dst src nsat rm => some (g, meaningFcvt d a dst src nsat rm)
  | .ld g d base disp size sx ord scope lat => some (g, meaningLd d base disp size sx ord scope lat)
  | .st g data base disp size ord scope => some (g, meaningSt data base disp size ord scope)
  | .ldfe g d base disp size peek ord scope lat => some (g, meaningLdfe d base disp size peek ord scope lat)
  | .stfe g data base disp size ord scope => some (g, meaningStfe data base disp size ord scope)
  | .amo g d a b op size ord scope lat => some (g, meaningAmo d a b op size ord scope lat)
  | .amor g d a b op size level => some (g, meaningAmor d a b op size level)
  | .cas g d a b c failAcq size ord scope lat => some (g, meaningCas d a b c failAcq size ord scope lat)
  | .red g a b op size ord scope => some (g, meaningRed a b op size ord scope)
  | .fence g sc ord _ => some (g, meaningFence sc ord)
  | .br g cond a offset => some (g, meaningBr cond a offset)
  | .jmp g a offset => some (g, meaningJmp a offset)
  | .call g offset => some (g, meaningCall offset)
  | .callRegister g a offset => some (g, meaningCallRegister a offset)
  | .ret g => some (g, meaningRet)
  | .bloop g offset => some (g, meaningBloop offset)
  | .exit g n => some (g, meaningExit g n false)
  | .exitLeave g => some (g, meaningExit g 0 true)
  | .trap g code => some (g, meaningTrap .trap code)
  | .svc g code => some (g, meaningTrap .svc code)
  | .eret g => some (g, meaningEret)
  | .waitm g data base disp size scope cc => some (g, meaningWaitm data base disp size scope cc)
  | .waitc g n a imm => some (g, meaningWaitc n a imm)
  | .sync g => some (g, meaningArrive true)
  | .arrive g => some (g, meaningArrive false)
  | .grab g d base ord scope lat => some (g, meaningGrab d base ord scope lat)
  | .yield g => some (g, meaningYield)
  | .csrr g d csr => some (g, meaningCsrr d csr)
  | .csrrRemote g d a csr lat => some (g, meaningCsrrRemote d a csr lat)
  | .csrw g a csr => some (g, meaningCsrWrite .write a csr (.csrw g a csr))
  | .csrs g a csr => some (g, meaningCsrWrite .set a csr (.csrs g a csr))
  | .csrc g a csr => some (g, meaningCsrWrite .clear a csr (.csrc g a csr))
  | .tlbiAll g => some (g, meaningTlbiAll)
  | .tlbiAsid g a => some (g, meaningTlbiAsid a)
  | .tlbiPage g a b => some (g, meaningTlbiPage a b)
  | .cflush g a b => some (g, meaningCflush a b)
  | .cinv g a b i => some (g, meaningCinv a b i)
  | .hld g h base disp ord scope => some (g, meaningHld h base disp ord scope)
  | .hst g h base disp ord scope => some (g, meaningHst h base disp ord scope)
  | .hset g h a f => some (g, meaningHset h a f)
  | .hget g d h f => some (g, meaningHget d h f)
  | .hadvHead g h a => some (g, meaningHadv h a false)
  | .hadvTail g h a => some (g, meaningHadv h a true)
  | .hwait g h => some (g, meaningHwait h)
  | .bind g p h wr peek => some (g, meaningBind p h wr peek)
  | .unbindPort g p => some (g, meaningUnbindPort p)
  | .unbindHandle g h => some (g, meaningUnbindHandle h)
  | .mpset g n a => some (g, meaningMpset n a)
  | .acq g k a => some (g, meaningAcq k a)
  | .arel g k => some (g, meaningArel k)
  | .averRead g d k => some (g, meaningAverRead d k)
  | .averWait g k v => some (g, meaningAverWait k v)
  | .mload g a => some (g, meaningMload a)
  | .maskld g a b => some (g, meaningMaskld a b (.maskld g a b))
  | .snap g d => some (g, meaningSnap d)
  | .snapx g => some (g, meaningSnapx)
  | .tbegin g d => some (g, meaningTbegin d)
  | .tcommit g d => some (g, meaningTcommit d)
  | .tabort g => some (g, meaningTabort)
  | .vpub g h scope => some (g, meaningVpub h scope)
  | .vbind g hd hs a => some (g, meaningVbind hd hs a)
  | .tapx g d h a b post => some (g, (meaningTapx d h a b post).tapsOnly (.tapx g d h a b post))
  | .tapw g a => some (g, (meaningTapw a).tapsOnly (.tapw g a))
  | .sqget g d a b => some (g, meaningSq d a (some b) .get)
  | .sqnode g d a b sealing noNode => some (g, meaningSq d a (some b) (.node sealing noNode))
  | .sqaccMask g d a b => some (g, meaningSq d a (some b) .mask)
  | .sqaccAccept g d a b => some (g, meaningSq d a (some b) .accept)
  | .sqcommit g d a => some (g, meaningSq d a none .commit)
  | .sqroll g d a => some (g, meaningSq d a none .roll)
  | .sqsetAdmit g d a b => some (g, meaningSq d a (some b) .admitSlot)
  | .sqsetPreempt g d a b => some (g, meaningSq d a (some b) .preempt)
  | .sqsetResume g d a b => some (g, meaningSq d a (some b) .resume)
  | .sqsetRelease g d a b => some (g, meaningSq d a (some b) .release)
  | .sqsetRetire g d a b => some (g, meaningSq d a (some b) .retire)
  | .sqsetPool g d a b => some (g, meaningSq d a (some b) .pool)
  | .rngseed g a b => some (g, meaningRngseed a b)
  | .ecmarkRead g d => some (g, meaningEcmarkRead d)
  | .ecmarkMark g d a => some (g, meaningEcmarkMark d a)
  | .vnop _ g => some (g, slotNop)
  | .vadd k g t d a b => some (g, meaningVadd k t d a b)
  | .vsub k g t d a b => some (g, meaningVsub k t d a b)
  | .vmul k g t d a b => some (g, meaningVmul k t d a b)
  | .vfma k g t d a b c => some (g, meaningVfma k t d a b c)
  | .vmin k g t d a b => some (g, meaningVmin k t d a b)
  | .vmax k g t d a b => some (g, meaningVmax k t d a b)
  | .vabs k g t d a => some (g, meaningVabs k t d a)
  | .vneg k g t d a => some (g, meaningVneg k t d a)
  | .vexp2 k g t d a => some (g, meaningVtrans .exp2 k t d a)
  | .vlog2 k g t d a => some (g, meaningVtrans .log2 k t d a)
  | .vrcp k g t d a => some (g, meaningVtrans .rcp k t d a)
  | .vrsq k g t d a => some (g, meaningVtrans .rsq k t d a)
  | .vcvt k g dst d a rm src => some (g, meaningVcvt k dst d a rm src)
  | .vcmp k g t d a b cc => some (g, meaningVcmp k t d a b cc)
  | .vsel k g t d a b => some (g, meaningVsel k t d a b)
  | .vand k g t d a b => some (g, meaningVand k t d a b)
  | .vor k g t d a b => some (g, meaningVor k t d a b)
  | .vxor k g t d a b => some (g, meaningVxor k t d a b)
  | .vshl k g t d a b => some (g, meaningVshl k t d a b)
  | .vshr k g t d a b => some (g, meaningVshr k t d a b)
  | .vrsum k g t d a => some (g, meaningVrsum k t d a)
  | .vrmax k g t d a => some (g, meaningVrmax k t d a)
  | .vscan k g t d a => some (g, meaningVscan k t d a)
  | .vtopk k g t d a km1 idx => some (g, meaningVtopk k t d a km1 idx)
  | .vperm k g t d a b => some (g, meaningVperm k t d a b)
  | .vmov k g t d a => some (g, meaningVmov k t d a)
  | .vrng k g t d => some (g, meaningVrng k t d)
  | .mnop g => some (g, slotNop)
  | .mcall g routine expected region pop bump ignv => some (g, meaningMcall routine expected region pop bump ignv)
  | .cnop _ g => some (g, slotNop)
  | .cpy c g hs hd n ar rcn nsat cons => some (g, meaningCpy c hs hd n ar rcn nsat cons (.cpy c g hs hd n ar rcn nsat cons))
  | .cpyr c g hs hd n ar op => some (g, meaningCpyr c hs hd n ar op)
  | .gath c g hs hd n ar hx => some (g, meaningGather c false hs hd n ar hx)
  | .scat c g hs hd n ar hx => some (g, meaningGather c true hs hd n ar hx)
  | .chain c g hs _ ch => some (g, meaningChain c hs ch)
  | .bdrv c g hs n mask => some (g, meaningBdrv c hs n mask)
  | .blat c g hd n pos => some (g, meaningBlat c hd n pos (.blat c g hd n pos))
  | .wstr c g hs hd n wb1 mask => some (g, meaningWstr c hs hd n wb1 mask)
  | .kvcp c g hs hd n ar => some (g, meaningKvcp c hs hd n ar)
  | .cnta c g n inc => some (g, meaningCnta c n inc)
  | .logf c g hs hd n ar keep km1 => some (g, meaningLogf c hs hd n ar keep km1)
  | .xnop g => some (g, slotNop)
  | .xpose g d a w => some (g, meaningXpose d a w)
  | .xcvt g d a pair h => some (g, meaningXcvt d a pair h)
  | .xexp g d a l w => some (g, meaningXexp d a l w)
  | .xpack g d a l w => some (g, meaningXpack d a l w)
  | .oppRequest _ => none
  | .dataArrival _ => none
  | .resultLanding => none
  | .trapEntry => none
  | .mailboxWrite _ _ _ => none
  | .domainArrival _ _ => none
  | .copyChunk _ _ => none
  | .copyComplete _ => none
  | .copyfault _ => none
  | .cfresResume => none
  | .cfresDiscard => none
  | .chainRecord _ => none
  | .wbEntryFill _ => none
  | .portFetch _ => none
  | .portBeatWrite _ => none
  | .busSlot _ _ _ => none
  | .messageDelivery _ _ _ => none
  | .rngRefill => none
  | .callStart => none
  | .maskLoad => none
  | .wordStart => none
  | .wordRetire => none
  | .drain => none
  | .callEnd => none
  | .validate _ => none
  | .finalise _ => none
  | .vkill _ => none
  | .muckerReclaim => none
  | .sliceEvict _ => none
  | .pageReturn => none
  | .pendingTokenMove _ => none
  | .sqevqPush => none
  | .crossingApply => none
  | .tevrRecord => none
  | .steerWriteback _ => none
  | .tapComplete _ => none
  | .tapqPush => none
  | .launchTake _ _ => none
  | .dependenceCheck _ => none
  | .placement _ => none
  | .preload _ => none
  | .preemption _ => none
  | .quantumExpiry => none
  | .tlimOverrun => none
  | .ageTick => none
  | .kernelEnd _ _ => none
  | .ctxcmdResume => none
  | .ctxcmdKill => none
  | .ctxcmdRerun => none
  | .ctxdatWrite _ => none
  | .rglenWrite _ => none
  | .feopClear _ _ => none
  | .feopSet _ _ => none
  | .ptsync => none
  | .sealPage _ => none
  | .scrubStep _ => none
  | .uncorrectableError _ => none
  | .settlingWindowEnd => none
  | .stallrRefresh _ _ _ => none
  | .splitStageChange _ => none
  | .droopStretch => none
  | .thermalNotice _ _ => none
  | .thermalRelease _ => none
  | .oppflrWrite _ => none
  | .lend _ _ => none
  | .recall _ => none
  | .energyReconcile _ => none
  | .powerOn => none
  | .diesReady _ _ => none
  | .moduleReset => none
  | .arm _ => none
  | .intstClear _ => none
  | .hostRegWrite _ _ => none
  | .bar2Access _ _ _ _ => none
  | .attestRequest _ => none
  | .attestReport => none
  | .recoveryImageWrite _ _ => none
  | .flitReceive _ _ _ _ => none
  | .portDown _ => none
  | .freezeAssert => none
  | .freezeRelease => none
  | .requestAccepted _ => none
  | .translationComplete _ => none
  | .bundleFetched _ => none
  | .ownedWordEviction _ => none
  | .hostqTraceqDrain _ => none
  | .portUp _ => none
  | .droopClear => none
  | .managementPortAccess _ _ => none
  | .tokenReconcile _ _ => none
  | .coreOfflineClear => none
/-! ### Fetching (R74, R107, R122) -/

/-- The bundle at an address: a fetch fault, MCHK where its bytes are lost (R254), or its bits with the caches that the fetch leaves. -/
def State.fetch (s : State) (pc : Word) : Except Trap (BundleBits × State) :=
  match s.translate s.ctx.csr.atp s.mode .exec false pc 32 with
  | .error f => .error (if f.1 = .mchk then mkAsync (f.2.getD pc) else mkTrap f.1 7 pc)
  | .ok p =>
    let a := p.pa.toNat / 32 * 32
    let s := match s.leafIn s.ctx.csr.atp pc.toNat with
      | some l => s.tlbFill s.ctx.csr.atp pc.toNat l
      | none => s
    match s.icache.find? (·.pa.toNat == a) with
    | some l => .ok (l.bits, s)
    | none =>
      if s.lostAt a 32 || s.encLost p.enc a then .error (mkAsync (BitVec.ofNat 64 a))
      else .ok (BitVec.ofNat 256 (s.numPa a 32), s.bundleFetched p.pa)

/-- BREAK (R244): the first bundle after an ERET is not matched. -/
def State.breakTrap (s : State) : Option Trap :=
  if s.trap.bken && !s.trap.skipBreak && s.rs.pc == s.trap.bkaddr.setWidth 64 then some (mkTrap .break_ 7 s.rs.pc) else none

/-! ### The trap of a bundle (R245) -/

/-- A slot that its guard selects. -/
def State.selected (s : State) (i : Instr) : Option Slot :=
  match meaningOf i with
  | some (g, m) => if guardOn g s then some m else none
  | none => none

def State.slotTrap (s : State) (i : Instr) : Option Trap := (s.selected i).bind fun m => m.trap s

/-- ILLSLOT or ILLOP of a slot, as decoding finds it. -/
def SlotFate.trap (f : SlotFate) : Trap :=
  mkTrap (match f.fate with | .illslot => .illslot | .illop => .illop) f.slot f.bits

/-- The first ILLOP in slot order, of decoding or of a value found at issue. -/
def State.firstIllop (s : State) : List (Except SlotFate Instr) → Option Trap
  | [] => none
  | .error f :: r => if f.fate = .illop then some (SlotFate.trap f) else s.firstIllop r
  | .ok i :: r => match s.slotTrap i with
    | some t => if t.cause = .illop then some t else s.firstIllop r
    | none => s.firstIllop r

/-- The trap of a bundle that does not decode: a header or slot ILLSLOT, else the first ILLOP. -/
def State.fateTrap (s : State) (w : BundleBits) (f : SlotFate) : Trap :=
  match f.fate with
  | .illslot => SlotFate.trap f
  | .illop => (s.firstIllop (Slots.ofBundle w).decoded).getD (SlotFate.trap f)

/-- OPPSETTLE inside a settling window: a request, or work in V0, V1, M or X, guarded off or not (R268). -/
def State.settleTrap (s : State) (w : BundleBits) (b : Bundle) : Option Trap :=
  let p := Slots.ofBundle w
  let at' := fun (n : BitVec 3) => some (mkTrap .oppsettle n (BitVec.ofNat 64 s.power.rem))
  if !s.power.settling then none
  else if b.request.isSome then at' 7
  else if p.v0 ≠ 0 then at' 1 else if p.v1 ≠ 0 then at' 2 else if p.m ≠ 0 then at' 3 else if p.x ≠ 0 then at' 6 else none

/-- PORT of a transpose whose source has no beat left (R81, R206): it pushes nothing. -/
def State.xposeTrap (s : State) : Option Trap :=
  match s.mode, s.ctx.xpose with
  | .u, some x => s.readTrap 6 x.src
  | _, _ => none

/-- The transpose ends without its pushes. -/
def State.cancelXpose (s : State) : State :=
  match s.ctx.xpose with
  | none => s
  | some x =>
    let r := s.ctx.rs
    let owed := fun (f : Flight) => decide (x.order ≤ f.order) && decide (f.order < x.order + 64 / xposeRows x.w)
    { s with ctx := { s.ctx with xpose := none, rs := { r with flights := r.flights.filter fun f => !owed f } } }

/-- A trap of the tick is taken; PORT of a transpose, whose source has no beat left, ends the transpose (R206). -/
def State.raiseAt (s : State) (t : Trap) : State := (if s.xposeTrap = some t ∧ t.cause = .port then s.cancelXpose else s).raise t

/-- The bundle's trap, in the order of R245: ILLOP, OPPSETTLE, BREAK, the slots' other causes, and last what a slot finds in an access. -/
def State.bundleTrap (s : State) (w : BundleBits) (b : Bundle) : Option Trap :=
  let ts := b.slots.filterMap s.slotTrap
  (ts.find? (·.cause == .illop)).or ((s.settleTrap w b).or (s.breakTrap.or ((ts.find? (·.kind == .bundle)).or (s.xposeTrap.or ts.head?))))

/-! ### Issue (R60, R65, R67) -/

/-- How the slots of a bundle come out: one holds, one traps, or all have acted. -/
inductive Issued
  | held
  | trapped (t : Trap)
  | acted (s : State)

/-- The state an instruction leaves. -/
def State.after (s : State) (i : Instr) : Option State :=
  match exec i s with
  | .next t => some t
  | _ => none

/-- Run slots one after another: `s` is the state of the tick, which fixes the guards. -/
def State.runSlots (s : State) : List Instr → State → Issued
  | [], t => .acted t
  | i :: is, t => match s.selected i with
    | none => s.runSlots is t
    | some m => match m.trap t with
      | some x => .trapped x
      | none =>
        if m.hold t then .held
        else match t.after i with
          | some u => s.runSlots is u
          | none => .held

/-- Instructions of the S slot that act after the other slots of their bundle, which read the state of the tick (R60): ERET leaves S mode (R347); SNAP,
TBEGIN, TABORT and MLOAD change at once what a copy or a call of the same bundle takes with it. -/
def actsLast : Instr → Bool
  | .eret _ | .snap _ _ | .tbegin _ _ | .tabort _ | .mload _ _ => true
  | _ => false

/-- The instruction of a bundle that acts last, as its guard selects it. -/
def State.lastOf (s : State) (is : List Instr) : Option (Instr × Slot) :=
  is.findSome? fun i => if actsLast i then (s.selected i).map fun m => (i, m) else none

/-- The operands of an instruction that acts last are read in slot order all the same: of these only MLOAD has one (R70). -/
def lastOperands (i : Instr) (t : State) : List Word × State :=
  match i with
  | .mload _ a => operands [a] t
  | _ => ([], t)

/-- Its act on what the other slots leave, with its operands. -/
def lastAct (i : Instr) (m : Slot) (vs : List Word) (u : State) : State :=
  match i with
  | .mload _ _ => u.mloadNow vs
  | _ => m.act u

/-- Every slot of a bundle acts, or it holds or traps: `t` is the state of the tick as the slots find it, `header` judges the bundle's request (R266). -/
def State.runBundle (s : State) (is : List Instr) (header : State → State) (t : State) : Issued :=
  let rest := is.filter fun i => !actsLast i
  match t.lastOf is with
  | none => match s.runSlots rest t with
    | .acted u => .acted (header u)
    | r => r
  | some (i, m) => match m.trap t with
    | some x => .trapped x
    | none =>
      if m.hold t then .held
      else
        let (vs, t) := lastOperands i t
        match s.runSlots rest t with
        | .acted u => .acted (lastAct i m vs (header u))
        | r => r

/-- The wait that EXIT began lasts to the latest landing (R348). -/
def RegSet.fixWait (r : RegSet) : RegSet :=
  match r.wait with
  | .exitDrain n l 0 => { r with wait := .exitDrain n l (r.lastDue fun _ => true) }
  | _ => r

/-- Whether the tick ends as the bundle has issued. -/
def Wait.passes : Wait → Bool
  | .none | .exitDrain .. => true
  | _ => false

/-- The bundle has issued: the next address is in force, and the tick ends unless an instruction holds the core. -/
def State.issued (s t : State) : State :=
  if t.mode != s.mode then { t with power := t.power.tickWindow s.tickName }
  else
    let r := t.rs.fixWait
    let t := t.setRs { r with cur := r.pc, pc := r.npc }
    let t := { t with trap := { t.trap with skipBreak := false } }
    if Wait.passes r.wait then t.boundary else t.setRs { t.rs with mid := true }

/-- The last landing tick that the bundle awaits in empty ticks, by its first slot as its guard stands now; the bundle issues in the tick after it (R67). -/
def State.awaited (s : State) (b : Bundle) : Option Nat :=
  match s.selected (b.slots.headD (.nop 0)), s.rs.wait with
  | some m, .emptyUntil n => some (max n (m.empty s))
  | some m, _ => if s.rs.tick < m.empty s then some (m.empty s) else none
  | none, _ => none

/-- The power controller or the transpose unit keeps the tick back (Table 3.2). -/
def State.tickHeld (s : State) : Bool := s.power.droop || s.settlingHold || !s.xposeReady

/-- A tick in which the bundle awaits results: none while it is held. -/
def State.waitTick (s : State) : Option State :=
  match s.xposeTrap with
  | some t => some (s.raiseAt t)
  | none => if s.tickHeld then none else some s.emptyTick

/-- Issue a decoded bundle: an empty tick, a trap, a hold (none), or the state after it. What the slots read, their guards and their traps are those of
the tick in which they issue (R60, R67). -/
def State.issue (s : State) (w : BundleBits) (b : Bundle) : Option State :=
  match s.awaited b with
  | some n => (s.setRs { s.rs with wait := .emptyUntil n }).waitTick
  | none =>
    match s.bundleTrap w b with
    | some t => some (s.raiseAt t)
    | none =>
      if s.tickHeld then none
      else
        let t := (s.setRs { s.rs with npc := s.rs.pc + 32, wait := .none }).xposeTake
        let header := fun (u : State) => match b.request with
          | some i => (u.after i).getD u
          | none => u
        match s.runBundle b.slots header t with
        | .held => none
        | .trapped x => some (s.raise x)
        | .acted u => some (s.issued u)

/-- A bundle's fetch, decoding and issue. -/
def State.issueNext (s : State) : Option State :=
  match s.fetch s.rs.pc with
  | .error t => some (s.raise t)
  | .ok (w, s) => match decodeBundle w with
    | .error f => some (s.raise (s.fateTrap w f))
    | .ok b => s.issue w b

/-! ### What ends a hold after issue (Table 3.2) -/

/-- The hold is over: the tick ends. -/
def State.release (s : State) : State := (s.setRs { s.rs with wait := .none }).boundary

/-- A cause found while the core holds: the wait is over and the cause is pending at the boundary. -/
def State.releaseTrap (s : State) (t : Trap) : State :=
  match s.mode with
  | .u => (s.pend t).release
  | .s => s.doubleTrap t

/-- Whether requests are still to be performed. -/
def State.anyOf (s : State) (ids : List Nat) : Bool :=
  s.liveReqs.any (fun q => q.reply.isNone && ids.contains q.id) || s.comb.any (fun q => ids.contains q.id)

/-- BARRIER found in a hold: TEPC is the bundle after the one that holds (Table 12.1). -/
def State.heldBarrier (s : State) (level : BitVec 3) : Trap :=
  { mkBoundary .barrier 0 s.rs.cur s.rs.tick (level.setWidth 64) with tepc := some (s.rs.cur + 32) }

/-- One look at what the core holds for; none while it goes on holding. -/
def State.waitStep (s : State) : Option State :=
  match s.rs.wait with
  | .none => some s.release
  | .arriveFirst level sync =>
    if (s.ctx.dom level).broken then some (s.releaseTrap (s.heldBarrier level))
    else if (s.ctx.dom level).own < 2 then
      let t := (s.setRs { s.rs with wait := .none }).arriveNow level sync
      some (if sync then t else t.release)
    else none
  | .phase level target =>
    let d := s.ctx.dom level
    if !(d.phc - target).msb then some (s.acquireL1).release
    else if d.broken then some (s.releaseTrap (s.heldBarrier level)) else none
  | .amorAhead q =>
    let d := s.ctx.dom q.scope
    if d.broken then some (s.releaseTrap (s.heldBarrier q.scope))
    else if d.own < 2 then
      let t := s.flushComb
      let t := { t.setRs { t.rs with reqs := t.rs.reqs ++ [{ q with id := t.seq }] } with seq := t.seq + 1 }
      some (if t.versionedAt q.va then (t.waitPerformed).arrive q.scope else (t.arrive q.scope).release)
    else none
  | .performed id => if s.anyOf [id] then none else some s.release
  | .flushed => if s.comb.isEmpty then some s.release else none
  | .vbind hd _ template sel => match s.vbindLook hd template sel s.rs.cur with
    | .wait => none
    | .trap t => some (s.releaseTrap { t with tepc := some (s.rs.cur + 32) })
    | .done t => some t.release
  | .snap d => if s.snapRoom then some (s.snapNow d).release else none
  | .snapx ids => if s.anyOf ids then none else some (s.updServed fun c => { c with snap := none }).release
  | .tbegin d => (s.freeTid).map fun tid => (s.tbeginNow d tid).release
  | .tcommit d => match s.tcommitLook d with
    | some t => some t.release
    | none => let t := s.tcommitSend; if t = s then none else some t
  | .tapx d halt => (s.tapxLook d halt).map State.release
  | .hwait h _ => if s.quiet h then some (s.acquireL1).release else none
  | .requests ids => if s.anyOf ids then none else some s.release
  | .flush sa len instr ids => if s.anyOf ids then none else some (s.flushRange sa len instr).release
  | .portWritten p => if s.ctx.ports[p.toNat].beats.isEmpty then some s.release else none
  | .sq d op a b => (s.sqLook d op a b).map State.release
  | .exitDrain n leave last =>
    if s.rs.tick ≤ last then s.waitTick
    else if !s.ctx.portsWritten then none
    else if n ≠ 0 then some ((s.successor n).setRs { (s.successor n).rs with mid := false })
    else some (s.setRs { s.rs with wait := .exitFinal leave s.rs.cur, mid := true })
  | .emptyUntil _ => s.issueNext
  | .exitFinal leave _ => if s.exitReady then some (s.retireTask leave) else none
  | .yield => s.yieldSwitch

/-! ### One move of the core -/

/-- A pending cause is taken at once during a hold (R245). -/
def State.trapInHold (s : State) : Option State :=
  if s.live && s.mode == .u && !(entryHeld s.ctx) then (firstTrap s.ripe).map s.enterTrap else none

/-- A held WAITM on a word whose owner is descheduled gives way to it (R54). -/
def State.waitmGives (s : State) : Option State :=
  match s.fetch s.rs.pc with
  | .ok (w, _) => match decodeBundle w with
    | .ok b => match b.slots with
      | .waitm g data base disp size scope cc :: _ =>
        let vs := (operands [base, data] s).1
        let a := effAddr (arg vs 0) disp
        if guardOn g s && operandsReady [base, data] s && s.waitmHolds a (arg vs 1) (sizeBytes size) scope cc then
          match s.waitmPlace a (sizeBytes size) with
          | .ok p => let t := s.donate p.pa.toNat; if t = s then none else some t
          | .error _ => none
        else none
      | _ => none
    | .error _ => none
  | .error _ => none

/-- At a held boundary what came from outside takes effect, so that a hold on it can end (R65, R66). -/
def State.takeHeld (s : State) : Option State :=
  match s.mode, s.ctx.later with
  | .u, _ :: _ => some { s with ctx := s.ctx.takeAll [] }
  | _, _ => none

/-- The core's next move, none while it is held or runs nothing. -/
def State.coreStep (s : State) : Option State :=
  if !s.live && s.mode == .u then none
  else if s.trapDue && !s.ripe.isEmpty then some s.trapEntry
  else if s.mode == .u && s.ctx.load != .none then (let t := s.doLoad; if t = s then none else some t)
  else if s.rs.mid then (s.waitStep).or s.trapInHold
  else if !s.rs.due.isEmpty then (if s.landReady then some s.landAll else s.trapInHold)
  else match s.rs.wait with
    | .exitDrain .. => (s.waitStep).or s.trapInHold
    | _ => (s.issueNext).or (s.takeHeld.or (s.trapInHold.or s.waitmGives))

/-! ### Steps of the engines and units -/

/-- Steps of the copies, the chains and the weight buffers. -/
def State.copySteps (s : State) : List Instr :=
  (s.jobs.flatMap fun j =>
    ((((List.range j.nch).filter fun c => !j.done.contains c).take chunkWindow).map fun c => Instr.copyChunk j.id c)
      ++ [.copyComplete j.id, .copyfault j.id, .wbEntryFill (.own j.id)])
    ++ ((List.finRange 8).filter fun c => s.chan[c].walking).map fun c => Instr.chainRecord (BitVec.ofFin c)

/-- Steps of the requests that the core has sent. -/
def State.requestSteps (s : State) : List Instr :=
  (s.liveReqs ++ s.comb).flatMap fun q => [.translationComplete q.id, .requestAccepted (.own q.id), .dataArrival q.id]

/-- Steps of the running context's own units. -/
def State.unitSteps (s : State) : List Instr :=
  ((List.finRange 32).filter fun p => s.ctx.ports[p].bound).flatMap (fun p => [Instr.portFetch (BitVec.ofFin p), .portBeatWrite (BitVec.ofFin p)])
    ++ [.callStart, .maskLoad, .wordStart, .wordRetire, .drain, .callEnd, .rngRefill, .messageDelivery true 0 0, .hostqTraceqDrain false,
        .hostqTraceqDrain true, .settlingWindowEnd, .droopClear, .busSlot (s.coreNum.setWidth 3) false 0]
    ++ [0, 1, 2, 3, 5].flatMap (fun l => [Instr.domainArrival l .own, .domainArrival l .package])
    ++ (if ((s.kernelOf s.ctx).any fun k => 1 < k.gcnt) then [Instr.domainArrival 5 (.elsewhere (BitVec.ofNat 3 (Config.pick s.draws)))] else [])

/-- Steps of the versioned store, the sequence manager and the taps. -/
def State.sharedSteps (s : State) : List Instr :=
  ((s.contexts.filterMap (·.commit)) ++ s.foreignCommits.map (·.2)).flatMap (fun c =>
      c.toValidate.map (fun k => Instr.validate (BitVec.ofNat 7 k)) ++ c.toFinalise.map fun k => Instr.finalise (BitVec.ofNat 7 k))
    ++ s.sqSlots.map (fun q => Instr.pendingTokenMove q.num)
    ++ [.muckerReclaim, .pageReturn, .sqevqPush, .crossingApply, .tevrRecord, .tapqPush]
    ++ (s.contexts.flatMap fun c => c.taps.flatMap fun t => [Instr.steerWriteback t.num, .tapComplete t.num])

/-- Steps of the dispatcher, the firmware's report and the peer ports. -/
def State.packageSteps (s : State) : List Instr :=
  s.queues.map (fun q => Instr.launchTake q.hdr ⟨q.atp, q.home⟩)
    ++ s.kernels.flatMap (fun k =>
      [Instr.dependenceCheck k.id, .placement k.id, .preload k.id, .preemption k.id] ++ (if k.live.isEmpty then [.kernelEnd k.id none] else []))
    ++ (if s.live then [.tlimOverrun] else [.quantumExpiry]) ++ [.attestReport]
    ++ (List.finRange 16).map fun p => Instr.portDown (BitVec.ofFin p)

/-- Window pages whose seal is asked for. -/
def State.sealSteps (s : State) : List Instr :=
  if !s.feature featKVC then []
  else (s.bde.toList.zipIdx).flatMap fun (b, st) =>
    ((List.range b.kvwn.toNat).filter fun i => (Memory.get s.mem (st * 2 ^ 36 + b.kvhb.toNat + 64 * i + 40)).getLsbD 0).map fun i =>
      Instr.sealPage (BitVec.ofNat 40 (st * 2 ^ 36 + b.kvwb.toNat + 65536 * i))

/-- Whether a step would change anything. -/
def State.enabled (s : State) (i : Instr) : Bool := match s.after i with | some t => t != s | none => false

/-- The steps that can move while the core does not. -/
def State.engineSteps (s : State) : List Instr :=
  (s.requestSteps ++ s.copySteps ++ s.unitSteps ++ s.sharedSteps ++ s.packageSteps ++ s.sealSteps).filter s.enabled

/-- What a context that was switched out in a hold has asked of a unit goes on there: its commit, its request of the SQM, its TAPX. The result lands on
resume (R252). -/
def State.heldUnit (s : State) : Option State :=
  let ended := fun (t : State) => t.setRs { t.rs with wait := .none }
  match s.rs.wait with
  | .tcommit d => match s.tcommitLook d with
    | some t => some (ended t)
    | none => let t := s.tcommitSend; if t = s then none else some t
  | .tapx d halt => (s.tapxLook d halt).map ended
  | .sq d op a b => (s.sqLook d op a b).map ended
  | _ => none

/-- The first context that was switched out in such a hold and can go on; the combining buffer is the running context's. -/
def State.parkedStep (s : State) : Option State :=
  (s.parked.filter (!·.dead)).findSome? fun c =>
    match c.rs.wait with
    | .tcommit _ | .tapx .. | .sq .. =>
      let t := s.withCtx c.id fun u => match ({ u with comb := [] } : State).heldUnit with
        | some v => { v with comb := u.comb }
        | none => u
      if t = s then none else some t
    | _ => none

/-- An engine or a unit moves, none where none can: which of several engines is free (R421, log 5). -/
def State.engineStep (s : State) : Option State :=
  let s := { s with lead := 0 }
  s.parkedStep.or <| match s.engineSteps with
    | [] => none
    | [i] => s.after i
    | i :: is => { s with draws := s.draws + 1 }.after ((i :: is).getD ((Config.pick s.draws + s.draws) % (is.length + 1)) i)

/-- The core's move, counted. -/
def State.coreMove (s : State) : Option State := s.coreStep.map fun t => { t with lead := s.lead + 1 }

/-- A move of the package: the core's, or an engine's where the core cannot move or has moved for long (R421, log 5). -/
def State.move (s : State) : State :=
  let s := s.noteWakes
  (if Config.patience s.draws + 15 < s.lead then s.engineStep.or s.coreMove else s.coreMove.or s.engineStep).getD s

/-! ### Steps from outside -/

/-- Steps that need no clock of the package (R294): the FREEZE input, a reset, and the adapter's own registers. -/
def worksFrozen : Instr → Bool
  | .freezeRelease | .moduleReset | .intstClear _ | .hostRegWrite _ _ => true
  | _ => false

/-- Whether a step from outside can be taken: while the package is frozen only what needs no clock of it; a message waits in the network while the window
context's msgin is full (R204), and another agent's request at the memory system until it can be accepted. -/
def State.takeable (s : State) : Instr → Bool
  | .messageDelivery false _ _ => !s.host.frozen && s.messageRoom
  | .requestAccepted (.foreign act) => !s.host.frozen && s.foreignReady act
  | i => !s.host.frozen || worksFrozen i

/-- The next step from outside: the oldest that can be taken. -/
def State.outside (s : State) : Option (Instr × State) :=
  (s.agenda.find? s.takeable).map fun i => (i, { s.noteWakes with agenda := s.agenda.erase i })

/-! ### Placing an instruction where the next fetch finds it -/

/-- Where the bundle of withFetchWord stands: HBM address and virtual address. -/
def fetchAt : Nat := 0x10000

/-- A translation of the page that holds it: 64 KiB, readable and executable in U mode. -/
def fetchTlb (asid : BitVec 16) : TlbEntry :=
  { asid := asid, va := BitVec.ofNat 48 fetchAt, bits := 16, pa := BitVec.ofNat 40 fetchAt, flags := 0x035, enc := 0 }

/-- A context stands at the bundle, with no step from outside, no pending trap and no result before it. -/
def State.place (s : State) (w : BundleBits) : State :=
  let a := BitVec.ofNat 64 fetchAt
  { s with
    agenda := [], lead := 0, mode := .u, live := true, pending := [], host := { s.host with frozen := false },
    mem := Memory.setNum s.mem fetchAt 32 w.toNat, icache := [], tlb := [fetchTlb s.asid],
    ctx := { s.ctx with load := .none, rs := { s.ctx.rs with pc := a, npc := a, wait := .none, mid := false, flights := [] } } }

end Sys2Proof.Machine
end

