-- ==== Sys2Proof/Machine/Step.lean ====
section
/-! DEFINITION. One step of the machine: a step from outside if one waits, else a move of the core, else of an engine (log 1). -/

namespace Sys2Proof.Machine

/-- A step. A machine that nothing moves stays as it is; a frozen one moves only as FREEZE allows (R294). -/
def step (s : State) : Host.Outcome State Fault Refusal :=
  match s.outside with
  | some (i, t) => exec i t
  | none =>
    if s.host.frozen then .next s
    else .next s.move

/-- A context about to fetch the bundle that holds one word of the opcode table and NOPs (log 6). -/
def State.withFetchWord (s : State) (nbits w : Nat) : State := s.place (tableBundle nbits w)

end Sys2Proof.Machine
end

