-- ==== Sys2Proof/Safety.lean ====
section
/-! DEFINITION. What counts as a safe run: it never stops, and every memory of the machine stays in its canonical form; and the words that
statements about one instruction are said in. -/

namespace Sys2Proof.Safety

open Sys2Proof.Machine

/-- Every memory of a context is canonical. -/
def ctxMem (c : Ctx) : Bool := Memory.wf c.spm && Memory.wf c.acm

/-- Every memory of the machine is canonical. -/
def memOk (s : State) : Bool :=
  Memory.wf s.mem && Memory.wf s.peerMem && Memory.wf s.host.recovery && Memory.wf s.host.firmware && ctxMem s.ctx && s.parked.all ctxMem
    && (match s.preloaded with | some p => Memory.wf p.spm | none => true)

/-- A run of `n` steps that does not stop. -/
def Runs (s : State) (n : Nat) : Prop := ∃ t, Sys2Proof.core.run n s = .next t

end Sys2Proof.Safety

/-! ## The words that statements are said in -/

namespace Sys2Proof.Claims

open Sys2Proof.Machine

/-- The slot instruction's turn has come: its guard selects it (R71) and the core is not passing empty ticks (R67). -/
def Turn (g : Guard) (s : State) : Prop := guardOn g s = true ∧ ∀ n, s.rs.wait ≠ .emptyUntil n

/-- The S slot's operands can be read now: no push port is a source and no pop port a destination, no queue port is named in S mode, and every
pop port named as a source holds an entry for each naming (R70). -/
def Operable (srcs dsts : List SReg) (s : State) : Prop :=
  (∀ n ∈ srcs, isPush n = false) ∧ (∀ n ∈ dsts, isPop n = false) ∧ (s.mode = .s → ∀ n ∈ srcs ++ dsts, isQueue n = false)
    ∧ operandsReady srcs s = true

/-- The value of the i-th source. -/
def src (srcs : List SReg) (s : State) (i : Nat) : Word := (operands srcs s).1.getD i 0

/-- The state with the entries popped that the sources name. -/
def popped (srcs : List SReg) (s : State) : State := (operands srcs s).2

/-- A register set but for its results in flight, its requests, what it holds for and the address of its next bundle. -/
def stillSet (r : RegSet) : RegSet := { r with flights := [], reqs := [], wait := .none, npc := 0 }

/-- A state but for those of both register sets, the combining buffer and the counter that numbers requests: every register, handle, queue, port,
flag, control register, exception register and every byte of every memory is in it. -/
def still (s : State) : State :=
  { s with comb := [], seq := 0, ctx := { s.ctx with rs := stillSet s.ctx.rs }, sup := stillSet s.sup }

/-- `t` has sent this request last, at the bundle and tick of `s`, under its transaction and snapshot and in its address space; nothing has served
it, no release fence follows it and it is not withdrawn. -/
def SentLast (s t : State) (kind : ReqKind) (va : Word) (n : Nat) (ord : Order) (scope : Scope) (rcn : BitVec 4) : Prop :=
  ∃ id, t.rs.reqs.getLast? = some ⟨id, kind, va, n, ord, scope, rcn, s.rs.pc, s.rs.tick, s.mode, none, none, none,
    s.ctx.txn.map (·.num), s.ctx.copyView, 0, none, s.ctx.csr.atp, false⟩

/-- The result entered last awaits the request sent last and is due `lat` ticks from now. -/
def AwaitsLast (t : State) (lat : Nat) (a : Land) : Prop :=
  ∃ q f, t.rs.reqs.getLast? = some q ∧ t.rs.flights.getLast? = some f ∧ f.req = some q.id ∧ f.due = t.rs.tick + lat ∧ f.act = a

/-- `t` has sent the SQM this request and holds for its reply; the combining buffer of `u` is flushed. -/
def SqAsked (u t : State) (d : SReg) (op : SqOp) (a b : Word) : Prop :=
  t.rs.wait = .sq d op a b ∧ t.comb = [] ∧ t.rs.reqs = u.rs.reqs ++ u.comb ∧ t.rs.flights = u.rs.flights ∧ still t = still u

/-- `t` is `s` with one job more, in the engine of slot `c`: its operation, its handles' images, its counter and its view are those given. -/
def JobEntered (s t : State) (op : CopyOp) (c : CSlot) (src dst : Handle) (n : BitVec 3) : Prop :=
  ∃ j, t.jobs = s.jobs ++ [j] ∧ j.op = op ∧ j.slot = c ∧ j.ctx = s.ctx.id ∧ j.src = src ∧ j.dst = dst ∧ j.ctr = n ∧ j.view = s.ctx.copyView
    ∧ j.bundle = s.rs.pc ∧ j.done = [] ∧ j.fail = none ∧ still { t with jobs := s.jobs, latches := s.latches } = still s

/-- Lane `i` of width `w` of a beat (R82). -/
def laneAt (w : Nat) (b : Beat) (i : Nat) : Nat := b.toNat / 2 ^ (w * i) % 2 ^ w

/-- A port takes one beat more now: it is bound for writing, its ring in range, its pattern and its space not at their end (R81). -/
def Pushes (d : PortNo) (s : State) : Prop :=
  let q := s.ctx.ports[d.toNat]
  q.bound = true ∧ q.wr = true ∧ ringOk (s.portH q) = true ∧ s.patternHas q (q.pos + s.pushesInFlight d) = true ∧ s.pushHolds d 1 = false

/-- A V or X slot's ports serve it now: each port read is bound for reading, its ring in range, with a beat popped this tick or queued; the port
pushed to, unless it is 31, takes a beat more. -/
def ReadsAndPushes (srcs : List VOpd) (d : PortNo) (s : State) : Prop :=
  s.mode = .u
    ∧ (∀ a ∈ srcs, a.toNat < 32 → let q := s.ctx.ports[(a.setWidth 5).toNat]
        q.bound = true ∧ q.wr = false ∧ (q.popped ≠ none ∨ ringOk (s.portH q) = true ∧ q.beats ≠ []))
    ∧ (d ≠ 31 → Pushes d s)

/-- A translated address lies in HBM, in a page that is neither versioned nor reader-counted and of key domain 0; no KV window is in use, no line
is counted and none belongs to another key domain. -/
def Plain (s : State) (p : Pa) : Prop :=
  p.v = false ∧ p.rca = false ∧ p.enc = 0 ∧ p.pa.toNat < 0x8000000000 ∧ s.kvAny = false ∧ s.counted = [] ∧ s.encTags = []

/-- The pieces of `n` bytes at a virtual address lie one after another from `base` on, in HBM, in pages that are neither versioned nor
reader-counted and of key domain 0; no KV window is in use, no line is counted and none belongs to another key domain. -/
def Laid (s : State) (base : Nat) (va : Word) (n : Nat) (ps : List (Pa × Nat)) : Prop :=
  ps = (piecesOf va n).map (fun q => (⟨BitVec.ofNat 40 (base + (q.1 - va.toNat)), false, false, 0⟩, q.2)) ∧ base + n ≤ 0x8000000000
    ∧ s.kvAny = false ∧ s.counted = [] ∧ s.encTags = []

/-- One memory is another with these bytes stored at an address, every other byte as before. -/
def Stored (m m' : Mem) (a : Nat) (bs : List Byte) : Prop :=
  ∀ x, Memory.get m' x = if a ≤ x ∧ x < a + bs.length then bs.getD (x - a) 0 else Memory.get m x

/-- A NOP of some slot. -/
def isNop : Instr → Bool
  | .nop _ | .vnop _ _ | .mnop _ | .cnop _ _ | .xnop _ => true
  | _ => false

end Sys2Proof.Claims
end

