-- ==== Sys2Proof/Certificates/Slice0/Obligations.lean ====
section
/-! DEFINITION. The statements for the provers, each a Prop named Obligations.<Name>. -/

open Sys2Proof Sys2Proof.Machine Sys2Proof.Claims

/-! ### The scalar integer instructions -/

/-- R319, R345, R367, R370 and the functions of Table 17.1: what each two-source integer instruction computes and when it lands (R63). -/
def Obligations.IntegerResults : Prop :=
  ∀ (s : State) (g : Guard) (d a b : SReg), Turn g s → Operable [a, b] [d] s →
    let x := src [a, b] s 0
    let y := src [a, b] s 1
    let lands := fun (lat : Nat) (v : Word) => Host.Outcome.next ((popped [a, b] s).landS d lat v)
    exec (.add g d a b) s = lands 1 (x + y) ∧ exec (.sub g d a b) s = lands 1 (x - y)
    ∧ exec (.and g d a b) s = lands 1 (x &&& y) ∧ exec (.or g d a b) s = lands 1 (x ||| y)
    ∧ exec (.xor g d a b) s = lands 1 (x ^^^ y) ∧ exec (.andn g d a b) s = lands 1 (x &&& ~~~y)
    ∧ exec (.shl g d a b) s = lands 1 (x <<< (y.toNat % 64)) ∧ exec (.shr g d a b) s = lands 1 (x >>> (y.toNat % 64))
    ∧ exec (.sra g d a b) s = lands 1 (x.sshiftRight (y.toNat % 64))
    ∧ exec (.min g d a b) s = lands 1 (if x.toInt ≤ y.toInt then x else y)
    ∧ exec (.max g d a b) s = lands 1 (if x.toInt ≤ y.toInt then y else x)
    ∧ exec (.minu g d a b) s = lands 1 (if x.toNat ≤ y.toNat then x else y)
    ∧ exec (.maxu g d a b) s = lands 1 (if x.toNat ≤ y.toNat then y else x)
    ∧ exec (.mul g d a b) s = lands 3 (x * y)
    ∧ exec (.mulh g d a b) s = lands 3 ((x.signExtend 128 * y.signExtend 128).extractLsb' 64 64)
    ∧ exec (.mulhu g d a b) s = lands 3 ((x.setWidth 128 * y.setWidth 128).extractLsb' 64 64)
    ∧ exec (.div g d a b) s = lands 20 (if y = 0 then BitVec.allOnes 64 else x.sdiv y)
    ∧ exec (.divu g d a b) s = lands 20 (if y = 0 then BitVec.allOnes 64 else x.udiv y)
    ∧ ∀ n : BitVec 3, exec (.lea g d a b n) s = lands 1 (x + y * 2 ^ n.toNat)

/-- R320, R336, R350, R369: the one-source integer instructions, those with an immediate, MOVI and MOVK. -/
def Obligations.IntegerFieldResults : Prop :=
  ∀ (s : State) (g : Guard) (d a : SReg), Turn g s →
    (Operable [a] [d] s →
      let x := src [a] s 0
      let lands := fun (v : Word) => Host.Outcome.next ((popped [a] s).landS d 1 v)
      exec (.clz g d a) s = lands (BitVec.ofNat 64 ((List.range 64).takeWhile fun k => !x.getMsbD k).length)
      ∧ exec (.popc g d a) s = lands (BitVec.ofNat 64 ((List.range 64).filter fun k => x.getLsbD k).length)
      ∧ (∀ imm : BitVec 30, exec (.addi g d a imm) s = lands (x + imm.signExtend 64)
        ∧ exec (.andi g d a imm) s = lands (x &&& imm.signExtend 64) ∧ exec (.ori g d a imm) s = lands (x ||| imm.signExtend 64)
        ∧ exec (.xori g d a imm) s = lands (x ^^^ imm.signExtend 64))
      ∧ (∀ n : BitVec 6, exec (.shli g d a n) s = lands (x <<< n.toNat) ∧ exec (.shri g d a n) s = lands (x >>> n.toNat)
        ∧ exec (.srai g d a n) s = lands (x.sshiftRight n.toNat))
      ∧ ∀ (pos : BitVec 6) (len : BitVec 7), fieldOk pos len = true →
        exec (.ext g d a pos len false) s = lands ((x.extractLsb' pos.toNat len.toNat).setWidth 64)
        ∧ exec (.ext g d a pos len true) s = lands ((x.extractLsb' pos.toNat len.toNat).signExtend 64))
    ∧ (Operable [d, a] [d] s → ∀ (pos : BitVec 6) (len : BitVec 7) (v : Word), fieldOk pos len = true →
        (∀ i < 64, v.getLsbD i = if pos.toNat ≤ i ∧ i < pos.toNat + len.toNat then (src [d, a] s 1).getLsbD (i - pos.toNat)
          else (src [d, a] s 0).getLsbD i) →
        exec (.ins g d a pos len) s = .next ((popped [d, a] s).landS d 1 v))
    ∧ (Operable [] [d] s → ∀ imm : BitVec 30, exec (.movi g d imm) s = .next (s.landS d 1 (imm.signExtend 64)))
    ∧ (Operable [d] [d] s → ∀ (imm : BitVec 16) (k : BitVec 2) (v : Word),
        (∀ i < 64, v.getLsbD i = if 16 * k.toNat ≤ i ∧ i < 16 * k.toNat + 16 then imm.getLsbD (i - 16 * k.toNat)
          else (src [d] s 0).getLsbD i) →
        exec (.movk g d imm k) s = .next ((popped [d] s).landS d 1 v))

/-- R337, R374, R71: the integer compares write 1 or 0 to a register or one bit to gr; SEL chooses by its own guard code, read at issue. -/
def Obligations.CompareAndSelect : Prop :=
  ∀ (s : State) (g : Guard) (a b : SReg) (cc : Cond) (holds : Word → Word → Prop), Turn g s →
    (cc, holds) ∈ ([(.eq, fun x y => x = y), (.ne, fun x y => x ≠ y), (.lt, fun x y => x.toInt < y.toInt), (.ge, fun x y => y.toInt ≤ x.toInt),
      (.ltu, fun x y => x.toNat < y.toNat), (.geu, fun x y => y.toNat ≤ x.toNat), (.gt, fun x y => y.toInt < x.toInt),
      (.le, fun x y => x.toInt ≤ y.toInt), (.gtu, fun x y => y.toNat < x.toNat), (.leu, fun x y => x.toNat ≤ y.toNat)] :
        List (Cond × (Word → Word → Prop))) →
    (∀ r : Bool, (r = true ↔ holds (src [a, b] s 0) (src [a, b] s 1)) →
      (Operable [a, b] [] s → ∀ n : BitVec 4, exec (.cmpGuard g n a b cc) s = .next ((popped [a, b] s).inFlight 1 (.greg n r)))
      ∧ ∀ d : SReg, Operable [a, b] [d] s → exec (.cmpRegister g d a b cc) s = .next ((popped [a, b] s).landS d 1 (if r then 1 else 0)))
    ∧ (∀ (imm : BitVec 25) (r : Bool), (r = true ↔ holds (src [a] s 0) (imm.signExtend 64)) →
      (Operable [a] [] s → ∀ d : SReg, d.toNat < 16 →
        exec (.cmpi g false d a cc imm) s = .next ((popped [a] s).inFlight 1 (.greg (d.setWidth 4) r)))
      ∧ ∀ d : SReg, Operable [a] [d] s → exec (.cmpi g true d a cc imm) s = .next ((popped [a] s).landS d 1 (if r then 1 else 0)))
    ∧ ∀ (d : SReg) (code : Guard), Operable [a, b] [d] s → (∀ r : Bool, guardOn code s = r →
        exec (.sel g d a b code) s = .next ((popped [a, b] s).landS d 1 (if r then src [a, b] s 0 else src [a, b] s 1)))

/-! ### Scalar floating point -/

/-- R351, R352, R353, R86, R89: an FP32 operation rounds the exact result once in the mode of FPCSR, flushes under FTZ, and lands value and flags;
FMIN and FMAX take one operand; FCMP lands its condition and NV; FCVT lands the converted pattern (R354), popping the bundle's word for SRND (R92). -/
def Obligations.FloatResults : Prop :=
  ∀ (s : State) (g : Guard) (d a b c : SReg), Turn g s →
    let low := fun (v : Word) => v.toNat % 2 ^ 32
    let val := fun (v : Word) => readFtz fmtF32 s.ftz (low v)
    let dn := decide (s.fpMode = .rdn)
    let lands := fun (t : State) (lat : Nat) (v : FV × Bool) =>
      let r := writeFtz fmtF32 s.ftz (roundTo fmtF32 false s.fpMode v.1)
      Host.Outcome.next ((t.landS d lat (BitVec.ofNat 64 r.1)).inFlight lat (.fflags (r.2 ||| if v.2 then flagNV else 0)))
    (Operable [a, b] [d] s →
      let t := popped [a, b] s
      let x := val (src [a, b] s 0)
      let y := val (src [a, b] s 1)
      let nv := Land.fflags (if x.isSNaN || y.isSNaN then flagNV else 0)
      exec (.fadd g d a b) s = lands t 4 (FV.add dn x y) ∧ exec (.fsub g d a b) s = lands t 4 (FV.add dn x y.neg)
      ∧ exec (.fmul g d a b) s = lands t 4 (FV.mul x y)
      ∧ exec (.fmin g d a b) s = .next ((t.landS d 4 (BitVec.ofNat 64 (if x.isNaN || y.isNaN then 0x7FC00000
          else (roundTo fmtF32 false .rne (if FV.lt x y then x else y)).1))).inFlight 4 nv)
      ∧ exec (.fmax g d a b) s = .next ((t.landS d 4 (BitVec.ofNat 64 (if x.isNaN || y.isNaN then 0x7FC00000
          else (roundTo fmtF32 false .rne (if FV.lt x y then y else x)).1))).inFlight 4 nv)
      ∧ ∀ cc, exec (.fcmp g true d a b cc) s =
          .next ((t.landS d 4 (if (FV.cond cc x y).1 then 1 else 0)).inFlight 4 (.fflags (if (FV.cond cc x y).2 then flagNV else 0))))
    ∧ (Operable [a, b] [] s → ∀ cc, exec (.fcmp g false d a b cc) s =
        .next (((popped [a, b] s).inFlight 4 (.greg (d.setWidth 4) (FV.cond cc (val (src [a, b] s 0)) (val (src [a, b] s 1))).1)).inFlight 4
          (.fflags (if (FV.cond cc (val (src [a, b] s 0)) (val (src [a, b] s 1))).2 then flagNV else 0))))
    ∧ (Operable [a, b, c] [d] s → exec (.ffma g d a b c) s = lands (popped [a, b, c] s) 5
        (FV.fma dn (val (src [a, b, c] s 0)) (val (src [a, b, c] s 1)) (val (src [a, b, c] s 2))))
    ∧ (Operable [a] [d] s → ∀ (dst from' : EType) (nsat : Bool) (rm : RSel),
        let r := fun (w : BitVec 32) => convert dst from' nsat (selMode s rm (laneRandom w 0)) (src [a] s 0).toNat
        (rm ≠ .srnd → exec (.fcvt g d a dst from' nsat rm) s =
          .next (((popped [a] s).landS d 3 (landedAs dst (r 0).1)).inFlight 3 (.fflags (r 0).2)))
        ∧ ∀ w ws, rm = .srnd → s.ctx.bundleRnd = none → (popped [a] s).ctx.rngq = w :: ws →
            exec (.fcvt g d a dst from' nsat rm) s =
              .next (({ popped [a] s with ctx := { (popped [a] s).ctx with rngq := ws, bundleRnd := some w } }.landS d 3
                (landedAs dst (r w).1)).inFlight 3 (.fflags (r w).2)))

/-- R86, R91, R352: a NaN source gives the canonical NaN and NV only for a signalling one; infinities of opposite signs do not add, 0 × ∞ is
invalid, also with a NaN addend; a value that the format holds is its own rounding in every mode, with no flag. -/
def Obligations.FloatSpecialCases : Prop :=
  (∀ (ftz : Bool) (m : Rnd) (x y z : Nat),
    let nan := fun w => (fmtF32.decode w).isNaN
    let snan := fun w => (fmtF32.decode w).isSNaN
    (nan x || nan y → fpAdd fmtF32 ftz m x y = (0x7FC00000, if snan x || snan y then 0x80 else 0)
      ∧ fpSub fmtF32 ftz m x y = (0x7FC00000, if snan x || snan y then 0x80 else 0)
      ∧ fpMul fmtF32 ftz m x y = (0x7FC00000, if snan x || snan y then 0x80 else 0))
    ∧ (nan x || nan y || nan z → (fpFma fmtF32 ftz m x y z).1 = 0x7FC00000)
    ∧ fpAdd fmtF32 ftz m 0x7F800000 0xFF800000 = (0x7FC00000, 0x80)
    ∧ fpMul fmtF32 ftz m 0x7F800000 0 = (0x7FC00000, 0x80)
    ∧ (fpFma fmtF32 ftz m 0x7F800000 0 z) = (0x7FC00000, 0x80))
  ∧ ∀ f ∈ [fmtF32, fmtF16, fmtBF16, fmtE4M3, fmtE5M2], ∀ (m : Rnd) (sat : Bool) (w : Nat), w < 2 ^ f.width →
      (f.decode w).isNaN = false → roundTo f sat m (f.decode w) = (w, 0)

/-! ### Control -/

/-- R331, R332, R73, R74: where BR, JMP, CALL, RET and BLOOP send the core, what they land, and ALIGN for a register target that is no bundle's
address. -/
def Obligations.Branches : Prop :=
  ∀ (s : State) (g : Guard) (a : SReg) (off : BitVec 30), Turn g s →
    let goes := fun (t : State) (to' : Word) => t.setRs { t.rs with npc := to' }
    let rel := 32 * off.signExtend 64
    let t := popped [a] s
    let far := src [a] s 0 + rel
    (Operable [] [] s → exec (.br g .always 0 off) s = .next (goes s (s.rs.pc + rel))
      ∧ exec (.call g off) s = .next (goes (s.landS 49 1 (s.rs.pc + 32)) (s.rs.pc + rel)))
    ∧ (Operable [a] [] s → (∀ (c : BrCond) (taken : Word → Prop),
        (c, taken) ∈ ([(.eqz, fun v => v = 0), (.nez, fun v => v ≠ 0), (.ltz, fun v => v.toInt < 0), (.gez, fun v => 0 ≤ v.toInt),
          (.gtz, fun v => 0 < v.toInt), (.lez, fun v => v.toInt ≤ 0)] : List (BrCond × (Word → Prop))) →
          (taken (src [a] s 0) → exec (.br g c a off) s = .next (goes t (s.rs.pc + rel)))
          ∧ (¬taken (src [a] s 0) → exec (.br g c a off) s = .next t))
      ∧ (far.toNat % 32 = 0 → exec (.jmp g a off) s = .next (goes t far)
          ∧ exec (.callRegister g a off) s = .next (goes (t.landS 49 1 (s.rs.pc + 32)) far))
      ∧ (far.toNat % 32 ≠ 0 → exec (.jmp g a off) s = .next (s.raise (mkTrap .align 0 far))
          ∧ exec (.callRegister g a off) s = .next (s.raise (mkTrap .align 0 far))))
    ∧ (Operable [49] [] s → ((s.sreg 49).toNat % 32 = 0 → exec (.ret g) s = .next (goes s (s.sreg 49)))
      ∧ ((s.sreg 49).toNat % 32 ≠ 0 → exec (.ret g) s = .next (s.raise (mkTrap .align 0 (s.sreg 49)))))
    ∧ (Operable [48, 55, 51] [] s →
        (s.sreg 48 ≠ 0 → exec (.bloop g off) s = .next (goes ((s.landS 48 1 (s.sreg 48 - 1)).landS 51 1
            ((2 * s.sreg 51 ||| 1) &&& 0xFFFF)) (s.rs.pc + rel)))
        ∧ (s.sreg 48 = 0 → s.sreg 55 ≠ 0 → exec (.bloop g off) s = .next (goes ((s.landS 55 1 (s.sreg 55 - 1)).landS 51 1
            ((2 * s.sreg 51) &&& 0xFFFF)) (s.rs.pc + rel)))
        ∧ (s.sreg 48 = 0 → s.sreg 55 = 0 → exec (.bloop g off) s = .next s))

/-- R378, R246: in U mode TRAP and SVC enter S mode at TVEC with their code in TVAL, the following bundle's address in TEPC, the trapping bundle
in TBADDR and BUSY set. -/
def Obligations.TrapAndSvc : Prop :=
  ∀ (s : State) (g : Guard) (code : BitVec 16), Turn g s → s.mode = .u →
    ∀ p ∈ ([(.trap g code, 0x19), (.svc g code, 0x18)] : List (Instr × BitVec 16)), ∃ t, exec p.1 s = .next t
      ∧ t.mode = .s ∧ t.sup.pc = s.trap.tvec.setWidth 64 ∧ t.trap.tcause = p.2 ∧ t.trap.tepc = (s.rs.pc + 32).setWidth 48
      ∧ t.trap.tbaddr = s.rs.pc.setWidth 48 ∧ t.trap.ttick = BitVec.ofNat 64 s.rs.tick ∧ t.trap.tval = code.setWidth 64 ∧ t.trap.busy = true
      ∧ t.mem = s.mem ∧ t.ctx.spm = s.ctx.spm ∧ t.ctx.acm = s.ctx.acm ∧ t.ctx.csr = s.ctx.csr
      ∧ (∀ n, t.ctx.rs.get t.ctx n = s.ctx.rs.get s.ctx n) ∧ (∀ n, t.sup.get t.ctx n = s.sup.get s.ctx n) ∧ t.ctx.rs.h = s.ctx.rs.h
      ∧ t.trap.tvec = s.trap.tvec ∧ t.trap.tscr = s.trap.tscr ∧ t.trap.bkaddr = s.trap.bkaddr ∧ t.trap.ctxsel = s.trap.ctxsel

/-- R348, R393, R394, R325, R395: EXIT begins its drain, waits that are met go on as acquires, SYNC and ARRIVE arrive at the
domain that DMR names, and YIELD goes on where no context as high is ready. -/
def Obligations.ExitWaitsAndArrivals : Prop :=
  ∀ (s : State) (g : Guard), Turn g s →
    let fresh := fun (t : State) => { t with l1 := t.l1.filter (·.owned) }
    (s.mode = .u → (∀ n : BitVec 8, n.toNat ≤ s.ntask → ∃ t, exec (.exit g n) s = .next t
        ∧ t.ctx.rs.wait = .exitDrain n false 0 ∧ t.ctx.rs.reqs = s.ctx.rs.reqs ++ s.comb ∧ t.comb = [] ∧ still t = still s)
      ∧ (∃ t, exec (.exitLeave g) s = .next t ∧ t.ctx.rs.wait = .exitDrain 0 true 0 ∧ t.ctx.rs.reqs = s.ctx.rs.reqs ++ s.comb
        ∧ t.comb = [] ∧ still t = still s))
    ∧ (∀ (n : BitVec 3) (a : SReg) (imm : BitVec 30), Operable [a] [] s →
        0 ≤ (s.ctx.ec[n.toNat] - ((src [a] s 0).setWidth 32 + imm.setWidth 32)).toInt →
        exec (.waitc g n a imm) s = .next (fresh (popped [a] s)))
    ∧ (∀ (data base : SReg) (disp : BitVec 16) (size : Size) (scope : Scope) (cc : Cond) (p : Pa), Operable [base, data] [] s →
        s.liveReqs = [] → s.comb = [] →
        s.translate s.ctx.csr.atp s.mode .read true (src [base, data] s 0 + disp.signExtend 64) (sizeBytes size) = .ok p →
        waitmTrue cc (sizeBytes size) (s.numPa p.pa.toNat (sizeBytes size)) (src [base, data] s 1).toNat = true →
        exec (.waitm g data base disp size scope cc) s = .next (fresh (popped [base, data] s)))
    ∧ (let l := s.ctx.csr.dmr.extractLsb' 0 3
       s.ctx.levelOk l = true → (s.ctx.dom l).own < 2 →
        (∃ t, exec (.arrive g) s = .next t ∧ (t.ctx.dom l).own = (s.ctx.dom l).own + 1 ∧ t.comb = []
          ∧ still { t with ctx := { t.ctx with doms := s.ctx.doms } } = still s)
        ∧ ∃ t, exec (.sync g) s = .next t ∧ (t.ctx.dom l).own = (s.ctx.dom l).own + 1
          ∧ t.rs.wait = .phase l ((s.ctx.dom l).phc + BitVec.ofNat 32 (s.ctx.dom l).own + 1)
          ∧ still { t with ctx := { t.ctx with doms := s.ctx.doms } } = still s)
    ∧ ((∀ c ∈ s.parked, s.wakes c = false ∨ c.effClass < s.ctx.effClass) → exec (.yield g) s = .next s)
    ∧ (s.mode = .u → ∀ c ∈ s.parked, s.wakes c = true → s.ctx.effClass ≤ c.effClass →
        exec (.yield g) s = .next (s.setRs { s.rs with wait := .yield }))

/-! ### Scalar memory -/

/-- R321, R322, R333, R358, R364, R366, R132, R134, R344: each scalar access completes: it sends one request with its address, size, order and scope; a load,
an atomic, a CAS, GRAB and a remote CSRR await its data in sd after the latency field's ticks (R63). A load to s0 asks for no data; STFE holds until its request
is performed. A relaxed RED enters the combining buffer at its translation, merged with an entry of the same word, operation, size and scope (R138); any other is
sent. Nothing but requests and results in flight changes before the request is performed, but that an atomic's own word leaves the L1 at its issue (R120,
R135). A remote CSRR traps where its window is not aligned, whatever its number. -/
def Obligations.ScalarAccesses : Prop :=
  ∀ (s : State) (g : Guard) (d a b c : SReg) (disp : BitVec 16) (size : Size) (ord : Order) (scope : Scope) (lat : Sys2Proof.Lat) (op : AtomOp), Turn g s →
    let n := sizeBytes size
    let low := fun (v : Word) => BitVec.ofNat 64 (v.toNat % 256 ^ n)
    (Operable [a] [d] s →
      let u := popped [a] s
      let va := src [a] s 0 + disp.signExtend 64
      (∀ sx, d ≠ 0 → ∃ t, exec (.ld g d a disp size sx ord scope lat) s = .next t
        ∧ SentLast u t (.load sx) va n ord scope 0 ∧ AwaitsLast t (latTicks lat) (.sreg d 0) ∧ still t = still u)
      ∧ (∀ sx, d = 0 → ∃ t, exec (.ld g d a disp size sx ord scope lat) s = .next t
        ∧ SentLast u t .touch va n ord scope 0 ∧ t.rs.flights = s.rs.flights ∧ still t = still u)
      ∧ (∀ peek, ∃ t, exec (.ldfe g d a disp size peek ord scope lat) s = .next t
        ∧ SentLast u t (.loadFe peek) va n ord scope 0 ∧ AwaitsLast t (latTicks lat) (.sreg d 0) ∧ still t = still u)
      ∧ (∃ t, exec (.grab g d a ord scope lat) s = .next t
        ∧ SentLast u t .grab (src [a] s 0) 8 ord scope 0 ∧ AwaitsLast t (latTicks lat) (.sreg d 0) ∧ still t = still u)
      ∧ ∀ csr : BitVec 12,
        ((src [a] s 0).toNat % 2 ^ 23 = 0 → ∃ t, exec (.csrrRemote g d a csr lat) s = .next t
          ∧ SentLast u t (.csrRemote csr) (src [a] s 0 + 0x488000 + 8 * csr.setWidth 64) 8 .rlx 0 0 ∧ AwaitsLast t (latTicks lat) (.sreg d 0)
          ∧ still t = still u)
        ∧ ((src [a] s 0).toNat % 2 ^ 23 ≠ 0 →
          exec (.csrrRemote g d a csr lat) s = .next (s.raise (mkTrap .align 0 (src [a] s 0)))))
    ∧ (Operable [a, b] [] s →
      let u := popped [a, b] s
      let va := src [a, b] s 0 + disp.signExtend 64
      let v := low (src [a, b] s 1)
      let w := u.evictL1 (u.physOf (src [a, b] s 0)) n
      (∃ t, exec (.st g b a disp size ord scope) s = .next t
        ∧ SentLast u t (.store v) va n ord scope s.ctx.csr.rcnt ∧ t.rs.flights = s.rs.flights ∧ still t = still u)
      ∧ (∃ t, exec (.stfe g b a disp size ord scope) s = .next t
        ∧ SentLast u t (.storeFe v) va n ord scope 0 ∧ t.rs.flights = s.rs.flights ∧ still t = still u
        ∧ ∃ q, t.rs.reqs.getLast? = some q ∧ t.rs.wait = .performed q.id)
      ∧ (ord ≠ .rlx → ∃ t, exec (.red g a b op size ord scope) s = .next t
        ∧ SentLast u t (.red op v) (src [a, b] s 0) n ord scope 0 ∧ t.rs.flights = s.rs.flights ∧ still t = still w)
      ∧ (ord = .rlx → let q := u.newReq (.red op v) (src [a, b] s 0) n .rlx scope 0
        ∃ t, exec (.red g a b op size ord scope) s = .next t ∧ t.rs.flights = s.rs.flights
          ∧ still { t with tlb := s.tlb, dieTlb := s.dieTlb } = still w
          ∧ ((∀ p, w.resolve q = .ok p → p.v = true) → SentLast u t (.red op v) (src [a, b] s 0) n .rlx scope 0)
          ∧ ∀ p, w.resolve q = .ok p → p.v = false →
            (s.comb = [] → t.comb = [{ q with pa := some p }] ∧ t.rs.reqs = s.rs.reqs)
            ∧ ∀ e x, s.comb = [e] → e.kind = .red op x → op ≠ .fadd → e.pa.map (·.pa) = some p.pa → e.bytes = n → e.scope = scope →
              t.comb = [{ e with kind := .red op (combineOp op x v n), last := q.id }] ∧ t.rs.reqs = s.rs.reqs))
    ∧ (Operable [a, b] [d] s →
      let u := popped [a, b] s
      ∃ t, exec (.amo g d a b op size ord scope lat) s = .next t
        ∧ SentLast u t (.atomic op (low (src [a, b] s 1))) (src [a, b] s 0) n ord scope 0
        ∧ AwaitsLast t (latTicks lat) (.sreg d 0) ∧ still t = still (u.evictL1 (u.physOf (src [a, b] s 0)) n))
    ∧ (Operable [a, b, c] [d] s → ∀ fa,
      let u := popped [a, b, c] s
      ∃ t, exec (.cas g d a b c fa size ord scope lat) s = .next t
        ∧ SentLast u t (.cas (low (src [a, b, c] s 1)) (low (src [a, b, c] s 2)) fa) (src [a, b, c] s 0) n ord scope 0
        ∧ AwaitsLast t (latTicks lat) (.sreg d 0) ∧ still t = still (u.evictL1 (u.physOf (src [a, b, c] s 0)) n))

/-- R323, R136, R333, R362, R138: AMOR sends its request with the release order at its level and arrives at the domain; HLD sends four loads and HST
four stores of the image as it stands, holding for all of them where the page is versioned (R159); FENCE holds while an earlier access that it orders, of
either register set, has not been performed, and then drops, as an acquire, the words the core does not own, and sends the combining buffer. -/
def Obligations.DomainAtomicsImagesAndFences : Prop :=
  ∀ (s : State) (g : Guard), Turn g s →
    (∀ (d a b : SReg) (op : AtomOp) (size : Size) (l : BitVec 3), Operable [a, b, d] [] s → l ∈ [1, 2, 3] → s.ctx.levelOk l = true →
      (s.ctx.dom l).own < 2 → ∃ t, exec (.amor g d a b op size l) s = .next t
        ∧ SentLast (popped [a, b, d] s) t (.atomicRemote op (BitVec.ofNat 64 ((src [a, b, d] s 1).toNat % 256 ^ sizeBytes size)) (src [a, b, d] s 2) l)
            (src [a, b, d] s 0) (sizeBytes size) .rel l 0
        ∧ (t.ctx.dom l).own = (s.ctx.dom l).own + 1
        ∧ (let u := popped [a, b, d] s
          still { t with ctx := { t.ctx with doms := s.ctx.doms } } = still (u.evictL1 (u.physOf (src [a, b, d] s 0)) (sizeBytes size))))
    ∧ (∀ (h : HReg) (a : SReg) (disp : BitVec 16) (ord : Order) (scope : Scope), Operable [a] [] s →
      let va := src [a] s 0 + disp.signExtend 64
      (s.handleInUse h = none → ∃ t, exec (.hld g h a disp ord scope) s = .next t ∧ still t = still (popped [a] s)
        ∧ ∀ i < 4, ∃ q ∈ t.rs.reqs, ∃ f ∈ t.rs.flights, q.kind = .loadH i ∧ q.va = va + BitVec.ofNat 64 (8 * i) ∧ q.bytes = 8 ∧ q.ord = ord
            ∧ f.req = some q.id ∧ f.due = s.rs.tick + 1 ∧ f.act = .hfield h (wordField i) 0)
      ∧ ∃ t, exec (.hst g h a disp ord scope) s = .next t ∧ still t = still (popped [a] s)
        ∧ ∀ i < 4, ∃ q ∈ t.rs.reqs, q.kind = .storeH i ((s.hreg h).extractLsb' (64 * i) 64) ∧ q.va = va + BitVec.ofNat 64 (8 * i)
            ∧ q.bytes = 8 ∧ q.ord = ord ∧ q.rcn = s.ctx.csr.rcnt
            ∧ (s.versionedAt va = true → s.ctx.txn = none → ∃ ids, t.rs.wait = .requests ids ∧ q.id ∈ ids))
    ∧ ∀ (sc : Bool) (ord : Order) (scope : Scope),
      let acq := (sc || ordAcquires ord) = true
      let rel := (sc || ordReleases ord) = true
      let open' := fun (k : ReqKind → Bool) => ∃ q ∈ s.liveReqs, q.reply = none ∧ k q.kind = true
      ((acq → ¬open' ReqKind.reads) → (rel → s.comb = [] ∧ ¬open' ReqKind.writes) → ∃ t, exec (.fence g sc ord scope) s = .next t ∧ t.comb = []
        ∧ t.rs.reqs = (s.rs.reqs ++ s.comb).map (fun q =>
            if (sc || ordReleases ord) && !q.away then { q with gate := some (q.gate.getD s.seq) } else q)
        ∧ t.l1 = (if sc || ordAcquires ord then s.l1.filter (·.owned) else s.l1) ∧ still { t with l1 := s.l1 } = still s)
      ∧ (rel → s.comb ≠ [] ∨ open' ReqKind.writes → exec (.fence g sc ord scope) s = .next s)
      ∧ (acq → open' ReqKind.reads → exec (.fence g sc ord scope) s = .next s)

/-! ### Control registers and translations -/

/-- R341, R342: CSRR lands the register at t + 2, CSRW, CSRS and CSRC land their write at t + 1, where the mode may make the access. U mode reads every
defined number but ATP, the copy fault record, TEVR, the trap registers and those of firmware; no core reads or writes a firmware register. -/
def Obligations.CsrAccess : Prop :=
  ∀ (s : State) (g : Guard) (d a : SReg) (n : BitVec 12), Turn g s →
    let k := n.toNat
    let uReads := k ≠ 0x050 ∧ ¬(0x210 ≤ k ∧ k ≤ 0x216) ∧ k ≠ 0x324 ∧ ¬(0x500 ≤ k ∧ k ≤ 0x50B) ∧ k < 0xF00
    let uWrites := k = 0x008 ∨ k = 0x010 ∨ (0x030 ≤ k ∧ k ≤ 0x033) ∨ k = 0x052 ∨ k = 0x053 ∨ (0x200 ≤ k ∧ k ≤ 0x20F)
    let priv := Host.Outcome.next (s.raise (mkTrap .priv 0 (n.setWidth 64)))
    (Operable [] [d] s →
      ((s.mode = .u ∧ uReads ∨ s.mode = .s ∧ k < 0xF00) → exec (.csrr g d n) s = .next (s.landS d 2 (csrValue s s.ctx k)))
      ∧ (¬(s.mode = .u ∧ uReads ∨ s.mode = .s ∧ k < 0xF00) → exec (.csrr g d n) s = priv))
    ∧ (Operable [a] [] s →
      let v := src [a] s 0
      let lands := fun (op : CsrOp) => Host.Outcome.next ((popped [a] s).inFlight 1 (.csr op n v))
      let may := s.mode = .u ∧ uWrites ∨ s.mode = .s ∧ k < 0xF00
      (may → k ≠ 0x052 → exec (.csrw g a n) s = lands .write ∧ exec (.csrs g a n) s = lands .set)
      ∧ (may ∨ s.mode = .u ∧ k = 0x040 → k ≠ 0x052 → exec (.csrc g a n) s = lands .clear)
      ∧ (¬may → exec (.csrw g a n) s = priv ∧ exec (.csrs g a n) s = priv)
      ∧ (¬(may ∨ s.mode = .u ∧ k = 0x040) → exec (.csrc g a n) s = priv)
      ∧ (k = 0x052 → v.toNat / 2 ^ 62 = 0 ∨ v.toNat / 2 ^ 62 < 3 ∧ v.toNat % 2 ^ 18 + v.toNat / 2 ^ 24 % 2 ^ 20 ≤ s.ctx.spmBanks * 8192 →
          exec (.csrw g a n) s = lands .write))

/-- R341, R343, R40, R76, Tables 2.5, 4.2, 5.3, 9.2, 12.2: what a landed CSR write leaves: the stored fields take the value, the old value with bits set, or
with bits cleared; U mode writes SLVL of DMR alone, and nothing of a supervisor register; a CTXCMD write of command 0 is ignored. -/
def Obligations.CsrWritesLand : Prop :=
  ∀ (s : State) (op : CsrOp) (v : Word),
    let comb := fun (old : Word) => match op with | .write => v | .set => old ||| v | .clear => old &&& ~~~v
    let lands := fun (n : BitVec 12) => s.applyLand (.csr op n v)
    lands 0x053 = { s with ctx := { s.ctx with csr := { s.ctx.csr with rcnt := (comb (s.ctx.csr.rcnt.setWidth 64)).setWidth 4 } } }
    ∧ (s.mode = .u → ∃ p, lands 0x010 = { s with power := p, ctx := { s.ctx with csr := { s.ctx.csr with
        dmr := (s.ctx.csr.dmr &&& ~~~7#64) ||| (comb s.ctx.csr.dmr &&& 7#64) } } } ∧ (s.power.reach ≤ s.limit → p = s.power))
    ∧ lands 0x030 = { s with rgsel := (comb (s.rgsel.setWidth 64)).setWidth 6 }
    ∧ lands 0x031 = { s with rgbase := (comb (s.rgbase.setWidth 64)).setWidth 32 }
    ∧ lands 0x040 = { s with ctx := { s.ctx with csr := { s.ctx.csr with mbxf := (comb (s.ctx.csr.mbxf.setWidth 64)).setWidth 8 } } }
    ∧ (∀ k : Fin 8, lands (0x208 + BitVec.ofNat 12 k) = { s with ctx := { s.ctx with ec := s.ctx.ec.set k ((comb (s.ctx.ec[k].setWidth 64)).setWidth 32) } })
    ∧ (s.mode = .u → ∀ n : BitVec 12, 0x210 ≤ n.toNat → lands n = s)
    ∧ (s.mode = .s →
        lands 0x050 = { s with ctx := { s.ctx with csr := { s.ctx.csr with atp := comb s.ctx.csr.atp &&& 0xFFFF00FFFFFFF000#64 } } }
        ∧ lands 0x506 = { s with trap := { s.trap with tscr := comb s.trap.tscr } }
        ∧ (∀ c, (comb 0).extractLsb' 16 2 = c → lands 0x50B = if c = (0 : BitVec 2) then s
          else { s with trap := { s.trap with ctxcmd := some (c, (comb 0).extractLsb' 0 16) } })
        ∧ lands 0x501 = { s with trap := { s.trap with tepc := (comb (s.trap.tepc.setWidth 64)).setWidth 48 } }
        ∧ lands 0x505 = { s with trap := { s.trap with tvec := (comb (s.trap.tvec.setWidth 64) &&& ~~~31#64).setWidth 48 } })

/-- R380, R334, R243, R347, R247: TLBI removes the entries it names and holds for the requests they translated; in U mode it traps with PRIV, as ERET
does. CFLUSH and CINV I begin to hold for the stores of their range, for every one of them that has not been performed. ERET returns to TEPC in U mode. -/
def Obligations.TranslationsCachesAndEret : Prop :=
  ∀ (s : State) (g : Guard) (a b : SReg), Turn g s →
    (s.mode = .s → s.liveReqs = [] → s.comb = [] →
      let drops := fun (srcs : List SReg) (hit : TlbEntry → Bool) =>
        Host.Outcome.next ({ popped srcs s with tlb := s.tlb.filter fun e => !hit e, dieTlb := s.dieTlb.filter fun e => !hit e }.setRs
          { s.sup with wait := .requests [] })
      exec (.tlbiAll g) s = drops [] (fun _ => true)
      ∧ (Operable [a] [] s → exec (.tlbiAsid g a) s = drops [a] (fun e => e.asid == (src [a] s 0).setWidth 16))
      ∧ (Operable [a, b] [] s → (src [a, b] s 0).toNat < 2 ^ 48 → exec (.tlbiPage g a b) s = drops [a, b] (fun e =>
          e.asid == (src [a, b] s 1).setWidth 16 && decide ((src [a, b] s 0).toNat / 2 ^ e.bits = e.va.toNat / 2 ^ e.bits))))
    ∧ (s.mode = .u → ∀ i ∈ [Instr.tlbiAll g, .eret g], exec i s = .next (s.enterTrap (mkTrap .priv 0 0)))
    ∧ (Operable [a, b] [] s → ∃ ids, (∀ id ∈ ids, ∃ q ∈ (popped [a, b] s).liveReqs, q.id = id ∧ q.reply = none ∧ q.kind.writes = true)
        ∧ (let lo := (src [a, b] s 0).toNat
          let hi := min (lo + (src [a, b] s 1).toNat) (2 ^ 48)
          lo < hi → ∀ q ∈ (popped [a, b] s).liveReqs, q.reply = none → q.kind.writes = true → q.va.toNat < hi → lo < q.va.toNat + q.bytes →
            q.id ∈ ids) ∧
        exec (.cflush g a b) s = .next ((popped [a, b] s).setRs { s.rs with wait := .flush (src [a, b] s 0) (src [a, b] s 1) false ids })
        ∧ exec (.cinv g a b true) s = .next ((popped [a, b] s).setRs { s.rs with wait := .flush (src [a, b] s 0) (src [a, b] s 1) true ids }))
    ∧ (Operable [a, b] [] s → ∃ t, exec (.cinv g a b false) s = .next t ∧ still { t with l1 := s.l1 } = still (popped [a, b] s)
        ∧ (∀ w ∈ t.l1, w ∈ s.l1) ∧ ∀ w ∈ s.l1, w.owned = true → w ∈ t.l1)
    ∧ (s.mode = .s → s.trap.tcause.extractLsb' 0 8 ≠ 0 → s.trap.ctxcmd = none → s.trap.tepc.toNat % 32 = 0 → s.ctx.load = .none → s.ctx.rs.wait = .none →
        (s.ctx.csr.msimg = 0 ∨ s.microTag = s.ctx.kernel) →
        ∃ t, exec (.eret g) s = .next t ∧ t.mode = .u ∧ t.trap.busy = false ∧ t.ctx.rs.npc = s.trap.tepc.setWidth 64 ∧ t.trap.skipBreak = true
          ∧ t.mem = s.mem ∧ t.ctx.csr = s.ctx.csr ∧ t.ctx.rs.s = s.ctx.rs.s ∧ t.ctx.rs.h = s.ctx.rs.h ∧ t.ctx.spm = s.ctx.spm ∧ t.sup.s = s.sup.s
          ∧ t.trap.tcause = s.trap.tcause ∧ t.trap.tval = s.trap.tval ∧ t.trap.tepc = s.trap.tepc)

/-! ### Handles and ports -/

/-- R359 to R363, R329, R330, R79, R81, R162: handle fields, ring advances, waits on a handle and the binding of a port. -/
def Obligations.HandlesAndPorts : Prop :=
  ∀ (s : State) (g : Guard) (h : HReg), Turn g s →
    let v := s.hreg h
    (∀ (a : SReg) (f : HField), Operable [a] [] s → s.handleInUse h = none →
        exec (.hset g h a f) s = .next ((popped [a] s).inFlight 1 (.hfield h f (src [a] s 0))))
    ∧ (∀ (d : SReg) (f : HField), Operable [] [d] s → exec (.hget g d h f) s = .next (s.landS d 2 (getField v f)))
    ∧ (∀ a : SReg, Operable [a] [] s → handleOk v = true → hKind v = 2 → s.portBound h = false → s.namedByCopy h = false →
        (∀ e ∈ s.ctx.allCalls, CallEntry.hd e ≠ some h) → hHead v < hNslot v → hTail v < hNslot v → hFilled v ≤ hNslot v →
        (s.namedByCall h = false → (src [a] s 0).toNat ≤ hFilled v → exec (.hadvHead g h a) s = .next ((popped [a] s).inFlight 1
            (.hadv h false ((hHead v + (src [a] s 0).toNat) % hNslot v) (hFilled v - (src [a] s 0).toNat))))
        ∧ ((src [a] s 0).toNat + hFilled v ≤ hNslot v → ∃ t ids, exec (.hadvTail g h a) s = .next t ∧ t.rs.wait = .requests ids ∧ t.comb = [] ∧ still t = still (popped [a] s)
              ∧ (∀ q ∈ t.liveReqs, q.reply = none → q.id ∈ ids)
              ∧ (∃ f, t.rs.flights.getLast? = some f ∧ f.due = s.rs.tick + 1
                ∧ f.act = .hadv h true ((hTail v + (src [a] s 0).toNat) % hNslot v) (hFilled v + (src [a] s 0).toNat))))
    ∧ (handleOk v = true → ringOk v = true → exec (.hwait g h) s = .next (s.setRs { s.rs with wait := .hwait h s.rs.pc }))
    ∧ (∀ (p : PortNo) (wr peek : Bool), s.mode = .u → s.ctx.ports[p.toNat].bound = false → handleOk v = true → ringOk v = true →
        hKind v ∈ [1, 2, 5, 6, 8] → (hVERS v = true → (if wr then s.writerHandle v && !s.vbound h else s.vbound h) = true) →
        (wr = true → ∀ q ∈ s.ctx.ports.toList, q.bound = true → q.wr = true → q.h ≠ h) →
        exec (.bind g p h wr peek) s = .next (s.inFlight 1 (.bindPort p h wr peek)))
    ∧ (∀ p : PortNo, s.mode = .u → s.ctx.ports[p.toNat].bound = true → (∀ f ∈ s.ctx.rs.flights, f.due ≤ s.ctx.rs.tick) →
        ∃ t, exec (.unbindPort g p) s = .next t ∧ still t = still s ∧ t.rs.wait = (if s.ctx.ports[p.toNat].wr then .portWritten p else s.rs.wait)
          ∧ (∃ f, t.rs.flights.getLast? = some f ∧ f.due = s.rs.tick + 1 ∧ f.act = .unbindPort p))

/-- R162 to R164, R384: a publish sends its header step with a release and lands BUFVER and READERS two ticks on; VBIND holds for the header it names;
UNBIND of a bound reader lowers the reader count of its slot by one in the header's byte, writes 0 to the header's reserved bits (R8) and unbinds. -/
def Obligations.VersionedBuffers : Prop :=
  ∀ (s : State) (g : Guard) (h : HReg), Safety.memOk s = true → Turn g s → s.mode = .u →
    let v := s.hreg h
    (∀ scope : Scope, handleOk v = true → s.writerHandle v = true → s.portBound h = false →
        ∃ t, exec (.vpub g h scope) s = .next t ∧ SentLast s t (.vpub h) (hBase v) 8 .rel scope 0 ∧ AwaitsLast t 2 (.vpub h 0) ∧ still t = still s)
    ∧ (∀ (hd : HReg) (a : SReg), Operable [a] [] s → handleOk v = true → hVERS v = true → (hBase v).toNat % 64 = 0 →
        (hKind v = 8 ∨ hKind v = 1 ∧ 2 ≤ hNslot v ∧ hNslot v ≤ 4 ∧ hSlotsz v ≠ 0) → s.handleInUse hd = none →
        exec (.vbind g hd h a) s = .next ((popped [a] s).setRs { s.rs with wait := .vbind hd h v (src [a] s 0 &&& 0x1FF) }))
    ∧ (∀ (b : Bound) (p : Pa) (o : Nat), s.ctx.bounds = [b] → b.h = h → s.portBound h = false → b.slot < 4 →
        s.translate s.ctx.csr.atp .u .write true b.header 8 = .ok p →
        placeOf p.pa.toNat = .window s.coreNum.toNat o → winPart o = .spm o → s.wctx = s.ctx.id → s.live = true →
        1 ≤ (Memory.get s.ctx.spm (o + b.slot)).toNat →
        ∃ t, exec (.unbindHandle g h) s = .next t ∧ t.ctx.bounds = [] ∧ t.mem = s.mem
          ∧ Memory.get t.ctx.spm (o + b.slot) = Memory.get s.ctx.spm (o + b.slot) - 1
          ∧ (∀ x, x ≠ o + b.slot → x ≠ o + 6 → x ≠ o + 7 → Memory.get t.ctx.spm x = Memory.get s.ctx.spm x)
          ∧ Memory.get t.ctx.spm (o + 6) = Memory.get s.ctx.spm (o + 6) &&& 0x1F ∧ Memory.get t.ctx.spm (o + 7) = 0
          ∧ ∃ f, t.rs.flights.getLast? = some f ∧ f.due = s.rs.tick + 1 ∧ f.act = .hfield h .kind 0)

/-! ### Matrix control -/

/-- R167, R318, R324, R326, R183, R188, R184, R185: MPSET, the regions of the accumulator memory, and the entries that MASKLD and MCALL add to the call
queue. -/
def Obligations.MatrixControl : Prop :=
  ∀ (s : State) (g : Guard) (k : BitVec 3), Turn g s → s.mode = .u →
    (∀ (n : BitVec 3) (a : SReg), Operable [a] [] s → exec (.mpset g n a) s = .next ((popped [a] s).inFlight 1 (.mp n (src [a] s 0))))
    ∧ (∀ a : SReg, Operable [a] [] s → s.ctx.callNames k = false → s.ctx.regions[k.toNat] = none →
        1 ≤ (src [a] s 0).toNat → (src [a] s 0).toNat ≤ 24 → (src [a] s 0).toNat ≤ s.ctx.freeBanks.length →
        exec (.acq g k a) s = .next ((popped [a] s).inFlight 1 (.acquireBanks k (s.ctx.freeBanks.take (src [a] s 0).toNat))))
    ∧ (∀ r : Region, s.ctx.regions[k.toNat] = some r →
        (s.ctx.callNames k = false → exec (.arel g k) s = .next { s with ctx := { s.ctx with regions := s.ctx.regions.set k.toNat none } })
        ∧ (∀ d, Operable [] [d] s → exec (.averRead g d k) s = .next (s.landS d 2 (r.version.setWidth 64)))
        ∧ exec (.averWait g k r.version) s = .next { s with l1 := s.l1.filter (·.owned) }
        ∧ ∀ v, v ≠ r.version → exec (.averWait g k v) s = .next s)
    ∧ (s.ctx.regions[k.toNat] = none → ∀ v, ∀ i ∈ [Instr.arel g k, .averWait g k v], exec i s = .next (s.enterTrap (mkTrap .acm 0 (k.setWidth 64))))
    ∧ (s.ctx.regions[k.toNat] = none → ∀ d, Operable [] [d] s → exec (.averRead g d k) s = .next (s.enterTrap (mkTrap .acm 0 (k.setWidth 64))))
    ∧ (∀ (a : SReg) (img : List (BitVec 32) × List (BitVec 64)), Operable [a] [] s → s.ctx.callCount = 0 → (src [a] s 0).toNat % 64 = 0 →
        s.readImage s.ctx.csr.atp (src [a] s 0) = .ok img → (popped [a] s).readImage s.ctx.csr.atp (src [a] s 0) = .ok img →
        ∃ t, exec (.mload g a) s = .next t ∧ t.ctx.microTable = img.1 ∧ t.ctx.microWords = img.2 ∧ t.microTag = s.ctx.kernel ∧ t.mem = s.mem
          ∧ t.ctx.rs = s.ctx.rs)
    ∧ (∀ a b : SReg, Operable [a, b] [] s → s.ctx.callCount < 4 → (src [a, b] s 1).toNat < 1024 → (src [a, b] s 1).toNat / 16 % 16 = 0 →
        (src [a, b] s 1).toNat / 2 % 8 ≤ 3 → (src [a, b] s 0).toNat % 64 = 0 → s.inOwnSpm (src [a, b] s 0) 512 = true →
        exec (.maskld g a b) s = .next { popped [a, b] s with ctx := { (popped [a, b] s).ctx with
          calls := s.ctx.calls ++ [.mask (src [a, b] s 0) (src [a, b] s 1) s.rs.pc s.rs.tick] } })
    ∧ ∀ (r e : BitVec 8) (pop bump ignv : Bool), s.ctx.callCount < 4 →
        (∀ h ∈ namedOf (s.ctx.routineWords r.toNat) pop s.ctx.mp, ringOk (s.hreg h) = true) →
        let words := s.ctx.routineWords r.toNat
        let hd := if words.any (fun w => mwDrain w) then some (s.ctx.mp[5].extractLsb' 0 5) else none
        exec (.mcall g r e k pop bump ignv) s = .next { s with ctx := { s.ctx with
          calls := s.ctx.calls ++ [.call r e k pop bump ignv s.ctx.mp (namedOf words pop s.ctx.mp) hd s.rs.pc s.rs.tick s.seq] } }

/-! ### Versions -/

/-- R152, R154, R155, R157, R158, R375, R379: SNAP registers a snapshot at K; SNAPX holds for its release; TBEGIN takes a free TID with TSNAP; TCOMMIT
holds for its release; TABORT discards the tentative entries, writes 0 to TXC and frees the TID, and holds while a commit is pending. In S mode the snapshot and the transaction are those of
the context in whose behalf the core entered it, and another context keeps its own.
(Which free TID it takes is free: log 14. A notice whose CTXSEL names no context: log 49.) -/
def Obligations.Transactions : Prop :=
  ∀ (s : State) (g : Guard) (d : SReg), Turn g s →
    (s.behalf = s.ctx.id →
      (Operable [] [d] s → s.ctx.snap = none → s.ctx.txn = none → s.snapRoom = true → ∃ t, exec (.snap g d) s = .next t
          ∧ t.ctx.snap = some s.completedMark ∧ t.l1 = s.l1.filter (·.owned)
          ∧ (∃ f, t.rs.flights.getLast? = some f ∧ f.due = s.rs.tick + 1 ∧ f.act = .sreg d (BitVec.ofNat 64 s.completedMark))
          ∧ still { t with l1 := s.l1, ctx := { t.ctx with snap := s.ctx.snap } } = still s)
      ∧ (Operable [] [d] s → s.ctx.txn = none → ∀ tid, s.freeTid = some tid → ∃ t, exec (.tbegin g d) s = .next t ∧ tid ∉ s.usedTids
          ∧ t.ctx.txn = some { tid := tid, tsnap := s.ctx.snap.getD s.completedMark, doom := none, slices := 0, lines := 0, num := s.draws }
          ∧ (∃ f, t.rs.flights.getLast? = some f ∧ f.due = s.rs.tick + 1 ∧ f.act = .sreg d (tid.setWidth 64))
          ∧ still { t with draws := s.draws, l1 := s.l1, ctx := { t.ctx with txn := none } } = still s)
      ∧ (s.ctx.txn ≠ none → s.ctx.commit ≠ none → exec (.tabort g) s = .next s)
      ∧ (∀ x : Txn, s.ctx.txn = some x → s.ctx.commit = none → ∃ t, exec (.tabort g) s = .next t ∧ t.ctx.txn = none ∧ t.ctx.csr = { s.ctx.csr with txc := 0 }
          ∧ (∀ l ∈ t.chains, ∀ e ∈ l.entries, e.st = .committed ∨ e.tid ≠ x.tid) ∧ t.mem = s.mem ∧ t.ctx.rs = s.ctx.rs ∧ t.sup = s.sup
          ∧ t.ctx.spm = s.ctx.spm))
    ∧ (s.behalf ≠ s.ctx.id → s.mode = .s ∧ s.behalf = s.trap.ctxsel.extractLsb' 0 16
      ∧ (Operable [] [d] s → s.served.snap = none → s.served.txn = none → s.snapRoom = true → ∃ t, exec (.snap g d) s = .next t
          ∧ t.parked = updFirst (·.id == s.behalf) (fun c => { c with snap := some s.completedMark }) s.parked ∧ t.ctx = s.ctx ∧ t.mem = s.mem)
      ∧ (Operable [] [d] s → s.served.txn = none → ∀ tid, s.freeTid = some tid → ∃ t, exec (.tbegin g d) s = .next t ∧ t.ctx = s.ctx ∧ t.mem = s.mem
          ∧ (let x : Txn := { tid := tid, tsnap := s.served.snap.getD s.completedMark, doom := none, slices := 0, lines := 0,
                              num := s.draws }
            t.parked = updFirst (·.id == s.behalf) (fun c => { c with txn := some x }) s.parked))
      ∧ (s.served.txn ≠ none → s.served.commit ≠ none → exec (.tabort g) s = .next s)
      ∧ (∀ x : Txn, s.served.txn = some x → s.served.commit = none → ∃ t, exec (.tabort g) s = .next t ∧ t.ctx = s.ctx ∧ t.mem = s.mem
          ∧ t.parked = updFirst (·.id == s.behalf) (fun c => { c with txn := none, csr := { c.csr with txc := 0 } }) s.parked
          ∧ ∀ l ∈ t.chains, ∀ e ∈ l.entries, e.st = .committed ∨ e.tid ≠ x.tid))
    ∧ (s.served.snap ≠ none → ∃ t ids, exec (.snapx g) s = .next t ∧ t.rs.wait = .snapx ids ∧ still t = still s
        ∧ ∀ q ∈ t.liveReqs, q.reply = none → q.id ∈ ids)
    ∧ (Operable [] [d] s → s.served.txn ≠ none → ∃ t, exec (.tcommit g d) s = .next t ∧ t.rs.wait = .tcommit d ∧ t.comb = [] ∧ still t = still s)

/-! ### Taps, sequences, generator and energy -/

/-- R215, R217, R229, R376: every SQ instruction that its role, slot and operands allow completes its issue: it sends its request, flushing the combining
buffer, and holds for the reply (Obligations.HeldInstructionsGoOn says how that hold ends). -/
def Obligations.SequenceRequests : Prop :=
  ∀ (s : State) (g : Guard) (d a b : SReg), Turn g s →
    let x := src [a, b] s 0
    let y := src [a, b] s 1
    let u := popped [a, b] s
    let pro := (s.ctx.csr.sqrole.getLsbD 0) = true
    let assay := (s.ctx.csr.sqrole.getLsbD 1) = true
    (Operable [a, b] [d] s →
      (pro → y.toNat < 2 ^ 15 → 1 ≤ y.toNat / 256 % 128 → y.toNat / 256 % 128 ≤ 64 → x.toNat % 32 = 0 →
        s.inOwnSpm x (32 * (y.toNat / 256 % 128)) = true → ∃ t, exec (.sqget g d a b) s = .next t ∧ SqAsked u t d .get x y)
      ∧ (pro → x.toNat < 4096 → y.toNat < 2 ^ 60 → ∀ se nn, ∃ t, exec (.sqnode g d a b se nn) s = .next t ∧ SqAsked u t d (.node se nn) x y)
      ∧ (assay → x.toNat < 4096 → y.toNat % 64 = 0 → s.inOwnSpm y 512 = true →
        ∃ t, exec (.sqaccMask g d a b) s = .next t ∧ SqAsked u t d .mask x y)
      ∧ (assay → x.toNat < 4096 → ∃ t, exec (.sqaccAccept g d a b) s = .next t ∧ SqAsked u t d .accept x y)
      ∧ (s.mode = .s → x.toNat < 4096 → ∃ t, exec (.sqsetAdmit g d a b) s = .next t ∧ SqAsked u t d .admitSlot x y)
      ∧ (s.mode = .s → x.toNat < 4096 → y = 0 → (∃ t, exec (.sqsetPreempt g d a b) s = .next t ∧ SqAsked u t d .preempt x y)
        ∧ (∃ t, exec (.sqsetResume g d a b) s = .next t ∧ SqAsked u t d .resume x y)
        ∧ ∃ t, exec (.sqsetRetire g d a b) s = .next t ∧ SqAsked u t d .retire x y)
      ∧ (s.mode = .s → x.toNat < 4096 → y.toNat < 2 → ∃ t, exec (.sqsetRelease g d a b) s = .next t ∧ SqAsked u t d .release x y)
      ∧ (s.mode = .s → x = 0 → ∃ t, exec (.sqsetPool g d a b) s = .next t ∧ SqAsked u t d .pool x y))
    ∧ (Operable [a] [d] s → (src [a] s 0).toNat < 4096 →
      (assay → ∃ t, exec (.sqcommit g d a) s = .next t ∧ SqAsked (popped [a] s) t d .commit (src [a] s 0) 0)
      ∧ (pro ∨ assay → ∃ t, exec (.sqroll g d a) s = .next t ∧ SqAsked (popped [a] s) t d .roll (src [a] s 0) 0))

/-- R65, R67, R215, R325, R334, R366, R380, Table 3.2: what the core holds for after a bundle's issue, and what it does as the hold ends: a wait for
requests ends when they have been performed; a phase that has completed ends SYNC as an acquire; SNAPX then releases the snapshot; an SQ instruction's
reply lands one tick on as an acquire, once the requests before it are performed and the SQM has served it.
R216 to R220, R224, R228, Tables 10.5 and 10.6: what the SQM's service of SQGET, SQNODE, SQACC and SQCOMMIT reads, writes and replies, each read and write
a part of the request's transaction (Obligations.SequenceManagerSteps says what one leaves).
(The depth of an absent parent, which no check then uses, is the model's reading: log 40.) -/
def Obligations.HeldInstructionsGoOn : Prop :=
  ∀ (s : State),
    (∀ ids, s.rs.wait = .requests ids → (∀ q ∈ s.liveReqs, q.reply = none → q.id ∉ ids) → (∀ q ∈ s.comb, q.id ∉ ids) → s.waitStep = some s.release)
    ∧ (∀ ids, s.rs.wait = .requests ids → (∃ q ∈ s.liveReqs, q.reply = none ∧ q.id ∈ ids) → s.waitStep = none)
    ∧ (∀ id, s.rs.wait = .performed id → (∀ q ∈ s.liveReqs, q.id ≠ id) → (∀ q ∈ s.comb, q.id ≠ id) → s.waitStep = some s.release)
    ∧ (∀ l target, s.rs.wait = .phase l target → (0 ≤ ((s.ctx.dom l).phc - target).toInt →
          s.waitStep = some { s with l1 := s.l1.filter (·.owned) }.release)
        ∧ (((s.ctx.dom l).phc - target).toInt < 0 → (s.ctx.dom l).broken = false → s.waitStep = none))
    ∧ (s.rs.wait = .snapx [] → s.waitStep = some (s.updServed fun c => { c with snap := none }).release)
    ∧ (∀ d op a b, s.rs.wait = .sq d op a b →
        ((∃ q ∈ s.liveReqs, q.reply = none) → s.waitStep = none)
        ∧ ((∀ q ∈ s.allReqs, q.reply ≠ none) → s.comb = [] → ∀ v t, s.sqRun (sqRequest op a b) = some (v, t) → op ≠ .accept →
            s.waitStep = some ({ t with l1 := t.l1.filter (·.owned) }.landS d 1 v).release))
    -- a request's transaction: a status changes nothing
    ∧ (∀ (m : Nat → SqM Word), s.freeTid ≠ none →
        (∀ c, m (s.vsuLast + 1) { s with vsuLast := s.vsuLast + 1 } = .error (.status c none) → s.sqRun m = some (BitVec.ofNat 64 c, s))
        ∧ (m (s.vsuLast + 1) { s with vsuLast := s.vsuLast + 1 } = .error .again → s.sqRun m = none)
        ∧ ∀ v t, m (s.vsuLast + 1) { s with vsuLast := s.vsuLast + 1 } = .ok (v, t) → ∃ u, s.sqRun m = some (v, u) ∧ { u with vsuLast := t.vsuLast } = t)
    ∧ (∀ m : Nat → SqM Word, s.freeTid = none → s.sqRun m = none)
    -- SQGET
    ∧ (∀ (st : Nat) (sa b : Word) (q : SqSlot) (d : Desc), s.sqSlots = [q] → s.descOf q = some d → sqBytes q.atp q.desc 256 s = .ok (bytesOf 256 d.toNat, s) →
        ((dGet d dSTATE ≠ 1 ∨ dGet d dPOOL ≠ b.toNat % 256) → sqRequest .get sa b st s = .ok (0, s))
        ∧ (dGet d dSTATE = 1 → dGet d dPOOL = b.toNat % 256 → 1 ≤ b.toNat / 256 % 128 → ∀ s1 s2 : State,
            sqClose st q d (dSet (dSet d dSTATE 2) dNCNT 0) s = .ok ((), s1) →
            sqSpm sa (bytesOf 2 q.num.toNat ++ bytesOf 1 (dGet d dMAXN) ++ bytesOf 1 (dGet d dMAXD) ++ bytesOf 4 (dGet d dL) ++ bytesOf 4 (dGet d dHINT)
              ++ bytesOf 4 0 ++ bytesOf 8 q.desc.toNat ++ bytesOf 8 (dGet d dSTAGE)) s1 = .ok ((), s2) →
            sqRequest .get sa b st s = .ok (0x100, s2)))
    -- the requests of one slot
    ∧ (∀ (st : Nat) (b : Word) (q : SqSlot) (d : Desc) (s1 : State), s.sqSlot q.num = some q → sqNum q.atp q.desc 256 s = .ok (d.toNat, s1) →
      let ask := fun (op : SqOp) => sqRequest op (q.num.setWidth 64) b st s
      let refused := fun (op : SqOp) (c : Nat) => ask op = .error (.status c none)
      let cnt := dGet d dNCNT
      let closed := fun (new : Desc) (u v : State) => sqClose st q d new u = .ok ((), v)
      let put := fun (a : Word) (n v : Nat) (u w : State) => sqPut st q.atp a n v u = .ok ((), w)
      -- SQNODE
      (dGet d dSTATE ≠ 2 → ∀ se nn, refused (.node se nn) 1)
      ∧ (dGet d dSTATE = 2 →
        let p := b.toNat % 2 ^ 32
        let parent := b.toNat / 2 ^ 52 % 256
        let q32 := dGet d dRULE = 0 ∨ inUnit p = true
        let word := fun (depth : Nat) => b.toNat / 2 ^ 32 % 2 ^ 20 + parent * 2 ^ 32 + depth * 2 ^ 40 + p * 2 ^ 64
        let fits := fun (depth : Nat) (u : State) =>
          (¬q32 → refused (.node false false) 3)
          ∧ (q32 → cnt = dGet d dMAXN ∨ dGet d dMAXD < depth → refused (.node false false) 2)
          ∧ (q32 → cnt ≠ dGet d dMAXN → depth ≤ dGet d dMAXD → ∀ s3 s4 : State, put (nodeAddr d cnt) 16 (word depth) u s3 →
              closed (dSet d dNCNT (cnt + 1)) s3 s4 → ask (.node false false) = .ok (BitVec.ofNat 64 (cnt * 256), s4))
        (parent = 0xFF → fits 1 s1)
        ∧ (parent ≠ 0xFF → parent < cnt → ∀ above s2, sqNum q.atp (nodeAddr d parent) 16 s1 = .ok (above, s2) → fits (above / 2 ^ 40 % 32 + 1) s2)
        ∧ (parent ≠ 0xFF → cnt ≤ parent → q32 → cnt ≠ dGet d dMAXN → 1 ≤ dGet d dMAXD → refused (.node false false) 3)
        ∧ (cnt = 0 → ∀ s2 s3 : State, sqWrite st q.atp (dAddr d dTREE + 1024) (bytesOf 512 0) s1 = .ok ((), s2) → closed (dSet d dSTATE 3) s2 s3 →
            ask (.node true true) = .ok (0, s3))
        ∧ (cnt = 1 → ∀ (w : Nat) (s2 s3 s4 s5 : State), sqNum q.atp (nodeAddr d 0) 16 s1 = .ok (w, s2) →
            (w / 2 ^ 40 % 32 % 2 ^ dGet d dCSTR = 0 → put (nodeAddr d 0) 16 (ndSetBit w 46) s2 s3) → (w / 2 ^ 40 % 32 % 2 ^ dGet d dCSTR ≠ 0 → s3 = s2) →
            sqWrite st q.atp (dAddr d dTREE + 1024) (bytesOf 512 1) s3 = .ok ((), s4) → closed (dSet d dSTATE 3) s4 s5 → ask (.node true true) = .ok (0, s5)))
      -- SQACC
      ∧ (dGet d dSTATE ≠ 3 → refused .mask 1 ∧ refused .accept 1)
      ∧ (dGet d dSTATE = 3 →
        (∀ bs s2, sqBytes q.atp (dAddr d dTREE + 1024) 512 s1 = .ok (bs, s2) →
          ask .mask = .ok (0, { s2 with jobs := s2.jobs ++ [s2.bitmapJob b bs], seq := s2.seq + 1 }))
        ∧ (∀ (recs : List Shortlist) (nodes path : List Nat) (h : Nat) (d' : Desc) (s2 s3 s4 s5 s6 s7 : State),
          (List.range cnt).mapM (sqShortlist b (dGet d dKSL)) s1 = .ok (recs, s2) → sqNodes q d cnt s2 = .ok (nodes, s3) →
          acceptWalk d nodes recs = (path, h) → sqEnsure st q path.length 40 d s3 = .ok (d', s4) →
          let last := path.getLast?.getD 0xFF
          let hint := h % 2 ^ 20
          sqWrite st q.atp (dAddr d dACCREC) (bytesOf 8 (path.length + last * 2 ^ 8 + 2 ^ 16) ++ bytesOf 8 hint
            ++ (List.range 16).map (fun k => BitVec.ofNat 8 (path.getD k 0xFF)) ++ bytesOf 32 0) s4 = .ok ((), s5) →
          path.forM (fun i => sqPut st q.atp (nodeAddr d i) 16 (ndSetBit (nodes.getD i 0) 47)) s5 = .ok ((), s6) → closed (dSet d' dSTATE 4) s6 s7 →
          ask .accept = .ok (BitVec.ofNat 64 (path.length * 2 ^ 8 + last * 2 ^ 16 + hint * 2 ^ 24),
            { s7.updSlot q.num (fun q => { q with acc := s7.seq }) with seq := s7.seq + 1 })))
      -- SQCOMMIT
      ∧ (dGet d dSTATE ≠ 4 → refused .commit 1)
      ∧ (dGet d dSTATE = 4 → ∀ (r : Nat) (ns : List Nat) (s2 s3 : State), sqNum q.atp (dAddr d dACCREC) 64 s1 = .ok (r, s2) →
        let a := r % 256
        let path := (List.range a).map fun k => r / 2 ^ (128 + 8 * k) % 256
        (a ≠ 0 → r / 2 ^ 24 % 256 < dGet d dNKV → refused .commit 5)
        ∧ (a = 0 ∨ dGet d dNKV ≤ r / 2 ^ 24 % 256 → path.mapM (fun p => sqNum q.atp (nodeAddr d p) 16) s2 = .ok (ns, s3) →
          ∀ (a' hit cut : Nat) (left : List (BitVec 20 × BitVec 32)) (s4 s5 s6 : State),
            let ends := dGet d dEOS ≠ 0xFFFFF
            let tok := fun i => ndToken (ns.getD i 0)
            -- cut is the first node with TAPCROSSED, hit the first EOS before it, and L + a' does not pass LMAX
            (∀ i < cut, ndCrossed (ns.getD i 0) = false) → (cut < a → ndCrossed (ns.getD cut 0) = true) → cut ≤ a →
            (∀ i < hit, ends → tok i ≠ dGet d dEOS) → (hit < cut → ends ∧ tok hit = dGet d dEOS) → hit ≤ cut →
            a' = min (min (hit + 1) cut) (dGet d dLMAX - dGet d dL) →
            sqDeliver st q d none (q.pending ++ (List.range a').map fun i => (BitVec.ofNat 20 (tok i), BitVec.ofNat 32 (dGet d dL + i))) s3 = .ok (left, s4) →
            let state := if cut < a then 6 else if hit < a' ∨ dGet d dL + a' = dGet d dLMAX then 8 else if 48 < left.length then 5 else 1
            let hint := if cut < a then tok cut else if a' < a then tok a' else r / 2 ^ 64 % 2 ^ 20
            let d1 := ([(dL, dGet d dL + a'), (dCL, dGet d dCL + a'), (dNCNT, 0), (dCSTAMP, st), (dHINT, hint), (dSTATE, state), (dPCNT, left.length)]
              : List (DField × Nat)).foldl (fun d f => dSet d f.1 f.2) d
            let d' := if cut < a then dSet d1 dHNODE (path.getD cut 0) else d1
            put (dAddr d dACCREC) 8 (accKeep (setBits (BitVec.ofNat 64 (r % 2 ^ 64)) 16 1 0)) s4 s5 → closed d' s5 s6 →
            let c := 2 ^ dGet d dCSTR
            let check := if a' < c then 0xFF else path.getD (c * (a' / c) - 1) 0xFF
            ∃ t, ask .commit = .ok (BitVec.ofNat 64 (a' * 2 ^ 8 + check * 2 ^ 16 + a' % c * 2 ^ 24 + state * 2 ^ 32), t) ∧ t.mem = s6.mem ∧ t.ctx = s6.ctx
              ∧ t.sqSlots = updFirst (·.num == q.num) (fun q => { q with acc := s6.seq, pending := left, marks := [],
                                                                         readyAt := if state = 1 then s6.seq + 1 else q.readyAt }) s6.sqSlots
              ∧ t.sqEvents = s6.sqEvents ++ (if state = 1 then [] else (s6.contexts.filter (·.hears (dGet d dPOOL))).map fun x =>
                  (x.id, BitVec.ofNat 64 ((dGet d dL + a') % 2 ^ 32 * 2 ^ 32 + (if state = 6 then path.getD cut 0 else 0xFF) * 2 ^ 16
                    + (if state = 6 then 2 else if state = 8 then 1 else 3) * 2 ^ 12 + q.num.toNat)))
              ∧ (state ≠ 6 → t.tevrWait = s6.tevrWait) ∧ (state = 6 → t.tevrWait.length = s6.tevrWait.length + 1))))
    -- the acceptance walk (R224)
    ∧ (∀ (d : Desc) (nodes : List Nat) (recs : List Shortlist), nodes.length ≤ 64 →
      let root := (childrenOf nodes 0xFF).find? fun n => ndToken (nodes.getD n 0) == dGet d dHINT
      let top := fun n => (recs.getD n ⟨0, 0, []⟩).entries.map (·.2)
      (root = none → acceptWalk d nodes recs = ([], dGet d dHINT))
      ∧ ∀ n, root = some n →
        (dGet d dRULE = 0 →
          ((∀ c ∈ childrenOf nodes n, ndToken (nodes.getD c 0) ≠ (top n).headD 0) → acceptWalk d nodes recs = ([n], (top n).headD 0))
          ∧ ∀ c, (childrenOf nodes n).find? (fun c => ndToken (nodes.getD c 0) == (top n).headD 0) = some c →
            (∀ x ∈ childrenOf nodes c, ndToken (nodes.getD x 0) ≠ (top c).headD 0) → acceptWalk d nodes recs = ([n, c], (top c).headD 0))
        ∧ (dGet d dRULE = 1 → ∀ c, childrenOf nodes n = [c] → childrenOf nodes c = [] →
          let rec0 := recs.getD n ⟨0, 0, []⟩
          let w := weightsOf (dGet d dTOPP) rec0
          let k := (top n).idxOf (ndToken (nodes.getD c 0))
          let u : FV := .fin false ((mix32 (mix32 (BitVec.ofNat 32 (dGet d dKEY)) ^^^ BitVec.ofNat 32 (dGet d dL % 2 ^ 25 * 128 + c))).toNat / 256) (-24)
          let limit := (FV.mul (FV.mul u (fmtF32.decode (ndQ (nodes.getD c 0)))).1 (fmtF32.decode (w.foldl add32 0))).1
          let weight := fmtF32.decode (w.getD k 0)
          let taken := limit.isNaN = false ∧ weight.isNaN = false ∧ FV.cmp limit weight < 0
          (taken → acceptWalk d nodes recs = ([n, c], hintOf d (recs.getD c ⟨0, 0, []⟩) (weightsOf (dGet d dTOPP) (recs.getD c ⟨0, 0, []⟩))))
          ∧ (¬taken → acceptWalk d nodes recs = ([n], hintOf d rec0 (w.set k 0)))))
    -- the pages of an acceptance (R228)
    ∧ (∀ (st fuel a : Nat) (q : SqSlot) (d : Desc) (s1 : State),
      (sqMissing q d a s = .ok (none, s1) → sqEnsure st q a (fuel + 1) d s = .ok (d, s1))
      ∧ ∀ (j count rsv page : Nat) (sa satp : Word) (s2 s3 s4 s5 s6 s7 : State), sqMissing q d a s = .ok (some j, s1) → sqStack s1 = .ok ((count, rsv), s2) →
        s2.pageStack = some (sa, satp) → rsv < count →
        sqNum satp (sa + 64 + BitVec.ofNat 64 (8 * (count - 1))) 8 s2 = .ok (page, s3) → sqPut st satp sa 8 (count - 1) s3 = .ok ((), s4) →
        sqPut st q.atp (dAddr d dKVPT + BitVec.ofNat 64 (8 * j)) 8 page s4 = .ok ((), s5) →
        sqPut st q.atp (dAddr d dREMAP + BitVec.ofNat 64 (4 * j)) 4 (ofIntW 32 ((dGet d dL : Int) + (j * 2 ^ dGet d dPPLOG : Nat) - dGet d dCL)) s5 = .ok ((), s6) →
        sqPut st q.atp (dAddr d dSCORE + BitVec.ofNat 64 (4 * j)) 4 0 s6 = .ok ((), s7) → sqEnsure st q a (fuel + 1) d s = sqEnsure st q a fuel d s7)

/-- R232 to R236, R103, R373, R280, R281: TAPX whose row handle, row map, sb and default set keep R233 and that finds fewer than four taps outstanding takes
the next tap number and holds; with no probe set loaded and no slot admitted it finds nothing to do for any row. TAPW goes on once its tap is complete;
RNGSEED replaces key and counter and empties rngq; ECMARK lands the energy since the mark, and with a source moves the mark.
(That status, writes and halt of a tap are fixed as it issues is the model's reading: log 41.) -/
def Obligations.TapsGeneratorAndEnergy : Prop :=
  ∀ (s : State) (g : Guard) (d a b : SReg), Turn g s →
    (∀ (h : BitVec 4) (post : Bool), Operable [a, b] [d] s → s.feature featTAPS = true → s.ctx.taps.length < 4 →
      let v := s.hreg (h.setWidth 5)
      let sa := src [a, b] s 0
      let sb := src [a, b] s 1
      handleOk v = true → hKind v = 1 → (rowType v).isSome = true → 64 ≤ hDim0 v → hDim0 v ≤ 16384 → hDim0 v % 64 = 0 → 1 ≤ hDim1 v → hDim1 v ≤ 256 →
      hDim2 v ≤ 1 → hStride1 v % 16 = 0 → (rowLen v : Int) ≤ hStride1 v → (∀ i < hDim1 v, s.inOwnSpm (rowAddr v i) (rowLen v) = true) →
      sa.toNat % 8 = 0 → s.inOwnSpm sa (8 * hDim1 v) = true → (∀ ws, s.rowMap sa (hDim1 v) = some ws → ∀ w ∈ ws, mapBad w = false) →
      sb.getLsbD 7 = false → sb.toNat < 2 ^ 15 → (sb.getLsbD 14 = true ∨ s.ctx.csr.tapgnt.getLsbD (sb.toNat / 256 % 64) = true) →
        ∃ t halt, exec (.tapx g d h a b post) s = .next t ∧ t.rs.wait = .tapx d halt
          ∧ (∃ x, t.ctx.taps = s.ctx.taps ++ [x] ∧ x.num = s.ctx.csr.tapnext ∧ x.complete = false
            ∧ (s.probes = [] → s.sqSlots = [] → halt = false ∧ x.status = 0 ∧ x.writes = []))
          ∧ (s.probes = [] → s.sqSlots = [] →
            still { t with l1 := s.l1, ctx := { t.ctx with taps := s.ctx.taps } } = still (popped [a, b] s) ∧ t.rs.flights = s.rs.flights))
    ∧ (Operable [a] [] s → s.feature featTAPS = true → s.ctx.tapPending ((src [a] s 0).setWidth 16) = false →
        exec (.tapw g a) s = .next { popped [a] s with l1 := s.l1.filter (·.owned) })
    ∧ (Operable [a, b] [] s → s.mode = .u → exec (.rngseed g a b) s =
        .next ((popped [a, b] s).inFlight 1 (.reseed s.ctx.id ((src [a, b] s 0).setWidth 32) ((src [a, b] s 1).setWidth 32))))
    ∧ (s.mode = .u → s.live = true → (Operable [] [d] s → exec (.ecmarkRead g d) s = .next (s.landS d 2 (s.ctx.csr.ecnt - s.ctx.csr.ecbase)))
      ∧ (Operable [a] [d] s → ∃ t, exec (.ecmarkMark g d a) s = .next t
        ∧ t.ctx.csr = { s.ctx.csr with ecbase := s.ctx.csr.ecnt, ectag := (src [a] s 0).setWidth 16 }
        ∧ (∃ f, t.rs.flights.getLast? = some f ∧ f.due = s.rs.tick + 2 ∧ f.act = .sreg d (s.ctx.csr.ecnt - s.ctx.csr.ecbase))
        ∧ still { t with ctx := { t.ctx with csr := s.ctx.csr } } = still (popped [a] s)))

/-! ### Vector and transform slots -/

/-- R81, R82, R371, R382, R383, R385, R389: what each vector operation of two or three sources computes lane by lane, in its type, and when its beat lands in the slot's latch and in its
port: VADD to VXOR, the shifts, VCMP with its mask, VSEL by it, VPERM and VFMA. -/
def Obligations.VectorLanes : Prop :=
  ∀ (s : State) (k : VSlot) (g : Guard) (t : VType) (d : PortNo) (a b : VOpd), Turn g s → ReadsAndPushes [a, b] d s →
    let A := (vreads t [a, b] s).1.getD 0 0
    let B := (vreads t [a, b] s).1.getD 1 0
    let u := (vreads t [a, b] s).2
    let w := VType.width t
    let x := fun i => laneAt w A i
    let y := fun i => laneAt w B i
    let lanes := fun (f : Nat → Nat) => beatOf t ((List.range (VType.lanes t)).map f)
    let arith := fun (fp : FFmt → Nat → Nat → Nat) (int : Nat → Nat → Nat) =>
      lanes fun i => match VType.fmt? t with | some f => fp f (x i) (y i) | none => int (x i) (y i) % 2 ^ w
    let sgn := fun (n : Nat) => toInt (VType.signed t) w n
    exec (.vadd k g t d a b) s = .next (u.landV k d 2 (arith (fun f p q => (fpAdd f s.ftz .rne p q).1) (· + ·)))
    ∧ exec (.vsub k g t d a b) s = .next (u.landV k d 2 (arith (fun f p q => (fpSub f s.ftz .rne p q).1) fun p q => p + (2 ^ w - q)))
    ∧ exec (.vmul k g t d a b) s = .next (u.landV k d 3 (arith (fun f p q => (fpMul f s.ftz .rne p q).1) (· * ·)))
    ∧ exec (.vmin k g t d a b) s = .next (u.landV k d 2 (arith (fun f p q => (fpPick f s.ftz false p q).1)
        fun p q => if sgn q < sgn p then q else p))
    ∧ exec (.vmax k g t d a b) s = .next (u.landV k d 2 (arith (fun f p q => (fpPick f s.ftz true p q).1)
        fun p q => if sgn p < sgn q then q else p))
    ∧ exec (.vand k g t d a b) s = .next (u.landV k d 2 (A &&& B)) ∧ exec (.vor k g t d a b) s = .next (u.landV k d 2 (A ||| B))
    ∧ exec (.vxor k g t d a b) s = .next (u.landV k d 2 (A ^^^ B))
    ∧ (VType.fmt? t = none → exec (.vshl k g t d a b) s =
        .next (u.landV k d 2 (lanes fun i => if w ≤ y i then 0 else x i * 2 ^ y i % 2 ^ w)))
    ∧ (VType.fmt? t = none → exec (.vshr k g t d a b) s = .next (u.landV k d 2 (lanes fun i => (sgn (x i) / 2 ^ min (y i) w % 2 ^ w).toNat)))
    ∧ (∀ cc, let ok := fun i => match VType.fmt? t with
          | some f => (FV.cond cc (readFtz f s.ftz (x i)) (readFtz f s.ftz (y i))).1
          | none => intCond cc (BitVec.ofNat w (x i)) (BitVec.ofNat w (y i))
        exec (.vcmp k g t d a b cc) s = .next ((u.landV k d 2 (lanes fun i => if ok i then 2 ^ w - 1 else 0)).inFlight 2
          (.mask k (BitVec.ofNat 256 (packLanes 1 ((List.range (VType.lanes t)).map fun i => if ok i then 1 else 0))))))
    ∧ exec (.vsel k g t d a b) s = .next (u.landV k d 2 (lanes fun i =>
        if (match k with | .v0 => s.ctx.masks[0] | .v1 => s.ctx.masks[1]).getLsbD i then x i else y i))
    ∧ exec (.vperm k g t d a b) s = .next (u.landV k d 4 (lanes fun i => x (y i % VType.lanes t)))
    ∧ ∀ c : BitVec 5, exec (.vfma k g t d a b c) s = .next (u.landV k d 4 (lanes fun i =>
        match VType.fmt? t with
        | some f => (fpFma f s.ftz .rne (x i) (y i) (laneAt w (vreadC t c s) i)).1
        | none => (x i * y i + laneAt w (vreadC t c s) i) % 2 ^ w))

/-- R381, R386 to R388, R391, R392, R100, R102: the vector operations of one source (the element-wise functions, VMOV, the reductions, VSCAN, VTOPK, VCVT) and VRNG.
(That VTOPK and VRNG flush nothing is the model's choice, log 49; the values of the transcendental functions stand as log 8 says.) -/
def Obligations.VectorUnary : Prop :=
  ∀ (s : State) (k : VSlot) (g : Guard) (t : VType) (d : PortNo) (a : VOpd), Turn g s → ReadsAndPushes [a] d s →
    let A := (vread t a s).1
    let u := (vread t a s).2
    let w := VType.width t
    let x := fun i => laneAt w A i
    let L := VType.lanes t
    let lanes := fun (f : Nat → Nat) => beatOf t ((List.range L).map f)
    let add := fun p q => match VType.fmt? t with | some f => (fpAdd f s.ftz .rne p q).1 | none => (p + q) % 2 ^ w
    exec (.vabs k g t d a) s = .next (u.landV k d 2 (lanes fun i => laneAbs t s.ftz (x i)))
    ∧ exec (.vneg k g t d a) s = .next (u.landV k d 2 (lanes fun i => laneNeg t s.ftz (x i)))
    ∧ (∀ f, VType.fmt? t = some f → ∀ p ∈ ([(.vexp2 k g t d a, .exp2), (.vlog2 k g t d a, .log2), (.vrcp k g t d a, .rcp), (.vrsq k g t d a, .rsq)] :
        List (Instr × Trans)), exec p.1 s = .next (u.landV k d 6 (lanes fun i => fpTrans p.2 f s.ftz (x i))))
    ∧ exec (.vmov k g t d a) s = .next (u.landV k d 2 A)
    ∧ exec (.vrsum k g t d a) s = .next (u.landV k d 8 (lanes fun _ => treeFold add (Nat.log2 L) ((List.range L).map x)))
    ∧ exec (.vrmax k g t d a) s = .next (u.landV k d 8 (lanes fun _ => treeFold (fun p q => match VType.fmt? t with
        | some f => (fpPick f s.ftz true p q).1
        | none => (if toInt (VType.signed t) w p < toInt (VType.signed t) w q then q else p) % 2 ^ w) (Nat.log2 L) ((List.range L).map x)))
    ∧ (∀ acc : Nat → Nat, acc 0 = x 0 → (∀ i, acc (i + 1) = add (acc i) (x (i + 1))) →
        exec (.vscan k g t d a) s = .next (u.landV k d 8 (lanes acc)))
    ∧ (∀ (n : BitVec 6) (idx : Bool), exec (.vtopk k g t d a n idx) s =
        .next (u.landV k d 12 (topkBeat t (n.toNat + 1) idx ((List.range L).map x))))
    ∧ (∀ (srct : VType) (rm : RSel),
        let v := (vread srct a s).2
        let conv := fun (wd : BitVec 32) => beatOf t ((List.range (min (VType.lanes srct) L)).map fun i =>
          (convert (VType.toE t) (VType.toE srct) false (selMode s rm (laneRandom wd i)) (laneAt (VType.width srct) (vread srct a s).1 i)).1)
        (rm ≠ .srnd → exec (.vcvt k g t d a rm srct) s = .next (v.landV k d 3 (conv 0)))
        ∧ ∀ wd ws, rm = .srnd → s.ctx.bundleRnd = none → s.ctx.rngq = wd :: ws → exec (.vcvt k g t d a rm srct) s =
            .next ({ v with ctx := { v.ctx with rngq := ws, bundleRnd := some wd } }.landV k d 3 (conv wd)))
    ∧ (ReadsAndPushes [] d s → ∀ wd ws, s.ctx.bundleRnd = none → s.ctx.rngq = wd :: ws → exec (.vrng k g t d) s =
        .next ({ s with ctx := { s.ctx with rngq := ws, bundleRnd := some wd } }.landV k d 3 (lanes (randomLane t k wd))))

/-- R205, R206: XCVT, XEXP and XPACK push their beat after 3, 4 and 2 ticks, XPOSE takes its first beat and goes on with the ticks: the pushes of its output are in
flight from its issue on, beat j to land 64 + j ticks later. -/
def Obligations.Transforms : Prop :=
  ∀ (s : State) (g : Guard) (d a : PortNo), Turn g s → s.ctx.xpose = none → ReadsAndPushes [a.setWidth 6] 31 s → Pushes d s →
    let A := (s.popPort a).1
    let u := (s.popPort a).2
    let mask := fun (l : VSlot) => match l with | .v0 => s.ctx.masks[0] | .v1 => s.ctx.masks[1]
    (∀ (p : BitVec 3) (h : Bool), exec (.xcvt g d a p h) s = .next (u.pushBeat 6 d 3 (xcvtBeat p h A)))
    ∧ (∀ (l : VSlot) (w : BitVec 2), w ≠ 3 →
        let wd := 32 / 2 ^ w.toNat
        let n := 2048 / wd
        let chosen := fun (i : Nat) => (mask l).getLsbD i
        exec (.xexp g d a l w) s = .next (u.pushBeat 6 d 4 (BitVec.ofNat 2048 (packLanes wd ((List.range n).map fun i =>
            if chosen i then laneAt wd A ((List.range i).filter chosen).length else 0))))
        ∧ exec (.xpack g d a l w) s = .next (u.pushBeat 6 d 2 (BitVec.ofNat 2048 (packLanes wd
            (((List.range n).filter chosen).map fun i => laneAt wd A i)))))
    ∧ ∀ w : BitVec 2, w ≠ 3 → s.pushTrap 6 d (2 * (32 / 2 ^ w.toNat)) = none → ∃ t x, exec (.xpose g d a w) s = .next t ∧ t.ctx.xpose = some x
        ∧ x.src = a ∧ x.dst = d ∧ x.beats = [A] ∧ x.left + 1 = 2 * (32 / 2 ^ w.toNat)
        ∧ ∀ j < 2 * (32 / 2 ^ w.toNat), ∃ f ∈ t.rs.flights, f.due = s.rs.tick + 64 + j ∧ ∃ v, f.act = .push 6 d v s.rs.pc s.rs.tick

/-! ### Copies -/

/-- R191, R194 to R196, R202, R226, R261, R327, R335, R338, R356, R357: a copy instruction whose handles pass its rules enters a job in its engine with its
handles' images, its counter and its view; CHAIN starts its channel at BASE. Nothing else changes.
(That handle images are captured at issue is the model's reading: log 30.) -/
def Obligations.CopiesEnter : Prop :=
  ∀ (s : State) (c : CSlot) (g : Guard) (hs hd hx : HReg) (n : BitVec 3) (ar : Bool), Turn g s →
    let a := s.hreg hs
    let b := s.hreg hd
    let x := s.hreg hx
    (s.engineFull c = false →
      (s.copyHandle a = true → s.copyHandle b = true → ringOk a = true → ringOk b = true →
        (∀ rcn nsat cons, cpyIllop a b nsat = false → hCount a = hCount b →
          ∃ t, exec (.cpy c g hs hd n ar rcn nsat cons) s = .next t ∧ JobEntered s t (.cpy rcn nsat cons) c a b n)
        ∧ (∀ op, cpyrShape a b op = true → ∃ t, exec (.cpyr c g hs hd n ar op) s = .next t ∧ JobEntered s t (.cpyr op) c a b n)
        ∧ (s.gatherShape a b x = true → ∃ t, exec (.gath c g hs hd n ar hx) s = .next t ∧ JobEntered s t .gath c a b n)
        ∧ (s.gatherShape b a x = true → ∃ t, exec (.scat c g hs hd n ar hx) s = .next t ∧ JobEntered s t .scat c a b n))
      ∧ (handleOk a = true → hKind a ∈ [1, 2] → ringOk a = true → ∀ m : BitVec 8, ∃ t, exec (.bdrv c g hs n m) s = .next t
          ∧ JobEntered s t (.bdrv (m &&& ~~~(BitVec.ofNat 8 (2 ^ s.position.toNat)))) c a 0 n)
      ∧ (handleOk b = true → hKind b ∈ [1, 2] → ringOk b = true → ∀ p : BitVec 3, p ≠ s.position →
          ∃ t, exec (.blat c g hd n p) s = .next t ∧ JobEntered s t (.blat p) c 0 b n)
      ∧ (handleOk a = true → handleOk b = true →
          (weightOk a = true → requestOk a b = true → ∀ wb1 mask,
            ∃ t, exec (.wstr c g hs hd n wb1 mask) s = .next t ∧ JobEntered s t (.wstr wb1 mask) c a b n)
          ∧ (hKind a ∈ [1, 3] → kvcpShape a b = true → ∃ t, exec (.kvcp c g hs hd n ar) s = .next t ∧ JobEntered s t .kvcp c a b n)
          ∧ ∀ keep k, logfHs a (k.toNat + 1) = true → logfHd a b keep (k.toNat + 1) = true →
              ∃ t, exec (.logf c g hs hd n ar keep k) s = .next t ∧ JobEntered s t (.logf keep (k.toNat + 1)) c a b n)
      ∧ ∀ inc : BitVec 8, ∃ t, exec (.cnta c g n inc) s = .next t ∧ JobEntered s t (.cnta (if inc = 0 then 256 else inc.toNat)) c 0 0 n)
    ∧ (s.engineFull c = true → ∀ inc, exec (.cnta c g n inc) s = .next s)
    ∧ ∀ ch : BitVec 3, s.chan[ch.toNat].walking = false → handleOk a = true → hKind a = 3 → (hBase a).toNat % 128 = 0 → ∃ t, exec (.chain c g hs n ch) s = .next t
        ∧ t.chan[ch.toNat].walking = true ∧ t.chan[ch.toNat].next = hBase a ∧ still { t with chan := s.chan } = still s
        ∧ ∀ k : Fin 8, k ≠ ch.toFin → t.chan[k] = s.chan[k]

/-- R71, R72, R295: a guard code's bit 5 inverts, codes 0 to 15 name a bit of gr and 16 to 31 one of sr, code 0 always selects and its inverse never; an instruction that its guard does not select
does nothing, and a NOP of any slot does nothing. -/
def Obligations.GuardsAndNops : Prop :=
  (∀ (s : State) (n : BitVec 4) (inv : Bool),
    let code := fun (q : Bool) => (BitVec.ofBool inv ++ BitVec.ofBool q ++ n : BitVec 6)
    guardOn (code false) s = ((s.sreg 50).getLsbD n.toNat ^^ inv) ∧ guardOn (code true) s = ((s.sreg 51).getLsbD n.toNat ^^ inv)
    ∧ guardOn 0 s = true ∧ guardOn 0x20 s = false)
  ∧ (∀ (i : Instr) (g : Guard) (m : Slot) (s : State), meaningOf i = some (g, m) → guardOn g s = false → exec i s = .next s)
  ∧ ∀ (g : Guard) (s : State), Turn g s → ∀ i ∈ [Instr.nop g, .vnop .v0 g, .vnop .v1 g, .mnop g, .cnop .c0 g, .cnop .c1 g, .xnop g],
      exec i s = .next s


/-! ### Results land -/

/-- R60, R62, R64 to R66, R68, R254, Table 3.3: at its landing tick a scalar result is written to its register alone: s0, tid, tick, ctx and the pop ports discard
it, gr keeps bit 0 set and gr and sr keep 16 bits, a push port with room takes it as its newest entry (traceq discards it where TRACE is not accepted), a full
one keeps the boundary back; a result that is not present keeps the boundary back, one whose data
an uncorrectable error has hit raises MCHK there, a count that waits for the boundary is added there, and with nothing due nothing lands. -/
def Obligations.ResultsLand : Prop :=
  ∀ (s : State), (∀ q ∈ s.rs.reqs, q.lost = none) → (s.mode = .u → s.ctx.later = []) →
    (∀ (f : Flight) (rest : List Flight) (n : SReg) (v : Word), s.rs.flights = f :: rest → f.due ≤ s.rs.tick → (∀ x ∈ rest, s.rs.tick < x.due) →
      f.req = none → f.act = .sreg n v →
      (isPush n = false → ∃ t, exec .resultLanding s = .next t ∧ t.rs.flights = rest
        ∧ (∀ m : SReg, m ≠ n → t.sreg m = s.sreg m)
        ∧ (n ∈ ([0, 52, 53, 54] : List SReg) ∨ isPop n = true → t.sreg n = s.sreg n)
        ∧ (n = 50 → t.sreg n = (v &&& 0xFFFF ||| 1)) ∧ (n = 51 → t.sreg n = v &&& 0xFFFF)
        ∧ (n ∉ ([0, 50, 51, 52, 53, 54] : List SReg) → isPop n = false → t.sreg n = v)
        ∧ t.mem = s.mem ∧ t.rs.h = s.rs.h ∧ t.ctx.csr = s.ctx.csr ∧ t.ctx.spm = s.ctx.spm ∧ t.ctx.acm = s.ctx.acm ∧ t.trap = s.trap
        ∧ t.mode = s.mode ∧ t.ctx.statq = s.ctx.statq ∧ t.ctx.msgout = s.ctx.msgout)
      ∧ (n = 61 → s.ctx.msgout.length < 32 → ∃ t, exec .resultLanding s = .next t ∧ t.rs.flights = rest ∧ t.ctx.msgout = s.ctx.msgout ++ [v]
        ∧ (∀ m, t.sreg m = s.sreg m) ∧ t.mem = s.mem)
      ∧ (n = 62 → s.ctx.hostq.length < 32 → ∃ t, exec .resultLanding s = .next t ∧ t.rs.flights = rest ∧ t.ctx.hostq = s.ctx.hostq ++ [v]
        ∧ (∀ m, t.sreg m = s.sreg m) ∧ t.mem = s.mem)
      ∧ (n = 63 → (s.feature featTRACE = true → s.ctx.traceq.length < 32) → ∃ t, exec .resultLanding s = .next t ∧ t.rs.flights = rest
        ∧ t.ctx.traceq = (if s.feature featTRACE then s.ctx.traceq ++ [v] else s.ctx.traceq) ∧ (∀ m, t.sreg m = s.sreg m) ∧ t.mem = s.mem)
      ∧ (n ∈ ([61, 62, 63] : List SReg) → (n = 63 → s.feature featTRACE = true) → 32 ≤ (s.ctx.pushQueue n).length →
        exec .resultLanding s = .next s))
    ∧ ((∃ f ∈ s.rs.flights, f.due ≤ s.rs.tick ∧ f.req ≠ none) → exec .resultLanding s = .next s)
    ∧ ((∀ f ∈ s.rs.flights, s.rs.tick < f.due) → exec .resultLanding s = .next s)
    ∧ (∀ (f : Flight) (q : Req) (pa : Word), s.mode = .u → s.rs.reqs = [q] → f ∈ s.rs.flights → f.due ≤ s.rs.tick → f.req = some q.id → s.pending = [] →
        let lost : State := { s with ctx := { s.ctx with rs := { s.ctx.rs with reqs := [{ q with lost := some pa }] } } }
        exec .resultLanding lost = .next { lost with pending :=
          [{ cause := .mchk, kind := .boundary, slot := 0, tbaddr := q.bundle, ttick := q.tick, tval := pa }] })
    ∧ ∀ (k : BitVec 3) (inc : BitVec 32), s.mode = .u → (∀ f ∈ s.rs.flights, s.rs.tick < f.due) →
        exec .resultLanding { s with ctx := { s.ctx with later := [.count k inc] } } =
          .next { s with ctx := { s.ctx with ec := s.ctx.ec.set k.toNat (s.ctx.ec[k.toNat] + inc) } }

/-- R60, R66, R67, R280: as a tick ends the tick count of the running register set rises by one, and with nothing due at the new tick, and nothing that
waits for the boundary, no register but tick and the energy counters changes.
(The energy charged is free: log 13.) -/
def Obligations.TickEnds : Prop :=
  ∀ (s : State), (∀ f ∈ s.rs.flights, s.rs.tick + 1 < f.due) → (s.mode = .u → s.ctx.later = []) →
    let t := s.boundary
    t.rs.tick = s.rs.tick + 1 ∧ t.rs.flights = s.rs.flights ∧ t.rs.s = s.rs.s ∧ t.rs.h = s.rs.h ∧ t.mem = s.mem ∧ t.ctx.spm = s.ctx.spm
      ∧ t.ctx.acm = s.ctx.acm ∧ t.mode = s.mode ∧ t.trap = s.trap ∧ t.rs.mid = false
      ∧ (∀ n : SReg, n ≠ 53 → t.sreg n = s.sreg n) ∧ t.ctx.csr = { s.ctx.csr with ecnt := t.ctx.csr.ecnt }

/-! ### Requests at the memory system -/

/-- R109, R107, R114, R119, R254: a translated request holds its physical address; one that fails its checks leaves its trap pending for the boundary, and the
touch of a load to s0 is dropped with a record in statq; data that an uncorrectable error has hit is logged and marked as lost, for the boundary before its landing tick,
and where no register awaits it MCHK is asynchronous.
(The record in the error log is the model's choice, log 26; how data is marked and lost, log 50.) -/
def Obligations.RequestsTranslate : Prop :=
  ∀ (s : State) (q : Req), s.mode = .u → s.live = true → s.ctx.rs.reqs = [q] → s.sup.reqs = [] → q.pa = none → q.kind ≠ .grab → s.faulted q = false →
    q.mode = .u → q.lost = none → q.away = false →
    (∀ p, s.resolve q = .ok p → ∃ t, exec (.translationComplete q.id) s = .next t ∧ t.ctx.rs.reqs = [{ q with pa := some p }] ∧ t.mem = s.mem
        ∧ t.ctx.rs.s = s.ctx.rs.s ∧ t.ctx.rs.h = s.ctx.rs.h ∧ t.pending = s.pending ∧ t.ctx.csr = s.ctx.csr ∧ t.ctx.spm = s.ctx.spm)
    ∧ (∀ f, s.resolve q = .error f → f.1 ≠ .mchk →
        (q.kind ≠ .touch → exec (.translationComplete q.id) s =
          .next { s with pending := s.pending ++ [{ cause := f.1, kind := .boundary, slot := 0, tbaddr := q.bundle, ttick := q.tick, tval := f.2.getD q.va }] })
        ∧ (q.kind = .touch → ∃ t, exec (.translationComplete q.id) s = .next t ∧ t.ctx.rs.reqs = [] ∧ t.pending = s.pending ∧ t.mem = s.mem
          ∧ (s.ctx.statq = [] → t.ctx.statq = [0x100000001, BitVec.ofNat 16 s.ctx.rs.tick ++ q.bundle.extractLsb' 0 48])))
    ∧ (∀ pa, s.resolve q = .error (.mchk, some pa) → s.kvAny = false →
        ((∃ sx, q.kind = .load sx) → s.rs.mid = true →
          ∃ t, exec (.translationComplete q.id) s = .next t ∧ t.ctx.rs.reqs = [{ q with lost := some pa, reply := some (q.reply.getD 0) }]
            ∧ t.errorLog = s.errorLog ++ [(0x20, pa)] ∧ t.pending = s.pending ∧ t.mem = s.mem)
        ∧ ((∃ v, q.kind = .store v ∨ q.kind = .storeFe v ∨ ∃ op, q.kind = .red op v) →
          ∃ t, exec (.translationComplete q.id) s = .next t ∧ t.ctx.rs.reqs = [] ∧ t.errorLog = s.errorLog ++ [(0x20, pa)] ∧ t.mem = s.mem
            ∧ t.pending = s.pending ++ [{ cause := .mchk, kind := .asynchronous, slot := 7, tval := pa }]))

/-- R120, R128, R132, R134, R135, R137, R138, R4, Table 6.6: at its acceptance a store writes its bytes, and an atomic, a reduction and a successful CAS the result
of their operation, at exactly their physical addresses, and every other byte of memory keeps its value; a load, an atomic and a CAS reply with the old bytes,
sign- or zero-extended. (HBM without a KV window in use, a page that is not versioned.) -/
def Obligations.RequestsArePerformed : Prop :=
  ∀ (s : State) (q : Req) (p : Pa), Safety.memOk s = true → s.mode = .u → s.live = true → s.ctx.rs.reqs = [q] → s.sup.reqs = [] → s.comb = [] → q.reply = none →
    q.last = 0 → q.pa = some p → s.faulted q = false → q.away = false → p.v = false → p.pa.toNat < 0x8000000000 → s.kvAny = false →
    let a := p.pa.toNat
    let n := q.bytes
    let old := natOf (Memory.read s.mem a n)
    let writes := fun (t : State) (v : Nat) => ∀ x, Memory.get t.mem x = if a ≤ x ∧ x < a + n then BitVec.ofNat 8 (v / 256 ^ (x - a)) else Memory.get s.mem x
    let keeps := fun (t : State) => t.ctx.rs.s = s.ctx.rs.s ∧ t.ctx.rs.h = s.ctx.rs.h ∧ t.ctx.csr = s.ctx.csr ∧ t.ctx.spm = s.ctx.spm ∧ t.ctx.acm = s.ctx.acm
      ∧ t.trap = s.trap ∧ t.pending = s.pending ∧ t.mode = s.mode
      ∧ t.ctx.rs.flights = s.ctx.rs.flights.filter (fun f => !t.ctx.rs.reqs.isEmpty || f.req != some q.id)
    let results := fun (op : AtomOp) (v : Word) => if op = .swap then some v.toNat else if op = .add then some ((old + v.toNat) % 256 ^ n)
      else if op = .and then some (old &&& v.toNat) else if op = .or then some (old ||| v.toNat) else if op = .xor then some (old ^^^ v.toNat)
      else if op = .minu then some (min old v.toNat) else if op = .maxu then some (max old v.toNat)
      else if op = .min then some (if (BitVec.ofNat (8 * n) old).toInt ≤ (BitVec.ofNat (8 * n) v.toNat).toInt then old else v.toNat)
      else if op = .max then some (if (BitVec.ofNat (8 * n) old).toInt ≤ (BitVec.ofNat (8 * n) v.toNat).toInt then v.toNat else old)
      else if n = 4 then some (fpAdd fmtF32 false .rne old v.toNat).1 else none
    (∀ v, q.kind = .store v → ∃ t, exec (.requestAccepted (.own q.id)) s = .next t ∧ keeps t ∧ t.ctx.rs.reqs = [] ∧ writes t v.toNat)
    ∧ (∀ sx, q.kind = .load sx → p.rca = false → s.counted = [] → (∀ w ∈ s.l1, w.addr.toNat ≠ a / 8 * 8) →
        ∃ t, exec (.requestAccepted (.own q.id)) s = .next t ∧ keeps t ∧ t.mem = s.mem ∧ t.ctx.rs.reqs = [{ q with reply := some (loadValue sx n old) }])
    ∧ (∀ sx w, q.kind = .load sx → p.rca = false → q.ord = .rlx → s.l1.find? (·.addr.toNat == a / 8 * 8) = some w →
        ∃ t, exec (.requestAccepted (.own q.id)) s = .next t ∧ keeps t ∧ t.mem = s.mem
          ∧ t.ctx.rs.reqs = [{ q with reply := some (loadValue sx n (w.value.toNat / 256 ^ (a % 8) % 256 ^ n)) }])
    ∧ (∀ (op : AtomOp) (v : Word) (new : Nat), n ∈ [4, 8] → v.toNat < 256 ^ n → results op v = some new →
        (q.kind = .atomic op v → ∃ t, exec (.requestAccepted (.own q.id)) s = .next t ∧ keeps t ∧ writes t new
          ∧ t.ctx.rs.reqs = [{ q with reply := some (BitVec.ofNat 64 old) }])
        ∧ (q.kind = .red op v → ∃ t, exec (.requestAccepted (.own q.id)) s = .next t ∧ keeps t ∧ writes t new ∧ t.ctx.rs.reqs = []))
    ∧ (∀ (e v : Word) (fa : Bool), q.kind = .cas e v fa → old ≠ e.toNat % 256 ^ n → s.counted = [] →
        ∃ t, exec (.requestAccepted (.own q.id)) s = .next t ∧ keeps t ∧ t.mem = s.mem ∧ t.ctx.rs.reqs = [{ q with reply := some (BitVec.ofNat 64 old) }])
    ∧ ∀ (e v : Word) (fa : Bool) (l : Leaf), q.kind = .cas e v fa → n ∈ [4, 8] → old = e.toNat % 256 ^ n → s.leafIn q.atp q.va.toNat = some l →
        l.flags.getLsbD 3 = true → ∃ t, exec (.requestAccepted (.own q.id)) s = .next t ∧ keeps t ∧ writes t (v.toNat % 256 ^ n)
          ∧ t.ctx.rs.reqs = [{ q with reply := some (BitVec.ofNat 64 old) }]

/-- R63, R64, R65: data that arrives fills the results that await it and its request is done; it lands at the landing tick, not before. -/
def Obligations.DataArrives : Prop :=
  ∀ (s : State) (q : Req) (f : Flight) (n : SReg) (v w : Word), s.mode = .u → s.live = true → s.ctx.rs.reqs = [q] → s.sup.reqs = [] → q.reply = some v →
    q.lost = none → q.away = false → s.ctx.later = [] → s.ctx.rs.flights = [f] → f.req = some q.id → f.act = .sreg n w → s.ctx.rs.tick < f.due →
    ∃ t, exec (.dataArrival q.id) s = .next t ∧ t.ctx.rs.reqs = [] ∧ t.ctx.rs.flights = [{ f with req := none, act := .sreg n v }]
      ∧ t.ctx.rs.s = s.ctx.rs.s ∧ t.mem = s.mem ∧ t.ctx.rs.h = s.ctx.rs.h ∧ t.ctx.csr = s.ctx.csr

/-- R74, R120, R122, R124, R75, R76, R117, R50, R103, R204, R208, R70, R149: what the caches, the mailboxes, the generator, the message network, the host's
drains and the landings of the write-only CSRs do. -/
def Obligations.CachesMailboxesAndQueues : Prop :=
  ∀ (s : State),
    (∀ pa : BitVec 40, (∀ l ∈ s.icache, l.pa.toNat ≠ pa.toNat / 32 * 32) →
        let new : ICacheLine := ⟨BitVec.ofNat 40 (pa.toNat / 32 * 32), BitVec.ofNat 256 (s.numPa (pa.toNat / 32 * 32) 32)⟩
        let lost := s.lostAt (pa.toNat / 32 * 32) 32
        (lost = true → exec (.bundleFetched pa) s = .next s)
        ∧ (lost = false → s.icache.length < 4096 → exec (.bundleFetched pa) s = .next { s with icache := new :: s.icache })
        ∧ (lost = false → s.icache.length = 4096 → ∃ t k, exec (.bundleFetched pa) s = .next t ∧ k < 4096 ∧ t.icache = new :: s.icache.eraseIdx k
          ∧ { t with icache := s.icache, draws := s.draws } = s))
    ∧ (∀ pa : BitVec 40, exec (.ownedWordEviction pa) s = .next { s with l1 := s.l1.filter fun w => !(w.owned && w.addr.toNat == pa.toNat) })
    ∧ (∀ line : BitVec 40, exec (.sliceEvict line) s =
        .next { s with counted := s.counted.filter fun c => c.line.toNat != line.toNat / 128 * 128 })
    ∧ (s.live = true → s.mode = .u → s.wctx = s.ctx.id → ∀ (k : BitVec 3) (m : BitVec 8) (v : Word), exec (.mailboxWrite k m v) s =
        .next { s with ctx := { s.ctx with later := s.ctx.later ++ [.mailbox k m v] } })
    ∧ (s.mode = .u → (∀ f ∈ s.ctx.rs.flights, s.ctx.rs.tick < f.due) → ∀ (k : BitVec 3) (m : BitVec 8) (v : Word), s.ctx.later = [.mailbox k m v] →
      ∃ t, exec .resultLanding s = .next t ∧ t.ctx.later = [] ∧ t.ctx.csr = { s.ctx.csr with mbxf := s.ctx.csr.mbxf ||| BitVec.ofNat 8 (2 ^ k.toNat) } ∧ t.mem = s.mem
        ∧ (∀ n : SReg, n.toNat ≠ 40 + k.toNat → t.ctx.rs.get t.ctx n = s.ctx.rs.get s.ctx n)
        ∧ ∀ i < 64, (t.ctx.rs.get t.ctx (BitVec.ofNat 6 (40 + k.toNat))).getLsbD i =
            if m.getLsbD (i / 8) then v.getLsbD i else (s.ctx.rs.get s.ctx (BitVec.ofNat 6 (40 + k.toNat))).getLsbD i)
    ∧ (∀ (first : BitVec 18) (count : BitVec 20), first.toNat + count.toNat ≤ s.ctx.spmBanks * 8192 → ∃ t u, exec (.feopClear first count) s = .next t
        ∧ exec (.feopSet first count) s = .next u ∧ (∀ x, x ∈ t.ctx.full ↔ x ∈ s.ctx.full ∧ ¬(first.toNat ≤ x ∧ x < first.toNat + count.toNat))
        ∧ (∀ x, x ∈ u.ctx.full ↔ x ∈ s.ctx.full ∨ first.toNat ≤ x ∧ x < first.toNat + count.toNat)
        ∧ { t with ctx := { t.ctx with full := s.ctx.full } } = s ∧ { u with ctx := { u.ctx with full := s.ctx.full } } = s)
    ∧ (∀ v : BitVec 32, ∃ t, exec (.rglenWrite v) s = .next t ∧ t.ranges[s.rgsel.toNat] =
        { next := s.rgbase, rem := v, chunk := (if s.rgcfg.setWidth 16 = 0 then 1 else s.rgcfg.setWidth 16),
          p := (if s.rgcfg.extractLsb' 16 8 = 0 then 1 else s.rgcfg.extractLsb' 16 8),
          k := (if s.rgcfg.extractLsb' 24 4 = 0 then 1 else s.rgcfg.extractLsb' 24 4), owner := s.ctx.csr.dmr.extractLsb' 32 8 }
        ∧ ∀ i : Fin 64, i.val ≠ s.rgsel.toNat → t.ranges[i] = s.ranges[i])
    ∧ (∀ v : Word, s.live = true → s.trap.ctxsel.setWidth 16 = s.ctx.id → ∃ t, exec (.ctxdatWrite v) s = .next t
        ∧ t.ctx.rs = s.ctx.rs.set (s.trap.ctxsel.extractLsb' 16 6) v ∧ t.mem = s.mem ∧ t.sup = s.sup ∧ t.trap = s.trap ∧ t.ctx.csr = s.ctx.csr)
    ∧ (s.live = true → s.ctx.rngq.length < 32 → ∃ t, exec .rngRefill s = .next t ∧ t.ctx.rngCtr = s.ctx.rngCtr + 1
        ∧ t.ctx.rngq = s.ctx.rngq ++ [mix32 (mix32 s.ctx.rngKey ^^^ s.ctx.rngCtr)] ∧ t.ctx.rs = s.ctx.rs)
    ∧ (∀ (src' : BitVec 3) (p : BitVec 61), s.live = true → s.wctx = s.ctx.id → s.ctx.msgin.length < 32 → exec (.messageDelivery false src' p) s =
        .next { s with ctx := { s.ctx with msgin := s.ctx.msgin ++ [(src' ++ p : BitVec 64)] } })
    ∧ (∀ (src' : BitVec 3) (p : BitVec 61), s.live = true → s.wctx = s.ctx.id → 32 ≤ s.ctx.msgin.length → s.takeable (.messageDelivery false src' p) = false)
    ∧ (∀ w ws, s.ctx.msgout = w :: ws → w.extractLsb' 61 3 ≠ s.coreNum.setWidth 3 → exec (.messageDelivery true 0 0) s =
        .next { s with ctx := { s.ctx with msgout := ws } })
    ∧ (∀ w ws, s.ctx.hostq = w :: ws → exec (.hostqTraceqDrain false) s = .next { s with ctx := { s.ctx with hostq := ws } })
    ∧ (∀ w ws, s.ctx.traceq = w :: ws → exec (.hostqTraceqDrain true) s = .next { s with ctx := { s.ctx with traceq := ws } })

/-- R41 to R43: an arrival is counted once its release is performed, and as the last one comes the phase completes with the arrivals made ahead.
(That arrivals of others are steps of their own is the model's form: log 42.) -/
def Obligations.DomainArrivals : Prop :=
  ∀ (s : State) (l : BitVec 3), s.live = true → l ∈ [0, 1, 2, 3] → let d := s.ctx.dom l
    d.broken = false → d.exp ≠ 0 → d.own = 1 → d.pendingLeave = 0 → d.ahead = 0 → d.held.length = 1 →
    (∀ q ∈ s.ctx.rs.reqs ++ s.sup.reqs, q.reply ≠ none) → s.comb = [] →
    (d.arrived + 1 < d.exp.toNat → ∃ t, exec (.domainArrival l .own) s = .next t ∧ t.ctx.dom l = { d with arrived := d.arrived + 1, held := [] }
      ∧ { t with ctx := { t.ctx with doms := s.ctx.doms } } = s)
    ∧ (d.arrived + 1 = d.exp.toNat → ∃ t, exec (.domainArrival l .own) s = .next t
      ∧ t.ctx.dom l = { d with phc := d.phc + 1, arrived := 0, own := 0, held := [], near := d.nearAhead, nearAhead := 0 } ∧ { t with ctx := { t.ctx with doms := s.ctx.doms } } = s)
    ∧ (d.arrived + 1 < d.exp.toNat → ∃ t, exec (.domainArrival l .package) s = .next t ∧ t.ctx.dom l = { d with arrived := d.arrived + 1, near := d.near + 1 }
      ∧ { t with ctx := { t.ctx with doms := s.ctx.doms } } = s)

/-! ### Traps -/

/-- R245, R246: at a boundary of U mode the pending cause that comes first is taken: S mode at TVEC, the record of its kind, the address of the first bundle
not issued in TEPC, the trap no longer pending; the context's registers, control registers, memories and queues are kept. Of several, MCHK goes first, then
the boundary causes in the order of their issue ticks, then COPYFAULT, then BUSMISS; nothing pending goes before the one taken. -/
def Obligations.PendingTrapsAreTaken : Prop :=
  (∀ (s : State) (x : Trap), s.live = true → s.mode = .u → s.trap.skipBreak = false → s.ctx.rs.wait = .none → s.pending = [x] → x.tepc = none →
    (x.cause = .probehalt → ∀ f ∈ s.ctx.rs.flights, s.ctx.rs.tick < f.due) → ∃ t, exec .trapEntry s = .next t ∧ t.mode = .s ∧ t.sup.pc = s.trap.tvec.setWidth 64 ∧ t.sup.s = s.sup.s ∧ t.sup.h = s.sup.h ∧ t.sup.tick = s.sup.tick
      ∧ t.trap.tepc = s.ctx.rs.pc.setWidth 48 ∧ t.trap.tval = x.tval ∧ t.trap.busy = true ∧ t.trap.tcause = tcauseOf x
      ∧ (x.kind = .boundary → t.trap.tbaddr = x.tbaddr.setWidth 48 ∧ t.trap.ttick = BitVec.ofNat 64 x.ttick)
      ∧ t.trap.tvec = s.trap.tvec ∧ t.trap.tscr = s.trap.tscr ∧ t.trap.bkaddr = s.trap.bkaddr ∧ t.trap.bken = s.trap.bken
      ∧ t.pending = [] ∧ t.ctx.rs.s = s.ctx.rs.s ∧ t.ctx.rs.h = s.ctx.rs.h ∧ t.ctx.rs.tick = s.ctx.rs.tick ∧ t.ctx.csr = s.ctx.csr ∧ t.mem = s.mem
      ∧ t.ctx.spm = s.ctx.spm ∧ t.ctx.acm = s.ctx.acm ∧ t.ctx.ports = s.ctx.ports ∧ t.ctx.statq = s.ctx.statq ∧ t.ctx.rngq = s.ctx.rngq)
  ∧ ∀ (ts : List Trap) (t : Trap), firstTrap ts = some t → t ∈ ts ∧ ∀ u ∈ ts, trapBefore u t = false
    ∧ (u.cause = .mchk → t.cause = .mchk) ∧ (u.kind = .boundary → t.cause ≠ .mchk → u.cause = .mchk ∨ t.kind = .boundary ∧ t.ttick ≤ u.ttick)
    ∧ (u.cause = .copyfault → t.kind ≠ .boundary → t.cause ≠ .busmiss)

/-! ### Operating points and energy -/

/-- R265 to R269: a request is judged at its bundle: above the ceiling it is granted the ceiling, or the floor where that is higher, with a notice in statq; below the
floor it is refused with one; a granted change opens a window of 400 ticks and 300 more for each point up, or of 64 down; a request inside a window traps with
OPPSETTLE; under AUTO a request changes nothing.
A change of the limits leaves the core at or settling to no point above its limit: the ceiling, or the floor where that is above it (R276). -/
def Obligations.OperatingPointRequests : Prop :=
  (∀ (s : State) (p : BitVec 3),
    let window := fun (g : BitVec 3) => ({ s.power with granted := g, tgt := g, settling := true, fresh := some s.tickName, rem := if s.power.point < g then 400 + 300 * (g.toNat - s.power.point.toNat) else 64 } : Power)
    (s.power.settling = true → exec (.oppRequest p) s = .next (s.raise { cause := .oppsettle, slot := 7, tval := BitVec.ofNat 64 s.power.rem }))
    ∧ (s.power.settling = false → s.ctx.csr.oppctl.getLsbD 0 = true → exec (.oppRequest p) s = .next s)
    ∧ (s.power.settling = false → s.ctx.csr.oppctl.getLsbD 0 = false →
      (p = s.power.point → exec (.oppRequest p) s = .next s)
      ∧ (p ≠ s.power.point → s.power.floor ≤ p → p ≤ s.ceiling → exec (.oppRequest p) s = .next { s with power := window p })
      ∧ (p ≠ s.power.point → s.power.floor ≤ p → s.limit < p → ∃ t, exec (.oppRequest p) s = .next t
          ∧ t.power = (if s.limit = s.power.point then { s.power with granted := s.limit } else window s.limit) ∧ t.mem = s.mem ∧ still { t with ctx := s.ctx, power := s.power, stdrop := s.stdrop } = still s
          ∧ (s.ctx.statq = [] → t.ctx.statq = [(1#32 ++ p.setWidth 8 ++ 5#8 ++ 0x0031#16 : Word), BitVec.ofNat 16 s.ctx.rs.tick ++ s.rs.pc.extractLsb' 0 48]))
      ∧ (p ≠ s.power.point → p < s.power.floor → ∃ t, exec (.oppRequest p) s = .next t ∧ t.power = s.power ∧ t.mem = s.mem
          ∧ (s.ctx.statq = [] → t.ctx.statq = [(1#32 ++ p.setWidth 8 ++ 5#8 ++ 0x0002#16 : Word), BitVec.ofNat 16 s.ctx.rs.tick ++ s.rs.pc.extractLsb' 0 48]))))
  ∧ ∀ (s : State), s.applyCeiling.power.point ≤ s.limit ∧ s.applyCeiling.power.reach ≤ s.limit ∧ s.applyCeiling.limit = s.limit
    ∧ (s.power.reach ≤ s.limit → s.applyCeiling = s) ∧ { s.applyCeiling with power := s.power } = s

/-- R265, R267, R269, R271, R273, R275 to R281: what the power controller, the firmware and the peers do to the core's point, stage, tokens and notices; the two
conditions of AUTO each need two windows in a row; the completion of a level-5 phase gives the group the least point carried.
(Model's readings: logs 13 and 23.) -/
def Obligations.PowerController : Prop :=
  ∀ (s : State),
    let pw : Power → State := fun p => { s with power := p }
    (s.settlingHold = true → s.power.droop = false → exec .settlingWindowEnd s = .next (pw { s.power with point := s.power.tgt }))
    ∧ (∀ tot hel spl : BitVec 15, s.live = false → exec (.stallrRefresh tot hel spl) s =
        .next (pw { s.power with total := tot, heldClk := hel, split := spl, lowRuns := 0, highRuns := 0 }))
    ∧ (∀ tot hel spl : BitVec 15, s.live = true → s.ctx.csr.oppctl.getLsbD 0 = true →
        let adn := (s.ctx.csr.oppctl.extractLsb' 8 8).toNat
        let aup := (s.ctx.csr.oppctl.extractLsb' 16 8).toNat
        let heavy := adn ≠ 0 ∧ adn * tot.toNat ≤ 256 * hel.toNat
        let light := aup ≠ 0 ∧ 256 * hel.toNat ≤ aup * tot.toNat
        let got : Nat → Nat → State := fun lo hi => pw { s.power with total := tot, heldClk := hel, split := spl, lowRuns := lo, highRuns := hi }
        (¬heavy → ¬light → exec (.stallrRefresh tot hel spl) s = .next (got 0 0))
        ∧ (heavy → ¬light → (s.power.lowRuns = 0 → exec (.stallrRefresh tot hel spl) s = .next (got 1 0))
          ∧ (1 ≤ s.power.lowRuns → s.power.floor < s.power.point → ∃ t, exec (.stallrRefresh tot hel spl) s = .next t
            ∧ t.power.point = s.power.point - 1 ∧ t.power.settling = false ∧ { t with power := s.power } = s))
        ∧ (light → ¬heavy → (s.power.highRuns = 0 → exec (.stallrRefresh tot hel spl) s = .next (got 0 1))
          ∧ (1 ≤ s.power.highRuns → s.power.point < s.ceiling → ∃ t, exec (.stallrRefresh tot hel spl) s = .next t
            ∧ t.power.point = s.power.point + 1 ∧ t.power.settling = false ∧ { t with power := s.power } = s)))
    ∧ (let d := s.ctx.dom 5
       s.live = true → d.own = 1 → d.held.length = 1 → d.ahead = 0 → d.pendingLeave = 0 → d.broken = false → d.exp ≠ 0 → d.arrived + 1 = d.exp.toNat →
       (∀ q ∈ s.ctx.rs.reqs ++ s.sup.reqs, q.reply ≠ none) → s.comb = [] →
         ∃ t, exec (.domainArrival 5 .own) s = .next t ∧ t.ctx.gopp = min3 s.ctx.carried s.tokenPoint ∧ t.ctx.carried = s.ctx.carriedNext
           ∧ t.ctx.carriedNext = 7 ∧ t.power.reach ≤ t.limit
           ∧ { t with power := s.power, ctx := { t.ctx with doms := s.ctx.doms, gopp := s.ctx.gopp, carried := s.ctx.carried, carriedNext := s.ctx.carriedNext } } = s)
    ∧ (∀ st : BitVec 2, s.power.stage < st ∨ st.toNat + 1 = s.power.stage.toNat → exec (.splitStageChange st) s = .next (pw { s.power with stage := st }))
    ∧ exec .droopStretch s = .next (pw { s.power with droop := true }) ∧ exec .droopClear s = .next (pw { s.power with droop := false })
    ∧ (∀ (src' : Nat) (p : BitVec 3), s.power.notices = [] → s.power.floor ≤ p → p ≤ s.ceiling → p ≤ s.power.point →
        ∃ t, exec (.thermalNotice src' p) s = .next t ∧ t.power.point = p ∧ t.power.notices = [(src', p)] ∧ t.power.earlier = some (s.power.earlier.getD s.power.point)
          ∧ (s.power.settling = true → p < s.power.tgt → t.power.settling = false) ∧ t.mem = s.mem ∧ t.ctx.rs = s.ctx.rs)
    ∧ (∀ (src' : Nat) (p was : BitVec 3), s.power.notices = [(src', p)] → s.power.earlier = some was → was ≤ (pw { s.power with notices := [] }).limit →
        s.power.floor ≤ was → exec (.thermalRelease src') s =
          .next (pw { s.power with notices := [], earlier := none, point := was, settling := false, rem := 0, fresh := none,
                                   slowdown := s.power.slowdown && src' != s.coreNum.toNat / 32 }))
    ∧ (∀ p : BitVec 3, s.power.point < p →
        (p ≤ s.ceiling ∨ s.power.slowdown = true → ∃ t, exec (.oppflrWrite p) s = .next t ∧ t.power.floor = p ∧ t.power.point = p ∧ { t with power := s.power } = s)
        ∧ (s.ceiling < p → s.power.floor < p → s.power.slowdown = false → ∃ t k, exec (.oppflrWrite p) s = .next t ∧ t.power.floor = p ∧ t.power.slowdown = true
          ∧ (s.coreNum.toNat / 32, k) ∈ t.power.notices ∧ t.mem = s.mem ∧ t.ctx.rs = s.ctx.rs))
    ∧ (∀ p : BitVec 3, p ≤ s.power.floor → p ≤ s.power.point → s.power.settling = false →
        exec (.oppflrWrite p) s = .next (pw { s.power with floor := p }).applyCeiling)
    ∧ (∀ k : BitVec 32, k ≤ s.power.held → (exec (.lend k true) s = .next (pw { s.power with held := s.power.held - k }).applyCeiling)
        ∧ exec (.recall k) s = .next (pw { s.power with held := s.power.held - k }).applyCeiling)
    ∧ (∀ k : BitVec 32, s.power.held < k → exec (.lend k true) s = .next s ∧ exec (.recall k) s = .next s)
    ∧ (∀ k : BitVec 32, s.power.held.toNat + k.toNat ≤ s.power.group.toNat →
        exec (.lend k false) s = .next (pw { s.power with held := s.power.held + k }))
    ∧ (∀ h gr : BitVec 32, h ≤ gr → exec (.tokenReconcile h gr) s = .next (pw { s.power with held := h, group := gr }).applyCeiling)
    ∧ (∀ sensor : Nat, s.live = true → s.parked = [] → 0 < s.ctx.estimate → s.ctx.debit = 0 → s.ctx.estimate ≤ sensor →
        exec (.energyReconcile ⟨sensor, []⟩) s =
          .next { s with ctx := { s.ctx with estimate := 0, csr := { s.ctx.csr with ecnt := s.ctx.csr.ecnt + BitVec.ofNat 64 (sensor - s.ctx.estimate) } } })
    ∧ (∀ sensor : Nat, s.live = true → s.parked = [] → 0 < s.ctx.estimate → sensor < s.ctx.estimate →
        exec (.energyReconcile ⟨sensor, []⟩) s = .next { s with ctx := { s.ctx with estimate := 0, debit := s.ctx.debit + (s.ctx.estimate - sensor) } })
    ∧ (∀ sensor other : Nat, let e := s.ctx.estimate
        s.live = true → s.parked = [] → 0 < e + other → s.ctx.debit = 0 → e + other ≤ sensor →
        let diff := sensor - (e + other)
        let mine := if other ≤ e then diff - diff * other / (e + other) else diff * e / (e + other)
        exec (.energyReconcile ⟨sensor, [other]⟩) s =
          .next { s with ctx := { s.ctx with estimate := 0, csr := { s.ctx.csr with ecnt := s.ctx.csr.ecnt + BitVec.ofNat 64 mine } } })

/-! ### Host, firmware and peers -/

/-- R282, R283, R286, R290, R291, R294, R284: bring-up: RESET to BOOT to READY to ARMED, RECOVERY with BOOTERR; ARM commits FACC masked with FEAT, the split and
the pool, or refuses values out of range with BOOTERR 0x10; the interrupt registers, attestation, the recovery image and the FREEZE input.
(The model's readings: what a module reset keeps and FACC after a refused ARM, logs 18 and 19; the order of the boot codes and the layout of the report, log 15;
the error record of a failed boot, log 26; host writes accepted while FROZEN, log 24; the control word of MSI-X, log 17.) -/
def Obligations.BringUpAndHost : Prop :=
  ∀ (s : State),
    let hst : HostIf → State := fun h => { s with host := h }
    (s.host.devst = 0 → ∃ t, exec .powerOn s = .next t ∧ t.host.devst = 1 ∧ t.mem = s.mem ∧ t.host.version = s.host.version)
    ∧ (s.host.devst = 1 → ∀ (images : List (Option DieImage)) (ports : List (BitVec 4)),
        let code : Nat → BitVec 8 := fun d => match images.getD d none with
          | none => 4
          | some i => if i.signed = false then 1 else if i.keyHash ≠ s.host.keyHash then 2 else if i.version < s.host.version then 3 else 0
        ((∀ d < 8, code d = 0) → ∃ t, exec (.diesReady images ports) s = .next t ∧ t.host.devst = 2 ∧ s.host.version ≤ t.host.version ∧ t.mem = s.mem
          ∧ (t.host.version ≠ s.host.version → ∃ i, some i ∈ images ∧ i.raises = true ∧ t.host.version = i.version ∧ t.host.raised = true)
          ∧ ∀ d : Fin 8, ∀ i, images.getD d none = some i → t.host.digests[d] = i.digest)
        ∧ ∀ d < 8, code d ≠ 0 → (∀ e < d, code e = 0) → ∃ t, exec (.diesReady images ports) s = .next t ∧ t.host.devst = 4
          ∧ t.host.booterr.extractLsb' 0 8 = code d ∧ t.host.booterr.extractLsb' 16 48 = 0
          ∧ (∀ e < 8, t.host.booterr.getLsbD (8 + e) = decide (code e ≠ 0))
          ∧ t.errorLog = s.errorLog ++ [(code d, t.host.booterr)] ∧ t.mem = s.mem)
    ∧ (∃ t, exec .moduleReset s = .next t ∧ t.host.devst = 0 ∧ t.live = false ∧ t.mem = [] ∧ t.host.facc = 0 ∧ t.host.version = s.host.version ∧ t.host.keyHash = s.host.keyHash
        ∧ t.kernels = [] ∧ t.jobs = [])
    ∧ (∀ v : Word, s.host.devst = 2 → v.getLsbD 0 = true →
        (s.host.stg.toNat ≤ 10 → s.host.vpool.toNat ≤ 32 → ∃ t, exec (.arm v) s = .next t ∧ t.host.devst = 3
          ∧ t.host.accepted = s.host.facc &&& s.host.feat ∧ t.host.facc = s.host.facc &&& s.host.feat ∧ t.host.pool = s.host.vpool
          ∧ t.host.staging = s.host.stg ∧ t.host.package = s.host.pkgno ∧ t.mem = s.mem)
        ∧ (10 < s.host.stg.toNat ∨ 32 < s.host.vpool.toNat → ∃ t, exec (.arm v) s = .next t ∧ t.host.devst = 2 ∧ t.host.booterr = 0x10
          ∧ t.host.accepted = s.host.accepted ∧ t.mem = s.mem))
    ∧ (∀ v : Word, s.host.devst ≠ 2 → exec (.arm v) s = .next s)
    ∧ (∀ v : Word, s.host.devst ≠ 4 → exec (.intstClear v) s = .next (hst { s.host with intst := s.host.intst &&& ~~~(v.setWidth 5) }))
    ∧ (∀ v : Word, s.host.devst ≠ 4 → exec (.hostRegWrite (.bar0 0x0008) v) s = .next (hst { s.host with apbase := v.extractLsb' 36 4 })
        ∧ (v.getLsbD 15 = false → exec (.hostRegWrite .msixControl v) s = .next (hst { s.host with msixOn := false, msixMask := v.getLsbD 14 }))
        ∧ exec (.hostRegWrite (.bar0 0x0080) v) s = .next (hst { s.host with inten := v.setWidth 5 })
        ∧ (s.host.devst = 2 → exec (.hostRegWrite (.bar0 0x0060) v) s =
            .next (hst { s.host with pkgno := v.extractLsb' 12 12, vpool := v.extractLsb' 4 6, stg := v.setWidth 4 }))
        ∧ (s.host.devst ≠ 2 → exec (.hostRegWrite (.bar0 0x0060) v) s = .next s ∧ exec (.hostRegWrite (.bar0 0x0040) v) s = .next s))
    ∧ (s.host.devst = 4 → (∀ v, exec (.intstClear v) s = .next s) ∧ (∀ o v, exec (.hostRegWrite o v) s = .next s) ∧ (∀ n, exec (.attestRequest n) s = .next s)
        ∧ ∀ wr off size v, exec (.bar2Access wr off size v) s = .next s)
    ∧ (∀ n : BitVec 256, s.host.devst ≠ 4 → exec (.attestRequest n) s = .next (hst { s.host with nonce := n, attestReq := true, attestDone := false }))
    ∧ (s.host.attestReq = true → ∃ t, exec .attestReport s = .next t ∧ t.host.attestReq = false ∧ t.host.attestDone = true
        ∧ t.host.report.take 32 = bytesOf 32 s.host.nonce.toNat ∧ t.host.intst.getLsbD 2 = true ∧ t.mem = s.mem)
    ∧ (∀ (o : BitVec 13) (v : Word), (s.host.devst = 4 → exec (.recoveryImageWrite o v) s =
          .next (hst { s.host with recovery := Memory.setNum s.host.recovery o.toNat 8 v.toNat }))
        ∧ (s.host.devst ≠ 4 → exec (.recoveryImageWrite o v) s = .next s))
    ∧ (s.host.frozen = false → ∃ t, exec .freezeAssert s = .next t ∧ t.host.frozen = true ∧ t.host.devst = 5 ∧ t.host.thawed = s.host.devst
        ∧ { t with host := s.host } = s)
    ∧ (s.host.frozen = true → ∃ t, exec .freezeRelease s = .next t ∧ t.host.frozen = false ∧ t.host.devst = s.host.thawed ∧ { t with host := s.host } = s)

/-- R285, R288, R289, R110, R243, R254, R293, R256 to R258: the host's window, the peer ports, the management port, errors and the scrubber.
(Model's readings: logs 20, 21, 25 and 26; lost lines, the scrubber's records and the code of a corrected error, log 50; the refusal of the addresses that the
taps hold and PTBASE, log 28.) -/
def Obligations.WindowPortsAndErrors : Prop :=
  ∀ (s : State), Safety.memOk s = true →
    (∀ (off : BitVec 36) (size : Size) (v : Word), off.toNat % sizeBytes size = 0 → s.host.apbase.toNat * 2 ^ 36 + off.toNat < 0x8000000000 →
        s.host.devst ≠ 4 → s.kvAny = false → s.fwHeld (s.host.apbase.toNat * 2 ^ 36 + off.toNat) (sizeBytes size) = false →
        (∃ t, exec (.bar2Access true off size v) s = .next t ∧ (∀ x, Memory.get t.mem x =
            if s.host.apbase.toNat * 2 ^ 36 + off.toNat ≤ x ∧ x < s.host.apbase.toNat * 2 ^ 36 + off.toNat + sizeBytes size
            then BitVec.ofNat 8 (v.toNat / 256 ^ (x - (s.host.apbase.toNat * 2 ^ 36 + off.toNat))) else Memory.get s.mem x)
          ∧ t.ctx = s.ctx ∧ t.host = s.host)
        ∧ (s.counted = [] → s.poison = [] → exec (.bar2Access false off size v) s = .next s))
    ∧ (∀ (wr : Bool) (off : BitVec 36) (size : Size) (v : Word), s.fwHeld (s.host.apbase.toNat * 2 ^ 36 + off.toNat) (sizeBytes size) = true →
        s.kvAny = false → exec (.bar2Access wr off size v) s = .next s)
    ∧ (∀ (p : BitVec 4), let q := s.peers[p.toNat]
        (q.up = true → ∃ t, exec (.flitReceive p true q.number (.own none)) s = .next t ∧ t.peers[p.toNat] = { q with number := q.number + 1, replays := 0 }
          ∧ { t with peers := s.peers } = s)
        ∧ (q.up = true → ∀ (pa : BitVec 40) (bs : List Byte),
          pa.toNat < s.pexb.toNat * 65536 ∨ (s.pexb.toNat + s.pexl.toNat) * 65536 < pa.toNat + bs.length →
          ∃ t, exec (.flitReceive p true q.number (.write pa bs)) s = .next t ∧ t.peers[p.toNat] = { q with number := q.number + 1, replays := 0 }
            ∧ { t with peers := s.peers } = s)
        ∧ (q.up = true → ∀ n, n < q.number → exec (.flitReceive p true n (.own none)) s = .next s)
        ∧ (q.up = true → q.replays ≤ 8 → ∀ n, ∃ t, exec (.flitReceive p false n (.own none)) s = .next t ∧ t.peers[p.toNat] = { q with replays := q.replays + 1 }
          ∧ { t with peers := s.peers } = s)
        ∧ (q.up = true → 8 < q.replays → ∃ t, exec (.portDown p) s = .next t ∧ t.peers[p.toNat].up = false
          ∧ t.errorLog = s.errorLog ++ [(0x20, p.setWidth 64)] ∧ t.mem = s.mem)
        ∧ (q.up = false → ∀ base len : BitVec 24, ∃ t, exec (.portUp ⟨p, base, len⟩) s = .next t ∧ t.peers[p.toNat] = { q with up := true, number := 0, replays := 0 }
          ∧ t.peerWin = (q.member, base ++ 0#16, len ++ 0#16) :: s.peerWin.filter (·.1 != q.member)
          ∧ { t with peers := s.peers, peerWin := s.peerWin } = s))
    ∧ (∀ v : Word, exec (.managementPortAccess ⟨s.coreNum, 0xF40⟩ v) s = .next { s with pexb := v }
        ∧ exec (.managementPortAccess ⟨s.coreNum, 0xF41⟩ v) s = .next { s with pexl := v }
        ∧ exec (.managementPortAccess ⟨s.coreNum, 0xF10⟩ v) s = .next { s with ptbase := (v &&& ~~~63#64).setWidth 48 }
        ∧ exec (.managementPortAccess ⟨s.coreNum, 0xF11⟩ v) s = .next { s with ptlog := v.setWidth 53 }
        ∧ exec (.managementPortAccess ⟨s.coreNum, 0xF12⟩ v) s = exec .ptsync s ∧ exec (.managementPortAccess ⟨s.coreNum, 0xF30⟩ v) s = exec (.oppflrWrite (v.setWidth 3)) s
        ∧ exec (.managementPortAccess ⟨s.coreNum, 0x050⟩ v) s = .next { s with ctx := { s.ctx with csr := { s.ctx.csr with atp := v &&& 0xFFFF00FFFFFFF000 } } }
        ∧ (∀ core : BitVec 8, core ≠ s.coreNum → exec (.managementPortAccess ⟨core, 0x050⟩ v) s = .next s)
        ∧ ∀ core : BitVec 8, ∃ t, exec (.managementPortAccess ⟨core, 0xF21⟩ v) s = .next t ∧ t.bdeOf (core.toNat / 32) = { s.bdeOf (core.toNat / 32) with kvwn := v.setWidth 20 }
          ∧ { t with bde := s.bde } = s)
    ∧ exec .coreOfflineClear s = .next { s with offline := false }
    ∧ (∀ line : BitVec 40, (h : line.toNat / 2 ^ 36 < 8) → s.scrub[line.toNat / 2 ^ 36].pointer = line.setWidth 36 →
        ∃ t, exec (.scrubStep line) s = .next t ∧ { t with scrub := s.scrub, errorLog := s.errorLog, host := s.host, soft := s.soft } = s
          ∧ (let rec' := BitVec.ofNat 64 (line.toNat + 2 ^ 40 * s.scrub[line.toNat / 2 ^ 36].pass)
            t.errorLog = s.errorLog ++ (if s.soft.contains line then [((0 : BitVec 8), rec')] else [])
              ++ (if s.poisoned line.toNat 128 then [((0x20 : BitVec 8), rec')] else []))
          ∧ t.soft = s.soft.filter (· != line)
          ∧ t.scrub[line.toNat / 2 ^ 36].pointer = s.scrub[line.toNat / 2 ^ 36].pointer + 128)
    ∧ (∃ t, exec (.uncorrectableError .sharedLogic) s = .next t ∧ t.offline = true ∧ t.mode = .u
        ∧ s.errorLog ++ [(0x20, 0)] <+: t.errorLog)
    ∧ (∀ line, exec (.uncorrectableError (.memory line)) s = .next { s with poison := BitVec.ofNat 40 (line.toNat / 128 * 128) :: s.poison })
    ∧ (∀ line, exec (.uncorrectableError (.soft line)) s = .next { s with soft := BitVec.ofNat 40 (line.toNat / 128 * 128) :: s.soft })
    ∧ (∀ d, ∃ t, exec (.uncorrectableError (.corrected d)) s = .next t ∧ t.errorLog = s.errorLog ++ [(0, d)] ∧ { t with errorLog := s.errorLog, host := s.host } = s)
    ∧ (∀ (page : BitVec 40) (hdr : Nat), s.feature featKVC = true → s.kvPageHeader page.toNat = some (hdr, 0) → (Memory.get s.mem (hdr + 40)).getLsbD 0 = true →
        ∃ t, exec (.sealPage page) s = .next t ∧ (Memory.get t.mem (hdr + 40)).getLsbD 0 = false ∧ (Memory.get t.mem (hdr + 40)).getLsbD 1 = true
          ∧ (∀ x, hdr + 41 ≤ x → x < hdr + 64 → Memory.get t.mem x = 0)
          ∧ (∀ x, ¬(hdr ≤ x ∧ x < hdr + 64) → ¬(page.toNat ≤ x ∧ x < page.toNat + 65536) → Memory.get t.mem x = Memory.get s.mem x)
          ∧ { t with mem := s.mem, l1 := s.l1, bde := s.bde, asleep := s.asleep } = s)

/-! ### Ports, copies and the broadcast bus -/

/-- R80, R81, R143, R419: a bound read port fetches the next beat of its pattern, or keeps the fault for the bundle that pops it; a write port writes the
oldest beat pushed, or its fault is pending at the boundary with the pushing bundle's address, tick and slot. Lost data is an asynchronous MCHK (Table 12.1). -/
def Obligations.PortsFetchAndWrite : Prop :=
  ∀ (s : State) (n : PortNo) (va : Word) (k : Nat), Safety.memOk s = true →
    let q := s.ctx.ports[n.toNat]
    (s.fetchReady q = true → s.portAddr q q.pos = some (va, k) →
      (∀ base ps, s.span s.ctx.csr.atp .u .read va k = .ok ps → Laid s base va k ps → hFE (s.portH q) = false →
        ∃ t, exec (.portFetch n) s = .next t
          ∧ t.ctx.ports[n.toNat] = { q with beats := q.beats ++ [BitVec.ofNat 2048 (natOf (Memory.read s.mem base k))], pos := q.pos + 1 }
          ∧ { t with ctx := { t.ctx with ports := s.ctx.ports } } = s ∧ ∀ m : Fin 32, m.val ≠ n.toNat → t.ctx.ports[m] = s.ctx.ports[m])
      ∧ (∀ f, s.span s.ctx.csr.atp .u .read va k = .error f → ∃ t, exec (.portFetch n) s = .next t
          ∧ (f.cause ≠ .mchk → t.ctx.ports[n.toNat] = { q with fault := some { cause := f.cause, slot := 0, tval := f.va } }
            ∧ { t with ctx := { t.ctx with ports := s.ctx.ports } } = s)
          ∧ (f.cause = .mchk →
            let x : Trap := { cause := .mchk, kind := .asynchronous, slot := 7, tval := s.failTval s.ctx.csr.atp f }
            t.ctx.ports[n.toNat] = { q with fault := some x } ∧ x ∈ t.pending)))
    ∧ (s.fetchReady q = false → exec (.portFetch n) s = .next s)
    ∧ (∀ (v : Beat) (vs : List Beat) (sl : BitVec 3) (b : Word) (tk : Nat) (us : List (BitVec 3 × Word × Nat)),
      q.beats = v :: vs → q.pushers = (sl, b, tk) :: us → q.bound = true → q.wr = true → q.fault = none → s.portAddr q q.taken = some (va, k) →
      (∀ base ps, s.span s.ctx.csr.atp .u .write va k = .ok ps → Laid s base va k ps → hRing (s.portH q) = false →
        ∃ t, exec (.portBeatWrite n) s = .next t ∧ Stored s.mem t.mem base (bytesOf k v.toNat)
          ∧ t.ctx.ports[n.toNat] = { q with beats := vs, pushers := us, taken := q.taken + 1 } ∧ t.ctx.rs = s.ctx.rs ∧ t.ctx.csr = s.ctx.csr
          ∧ t.pending = s.pending ∧ t.ctx.spm = s.ctx.spm)
      ∧ (∀ f, s.span s.ctx.csr.atp .u .write va k = .error f → ∃ t, exec (.portBeatWrite n) s = .next t ∧ t.ctx.rs = s.ctx.rs
          ∧ (f.cause ≠ .mchk → t.mem = s.mem ∧ s.failTval s.ctx.csr.atp f = f.va)
          ∧ t.pending = s.pending ++ [{ cause := f.cause, kind := .boundary, slot := sl, tbaddr := b, ttick := tk, tval := s.failTval s.ctx.csr.atp f }]))

/-- R140, R194, R197, R198: a chunk of a copy between contiguous places of HBM stores the source's bytes at the destination and is done; one whose source
cannot be read fails, and nothing is stored. -/
def Obligations.CopyChunksMove : Prop :=
  ∀ (s : State) (j : Job) (c : Nat) (n : BitVec 4) (nsat cons : Bool) (r r' : ERun) (base base' : Nat) (ps ps' : List (Pa × Nat)), Safety.memOk s = true →
    s.ctx.boost = [] → s.findJob j.id = some j → s.started j = true → s.gateOpen j = true → j.mayRun c = true → j.ready = true → j.op = .cpy n nsat cons →
    hEtypeBits j.src = hEtypeBits j.dst → hFE j.src = false → hKind j.src ≠ 7 → hKind j.dst ≠ 7 →
    let w := hElemBits j.dst
    let es := chunkElems c (hCount j.dst) w
    mergeRuns w (es.map fun e => posOf (walkElem j.src (srcBase j.src) e) e) = [r] →
    mergeRuns w (es.map fun e => posOf (walkElem j.dst (dstBase j.dst) e) e) = [r'] →
    r.off = 0 → r'.off = 0 → r.bits % 8 = 0 → s.span j.atp j.mode .write r'.va r'.bytes = .ok ps' → Laid s base' r'.va r'.bytes ps' →
    (s.span j.atp j.mode .read r.va r.bytes = .ok ps → Laid s base r.va r.bytes ps →
      ∃ t, exec (.copyChunk j.id c) s = .next t ∧ Stored s.mem t.mem base' (Memory.read s.mem base r.bytes)
        ∧ t.findJob j.id = some { j with done := j.done ++ [c] } ∧ t.ctx = s.ctx ∧ t.pending = s.pending ∧ t.frec = s.frec)
    ∧ (∀ f, s.span j.atp j.mode .read r.va r.bytes = .error f → f.cause ≠ .mchk →
      ∃ t j', exec (.copyChunk j.id c) s = .next t ∧ t.mem = s.mem ∧ t.ctx = s.ctx ∧ t.findJob j.id = some j' ∧ j'.fail.isSome = true
        ∧ (j.fail = none → ∃ x, j'.fail = some x ∧ x.cause = f.cause ∧ x.va = f.va ∧ x.chunk = c) ∧ j'.done = j.done ∧ j'.failed = c :: j.failed)

/-- R66, R141, R192, R193, R198, R200: a copy that is done raises its counter, the context's at the next tick boundary or the one in memory, and leaves its engine; a failed one that no
chunk can change enters the record and its trap is pending; CFRES resumes or discards it, and clears VALID alone of the record.
(SLOT 7 and address 0 of the pending cause are the model's reading: log 29.) -/
def Obligations.CopiesEnd : Prop :=
  ∀ (s : State) (j : Job), Safety.memOk s = true → s.findJob j.id = some j → s.live = true → j.ctx = s.ctx.id → j.sup = false → j.orphan = false → j.chain = none →
    (∃ n a b, j.op = .cpy n a b) → hRing j.src = false → s.ctx.boost = [] →
    (s.jobDone j = false → exec (.copyComplete j.id) s = .next s)
    ∧ (s.jobDone j = true → s.gateOpen j = true → hRing j.dst = false →
      (j.cfg.getLsbD 63 = false → ∃ t, exec (.copyComplete j.id) s = .next t
        ∧ (s.mode = .u → t.ctx = { s.ctx with later := s.ctx.later ++ [.count j.ctr (j.inc.setWidth 32)] })
        ∧ (s.mode = .s → s.ctx.later = [] → (∀ f ∈ s.ctx.rs.flights, s.ctx.rs.tick < f.due) → t.ctx = { s.ctx with ec := s.ctx.ec.set j.ctr.toNat (s.ctx.ec[j.ctr.toNat] + j.inc.setWidth 32) })
        ∧ t.findJob j.id = none ∧ t.mem = s.mem ∧ t.pending = s.pending)
      ∧ (∀ p : Pa, j.cfg.getLsbD 63 = true → s.translate j.atp .u .atomic true ((j.cfg.extractLsb' 0 48).setWidth 64) 8 = .ok p → Plain s p →
        ∃ t, exec (.copyComplete j.id) s = .next t ∧ t.ctx = s.ctx ∧ t.findJob j.id = none
          ∧ Stored s.mem t.mem p.pa.toNat (bytesOf 8 (BitVec.ofNat 64 (Memory.num s.mem p.pa.toNat 8) + j.inc).toNat)))
    ∧ (∀ (f : CopyFail), j.fail = some f → j.addPending = false → (∀ c < f.bound, c ∈ j.done ∨ c ∈ j.failed) → s.frec.valid = false →
      s.frec.job ≠ some j.id → ∃ t, exec (.copyfault j.id) s = .next t
        ∧ t.pending = s.pending ++ [{ cause := .copyfault, kind := .asynchronous, slot := 7, tbaddr := 0, ttick := s.rs.tick, tval := 0 }]
        ∧ t.frec.valid = true ∧ t.frec.cause = f.cause.code ∧ t.frec.ctr = j.ctr ∧ t.frec.cfba = j.bundle.setWidth 48 ∧ t.frec.cfva = f.va.setWidth 48
        ∧ t.frec.cfoff = BitVec.ofNat 64 f.elem ∧ t.frec.nch = BitVec.ofNat 32 j.nch ∧ t.frec.first = BitVec.ofNat 32 f.chunk ∧ t.frec.job = some j.id
        ∧ { t with frec := s.frec, pending := s.pending } = s)
    ∧ (s.frec.valid = true → s.frec.job = some j.id → ∃ t u j', exec .cfresResume s = .next t ∧ exec .cfresDiscard s = .next u
      ∧ t.findJob j.id = some j' ∧ j'.fail = none ∧ j'.failed = [] ∧ j'.done = j.done ∧ u.findJob j.id = none ∧ t.frec = { s.frec with valid := false, job := none } ∧ u.frec = t.frec
      ∧ { t with frec := s.frec, jobs := s.jobs, latches := s.latches } = s
      ∧ { u with frec := s.frec, jobs := s.jobs, latches := s.latches, parked := s.parked } = s)
    ∧ (s.frec.valid = false → exec .cfresResume s = .next s ∧ exec .cfresDiscard s = .next s)

/-- R142, R199: a walking channel whose last record is complete reads the next record: one without OWN, or the address 0, stops the channel; any other
that keeps the rules becomes a copy, and its NEXT the channel's next address; one that breaks them fails with HANDLE and no chunk.
(Model's readings: log 32.) -/
def Obligations.ChainsWalk : Prop :=
  ∀ (s : State) (ch : BitVec 3),
    let c := s.chan[ch.toNat]
    (c.walking = false → exec (.chainRecord ch) s = .next s)
    ∧ (c.walking = true → (∀ j ∈ s.jobs, ∀ x, j.chain = some x → x.1 ≠ ch) →
      (c.next = 0 → ∃ t, exec (.chainRecord ch) s = .next t ∧ t.chan[ch.toNat] = { c with walking := false } ∧ t.mem = s.mem ∧ t.jobs = s.jobs)
      ∧ (∀ p : Pa, c.next ≠ 0 → s.span c.atp (if c.sup then .s else .u) .read c.next 128 = .ok [(p, 128)] → Plain s p →
        let r : BitVec 1024 := BitVec.ofNat 1024 (Memory.num s.mem p.pa.toNat 128)
        (r.getLsbD 63 = false → ∃ t, exec (.chainRecord ch) s = .next t ∧ t.chan[ch.toNat] = { c with walking := false } ∧ t.mem = s.mem ∧ t.jobs = s.jobs)
        ∧ (∀ j, r.getLsbD 63 = true → s.recordJob ch c r = some j → ∃ t, exec (.chainRecord ch) s = .next t ∧ t.jobs = s.jobs ++ [j]
          ∧ t.chan[ch.toNat] = { c with next := r.extractLsb' 64 64 } ∧ t.mem = s.mem ∧ t.ctx = s.ctx)
        ∧ (r.getLsbD 63 = true → s.recordJob ch c r = none → ∃ t j x, exec (.chainRecord ch) s = .next t ∧ t.jobs = s.jobs ++ [j] ∧ j.nch = 0
          ∧ j.op = .broken (r.extractLsb' 8 5) ∧ j.fail = some x ∧ x.cause = .handle ∧ x.va = c.next ∧ t.chan = s.chan ∧ t.mem = s.mem ∧ t.ctx = s.ctx)))

/-- R178 to R180: a WSTR's next block enters the weight buffer of the core it is for while that has a free entry; the other buffer and memory are kept. A request
of another core that names this one, while it runs a context of the same kernel, takes its place after the requests that came before.
(Model's readings: log 33.) -/
def Obligations.WeightsEnter : Prop :=
  ∀ (s : State) (j : Job) (wb1 : Bool) (mask : BitVec 2) (e : WbEntry), s.jobs = [j] → j.op = .wstr wb1 mask → s.started j = true → j.fail = none →
    j.ready = true → s.live = true → s.ctx.dead = false → j.acc = s.ctx.id.toNat + 1 → j.done.length < j.nch →
    (s.weightUnit j mask (hDim0 j.dst) (hDim1 j.dst + j.done.length) = .ok e → (s.ctx.wb wb1).length < 4 →
      ∃ t, exec (.wbEntryFill (.own j.id)) s = .next t ∧ t.ctx.wb wb1 = s.ctx.wb wb1 ++ [e] ∧ t.ctx.wb (!wb1) = s.ctx.wb (!wb1) ∧ e.width = mask
        ∧ t.findJob j.id = some { j with done := j.done ++ [j.done.length] } ∧ t.mem = s.mem ∧ t.ctx.rs = s.ctx.rs ∧ t.ctx.acm = s.ctx.acm)
    ∧ (4 ≤ (s.ctx.wb wb1).length → exec (.wbEntryFill (.own j.id)) s = .next s)
    ∧ ∀ w : WstrIn, s.ctx.kernel = w.kernel → handleOk w.src = true → weightOk w.src = true → handleOk w.req = true → requestOk w.src w.req = true →
      ∃ t k, exec (.wbEntryFill (.foreign w)) s = .next t ∧ t.jobs = [j, k] ∧ k.op = .wstrIn w.wb1 w.mask ∧ k.src = w.src ∧ k.dst = w.req ∧ k.nch = hDim2 w.req
        ∧ k.acc = s.ctx.id.toNat + 1 ∧ { t with jobs := s.jobs, seq := s.seq } = s

/-- R201 to R203, R327: a beat of another driver is stored at the next place of the latch armed for that driver; with no latch BUSMISS is pending and the
driver's later beats are dropped; the core's own slot drives the next beat of its BDRV, the first once every receiver has an armed latch.
(The beat count and the pending cause's SLOT and TBADDR are the model's readings: logs 29 and 34; that CFOFF takes the beat index also under a record that is
VALID, log 49.) -/
def Obligations.BusSlots : Prop :=
  ∀ (s : State) (d : BitVec 3) (beat : Beat), Safety.memOk s = true → s.live = true → s.ctx.boost = [] →
    (∀ (j : Job) (k base : Nat) (ps : List (Pa × Nat)), d ≠ s.position → s.busMissed.getLsbD d.toNat = false → s.jobs = [j] → s.latches = [⟨j.id, d, k⟩] → j.op = .blat d →
      hRing j.dst = false → j.done.length + 1 < j.nch → k + 1 < j.nch → (let o := beatOffset j.dst k
        s.span j.atp j.mode .write (hBase j.dst + BitVec.ofInt 64 o.1) o.2 = .ok ps ∧ Laid s base (hBase j.dst + BitVec.ofInt 64 o.1) o.2 ps) →
      ∃ t, exec (.busSlot d false beat) s = .next t ∧ Stored s.mem t.mem base (bytesOf (beatOffset j.dst k).2 beat.toNat)
        ∧ t.findJob j.id = some { j with ready := true, done := j.done ++ [k] } ∧ t.latches = [⟨j.id, d, k + 1⟩]
        ∧ t.busSeen[d.toNat] = s.busSeen[d.toNat] + 1 ∧ t.ctx = s.ctx ∧ t.pending = s.pending)
    ∧ (d ≠ s.position → s.busMissed.getLsbD d.toNat = false → s.latches = [] → ∃ t, exec (.busSlot d false beat) s = .next t ∧ t.mem = s.mem
        ∧ t.ctx = s.ctx ∧ t.busMissed.getLsbD d.toNat = true ∧ t.frec = { s.frec with cfoff := BitVec.ofNat 64 s.busSeen[d.toNat] }
        ∧ t.pending = s.pending ++ [{ cause := .busmiss, kind := .imprecise, slot := 7, tbaddr := 0, ttick := s.rs.tick, tval := d.setWidth 64 }])
    ∧ (∀ (j : Job) (m : BitVec 8) (base : Nat) (ps : List (Pa × Nat)), d = s.position → s.jobs = [j] → j.op = .bdrv m → m ≠ 0 → s.started j = true → s.gateOpen j = true →
      j.fail = none → j.ready = true → j.done.length < j.nch → hRing j.src = false → hFE j.src = false → (let o := beatOffset j.src j.done.length
        s.span j.atp j.mode .read (hBase j.src + BitVec.ofInt 64 o.1) o.2 = .ok ps ∧ Laid s base (hBase j.src + BitVec.ofInt 64 o.1) o.2 ps) →
      ∃ t, exec (.busSlot d false beat) s = .next t ∧ t.findJob j.id = some { j with done := j.done ++ [j.done.length] } ∧ t.mem = s.mem ∧ t.ctx = s.ctx)
    ∧ ∀ (j : Job) (m : BitVec 8), d = s.position → s.jobs = [j] → j.op = .bdrv m → j.ready = false → m &&& beat.setWidth 8 ≠ m → exec (.busSlot d false beat) s = .next s

/-! ### The matrix unit -/

/-- R185, R188: the call at the head of the queue starts once its region is allocated and at the version it names; MASKLD writes its bitmap into the mask
tile; a call ends after its drains, with its BUMP.
(Model's readings: log 38.) -/
def Obligations.CallsStartAndEnd : Prop :=
  ∀ (s : State),
    (∀ (r v : BitVec 8) (k : BitVec 3) (pop bump ignv : Bool) (mp : Vector Word 8) (nm : List HReg) (hd : Option HReg) (b : Word) (t n : Nat)
      (es : List CallEntry) (g : Region), let e := CallEntry.call r v k pop bump ignv mp nm hd b t n
      s.ctx.running = none → s.ctx.calls = e :: es →
      (s.ctx.region k = some g → s.ctx.routineLen r.toNat ≠ 0 → ignv = true ∨ g.version = v → exec .callStart s =
        .next { s with ctx := { s.ctx with calls := es, running := some ⟨e, Vector.ofFn (fun i => mCnt mp i.val), 0, .waiting, [], false⟩ } })
      ∧ (s.ctx.region k = some g → s.ctx.routineLen r.toNat ≠ 0 → ignv = false → g.version ≠ v → exec .callStart s = .next s)
      ∧ (s.ctx.region k = none → ∃ u, exec .callStart s = .next u ∧ u.mem = s.mem
        ∧ u.pending = s.pending ++ [{ cause := .acm, kind := .boundary, slot := 3, tbaddr := b, ttick := t, tval := k.setWidth 64 }]))
    ∧ (∀ (sa sb b : Word) (t : Nat) (es : List CallEntry) (ps : List (Pa × Nat)), s.ctx.running = none → s.ctx.calls = .mask sa sb b t :: es →
      s.mxSpan .read sa 512 = .ok ps → s.counted = [] → sb.getLsbD 9 = false ∨ s.piecesFull ps = true → sb.toNat / 2 % 8 ≤ 3 →
      (s.readPieces none ps).1.length = 512 →
      ∃ u, exec .maskLoad s = .next u ∧ u.ctx.calls = es ∧ u.mem = s.mem ∧ u.ctx.rs = s.ctx.rs ∧ ∀ (r : Fin 128) (n : Nat), n < 160 →
        let row0 := 64 * (sb.toNat % 2)
        let col0 := 32 * (sb.toNat / 2 % 8)
        u.ctx.maskTile[r].getLsbD n = if row0 ≤ r.val ∧ r.val < row0 + 64 ∧ col0 ≤ n ∧ n < col0 + 64
          then ((s.readPieces none ps).1.getD (8 * (r.val - row0) + (n - col0) / 8) 0).getLsbD ((n - col0) % 8)
          else sb.getLsbD 8 || s.ctx.maskTile[r].getLsbD n)
    ∧ (∀ (x : Running) (r v : BitVec 8) (k : BitVec 3) (bump ignv : Bool) (mp : Vector Word 8) (nm : List HReg) (hd : Option HReg) (b : Word) (t n : Nat)
      (g : Region), s.ctx.running = some x → x.entry = .call r v k false bump ignv mp nm hd b t n → x.ended = true → s.ctx.region k = some g →
      (x.drains = [] → ∃ u, exec .callEnd s = .next u ∧ u.ctx.running = none
        ∧ u.ctx.region k = some { g with version := g.version + (if bump then 1 else 0) } ∧ u.mem = s.mem ∧ u.ctx.acm = s.ctx.acm ∧ u.ctx.rs = s.ctx.rs)
      ∧ (x.drains ≠ [] → exec .callEnd s = .next s))

/-- R166, R175 to R177, R181, Table 8.4: a micro-word that may start applies its operation to every active cell, and to no other byte of the ACM; a word
that retires outside a loop goes on to NEXT, or to the end of its call; in a droop stretch no word starts and none retires.
(That a word acts whole is the model's reading: log 38.) -/
def Obligations.MatrixWords : Prop :=
  ∀ (s : State) (r : Running), Safety.memOk s = true →
    let w := s.ctx.microWord r.entry.routineNo r.off
    let mp := r.entry.mps
    (∀ (nb : Nat) (blocks : List Block) (g : Region), s.ctx.running = some r → r.stage = .waiting → r.ended = false → s.power.droop = false → s.wordLook r w = .go nb →
      mwOp w ≠ 6 → s.wordBlocks mp w 0 nb = .ok (blocks, s) → s.ctx.region r.entry.regionNo = some g → g.banks.Nodup →
      ∃ t, exec .wordStart s = .next t ∧ t.ctx.running = some { r with stage := .started } ∧ t.mem = s.mem ∧ t.ctx.rs = s.ctx.rs ∧ t.ctx.spm = s.ctx.spm
        ∧ (∀ m n, m < mRows mp → n < mCols mp → Memory.num t.ctx.acm (cellOffset g.banks (mwAccsel w) m n) 4 =
          cellValue (mwOp w) blocks ((s.ctx.maskTile.toList.getD m 0).getLsbD n) 0 m n
            (Memory.num s.ctx.acm (cellOffset g.banks (mwAccsel w) m n) 4) % 2 ^ 32)
        ∧ ∀ x, (∀ m n, m < mRows mp → n < mCols mp → ¬(cellOffset g.banks (mwAccsel w) m n ≤ x ∧ x < cellOffset g.banks (mwAccsel w) m n + 4)) →
          Memory.get t.ctx.acm x = Memory.get s.ctx.acm x)
    ∧ (s.wordLook r w = .wait → s.ctx.running = some r → r.stage = .waiting → r.ended = false → exec .wordStart s = .next s)
    ∧ (s.power.droop = true → exec .wordStart s = .next s ∧ exec .wordRetire s = .next s)
    ∧ (s.ctx.running = some r → r.stage = .started → s.power.droop = false → mwLoop w = 0 → mwPopA w = false → mwPopB w = false → mwBump w = false →
      let ds := if mwDrain w then r.drains ++ [⟨mwAccsel w, 0, 0, r.off⟩] else r.drains
      (mwEnd w = true → exec .wordRetire s =
        .next { s with ctx := { s.ctx with running := some { r with stage := .waiting, drains := ds, ended := true } } })
      ∧ (mwEnd w = false → mwNext w < s.ctx.routineLen r.entry.routineNo → exec .wordRetire s =
        .next { s with ctx := { s.ctx with running := some { r with stage := .waiting, drains := ds, off := mwNext w } } }))

/-- R186, R187, R356: a drain of one row to plain memory stores the converted elements of the row where the handle says, and ends; the accumulators stay. One that
meets a line whose data an uncorrectable error has hit stores nothing: MCHK, with the physical address, is pending for the boundary. A drain of a call that
stands behind a release fence waits for the accesses before the fence.
(Which writes meet such a line is the model's reading: log 50.) -/
def Obligations.DrainsStore : Prop :=
  ∀ (s : State) (r : Running) (d : Drain) (h : Handle) (t : EType) (size : Nat) (g : Region) (base : Nat) (ps : List (Pa × Nat)), Safety.memOk s = true → s.live = true → s.parked = [] →
    s.ctx.running = some r → r.drains = [d] → d.nextRow = 0 → d.bump = 0 →
    let mp := r.entry.mps
    h = s.ctx.rs.h[(hregOf mp[5]).toNat] → drainType h = some (t, size) → handleOk h = true → hKind h = 1 ∨ hKind h = 3 ∨ hKind h = 6 →
    mCols mp ≤ hDim0 h → mRows mp = 1 → mClr mp = false → s.ctx.region r.entry.regionNo = some g →
    s.power.droop = false → s.mxSpan .write (hBase h) (mCols mp * size) = .ok ps → Laid s base (hBase h) (mCols mp * size) ps →
    ((∃ q ∈ s.reqsOf s.ctx.id, q.reply = none ∧ ∃ n, q.gate = some n ∧ n < r.entry.order) → exec .drain s = .next s)
    ∧ (∀ pa, s.callGated r.entry = false → s.writeLost ps = some pa → ∃ u, exec .drain s = .next u ∧ u.mem = s.mem ∧ u.ctx.running = none
      ∧ u.pending = s.pending ++ [{ cause := .mchk, kind := .boundary, slot := 3, tbaddr := r.entry.origin.1, ttick := r.entry.origin.2,
                                    tval := BitVec.ofNat 64 pa }])
    ∧ (s.callGated r.entry = false → s.writeLost ps = none → ∃ u, exec .drain s = .next u ∧ Stored s.mem u.mem base ((drainBytes s.ctx.acm g.banks d.accsel (mCols mp) 0 t size).take (mCols mp * size))
      ∧ u.ctx.running = some { r with drains := [] } ∧ u.ctx.acm = s.ctx.acm ∧ u.ctx.rs = s.ctx.rs ∧ u.pending = s.pending)

/-! ### Versioned memory -/

/-- R157, R158: a slice validates a line by R157's three rules: it waits while the line has an entry of another transaction locked with a smaller stamp; else it
votes abort if another is locked with a greater one, or a committed entry is newer than the transaction's snapshot; else it locks the line's entry with the
commit's stamp. With every vote in, a slice finalises: commit makes the entries committed and memory's newest, abort frees them.
(That memory holds the newest committed bytes is the model's representation: log 12.) -/
def Obligations.CommitsValidateAndFinalise : Prop :=
  ∀ (s : State) (k : BitVec 7) (x : Txn) (c : Commit) (l : Nat), Safety.memOk s = true → s.live = true → s.ctx.txn = some x → s.ctx.commit = some c →
    s.linesOf x.tid k.toNat = [l] →
    let es := s.lineEntries l
    let rest := fun (ls : List Nat) => ls.filter (· != k.toNat)
    let lockedBelow := ∃ e ∈ es, e.st = .locked ∧ e.tid ≠ x.tid ∧ e.stamp < c.stamp
    let lockedAbove := ∃ e ∈ es, e.st = .locked ∧ e.tid ≠ x.tid ∧ c.stamp < e.stamp
    let newer := ∃ e ∈ es, e.st = .committed ∧ x.tsnap < e.stamp
    (k.toNat ∈ c.toValidate →
      (¬lockedBelow → ¬lockedAbove → ¬newer → ∃ t, exec (.validate k) s = .next t ∧ t.lineEntries l = lockLine x.tid c.stamp es
        ∧ t.ctx = { s.ctx with commit := some { c with toValidate := rest c.toValidate } } ∧ t.mem = s.mem)
      ∧ (¬lockedBelow → lockedAbove ∨ newer → exec (.validate k) s =
        .next { s with ctx := { s.ctx with commit := some { c with toValidate := rest c.toValidate, abort := true } } })
      ∧ (lockedBelow → (∀ o ∈ s.parked, o.commit = none) → s.foreignCommits = [] → exec (.validate k) s = .next s))
    ∧ (c.toValidate = [] → k.toNat ∈ c.toFinalise → ∀ e, entryOf x.tid es = some e →
      (c.abort = false → (∀ w, newestUpTo none es = some w → w.stamp < c.stamp) → ∃ t, exec (.finalise k) s = .next t
        ∧ Stored s.mem t.mem l (bytesOf 128 e.data.toNat) ∧ t.ctx = { s.ctx with commit := some { c with toFinalise := rest c.toFinalise } }
        ∧ t.lineEntries l = updFirst (fun e => !e.isCommitted && e.tid == x.tid) (fun e => { e with st := .committed, stamp := c.stamp }) es)
      ∧ (c.abort = true → ∃ t, exec (.finalise k) s = .next t ∧ t.mem = s.mem
        ∧ t.ctx = { s.ctx with commit := some { c with toFinalise := rest c.toFinalise } }
        ∧ t.lineEntries l = es.filter fun e => e.isCommitted || e.tid != x.tid))

/-- R149, R156, R161: VKILL dooms the open transaction of a TID and its entries go at once; the mucker gives up exactly what R161 allows, and counts it. -/
def Obligations.VersionsAreReclaimed : Prop :=
  ∀ (s : State),
    (∀ (x : Txn), s.live = true → s.ctx.txn = some x → s.ctx.commit = none → ∃ t, exec (.vkill x.tid) s = .next t
      ∧ t.ctx = { s.ctx with txn := some { x with doom := some (x.doom.getD 5) } } ∧ t.mem = s.mem
      ∧ ∀ l ∈ t.chains, ∀ e ∈ l.entries, e.isCommitted = true ∨ e.tid ≠ x.tid)
    ∧ (∀ (f : ForeignTxn), s.foreignTxns = [f] → s.foreignCommits = [] → (∀ c ∈ s.contexts, c.txn = none) → ∃ t, exec (.vkill f.tid) s = .next t
      ∧ t.foreignTxns = [{ f with doomed := true }] ∧ t.mem = s.mem ∧ t.ctx = s.ctx
      ∧ ∀ l ∈ t.chains, ∀ e ∈ l.entries, e.isCommitted = true ∨ e.tid ≠ f.tid)
    ∧ (∀ l : VLine, s.chains = [l] → ∃ t, exec .muckerReclaim s = .next t
      ∧ t.chains = [{ l with entries := l.entries.filter fun e => !(e.isCommitted && l.entries.any fun w =>
          w.isCommitted && decide (e.stamp < w.stamp) && decide (w.stamp ≤ s.lwm)) }]
      ∧ t.vrcl = s.vrcl + BitVec.ofNat 64 (l.entries.length - (t.chains.flatMap (·.entries)).length) ∧ { t with chains := s.chains, vrcl := s.vrcl } = s)

/-! ### The sequence manager and the taps -/

/-- R221 to R223, R227, R229, R237, R239, R241, R377, Tables 10.7 and 11.4: the sequence manager's own steps: a transaction of its own that succeeds is the whole
step and one that fails has no effect; an event enters the sqevq of the context it is for; an unbound crossing becomes a record for the supervisor, a crossing of
an admitted slot marks its node or makes it HELD; pending tokens enter the ring while it has room; what SQROLL and the operations of SQSET write and reply, and
what one read or write of a transaction leaves.
(Model's readings: that a crossing whose transaction fails is tried again, log 41; the ring's address space, log 28; the rest, log 40.) -/
def Obligations.SequenceManagerSteps : Prop :=
  ∀ (s : State), Safety.memOk s = true →
    (∀ (n : BitVec 12) (v : Word) (t : State), s.sqRun (sqMove n) = some (v, t) →
      exec (.pendingTokenMove n) s = .next (if v = 0 then t else s))
    ∧ (∀ n : BitVec 12, s.sqSlot n = none → exec (.pendingTokenMove n) s = .next s)
    ∧ (∀ (page a atp : Word) (st : Nat), s.evicted = [(page, st)] → s.pageStack = some (a, atp) →
      (s.lwm < st → exec .pageReturn s = .next s)
      ∧ (∀ t, st ≤ s.lwm → ({ s with evicted := [] } : State).sqRun (sqReturnPage a atp page) = some (0, t) → exec .pageReturn s = .next t))
    ∧ (∀ (w : Word) (es : List (BitVec 16 × Word)), s.live = true → s.sqEvents = (s.ctx.id, w) :: es →
      (s.ctx.sqevq.length < 32 → exec .sqevqPush s = .next { s with sqEvents := es, ctx := { s.ctx with sqevq := s.ctx.sqevq ++ [w] } })
      ∧ (32 ≤ s.ctx.sqevq.length → es = [] → exec .sqevqPush s = .next s))
    ∧ (∀ (c : Crossing) (cs : List Crossing), s.crossings = c :: cs → c.slot = 0x1FFF → exec .crossingApply s =
      .next { s with crossings := cs, tevrWait := s.tevrWait ++ [BitVec.ofNat 256 (0x1FFF + c.node.toNat * 2 ^ 16 + c.set.toNat * 2 ^ 24
        + c.probe.toNat * 2 ^ 32 + c.action.toNat * 2 ^ 36 + c.layer.toNat * 2 ^ 40 + c.ctx.toNat * 2 ^ 64)] })
    ∧ (s.tevrWait = [] → exec .tevrRecord s = .next s)
    ∧ (∀ r rs, s.tevrWait = r :: rs → s.tevr.extractLsb' 0 48 = 0 ∨ s.eventWaits r = true → exec .tevrRecord s = .next s)
    ∧ (∀ (r : BitVec 256) (rs : List (BitVec 256)) (ph pt pe : Pa), s.tevrWait = r :: rs →
      let a : Word := (s.tevr.extractLsb' 0 48).setWidth 64
      let hd := Memory.num s.mem ph.pa.toNat 8
      let tl := Memory.num s.mem pt.pa.toNat 8
      let size := 2 ^ (s.tevr.extractLsb' 48 5).toNat
      a ≠ 0 → Plain s ph → Plain s pt → Plain s pe → s.chains = [] → s.eventWaits r = false →
      (∀ u : State, { u with mem := s.mem, l1 := s.l1, asleep := s.asleep, tevrWait := s.tevrWait, vsuLast := s.vsuLast } = s → u.span s.ctx.csr.atp .s .read a 8 = .ok [(ph, 8)]
        ∧ (∀ acc, u.span s.ctx.csr.atp .s acc (a + 8) 8 = .ok [(pt, 8)])
        ∧ u.span s.ctx.csr.atp .s .write (a + 64 + BitVec.ofNat 64 (32 * (tl % size))) 32 = .ok [(pe, 32)]) →
      (size ≤ (tl + 2 ^ 64 - hd) % 2 ^ 64 → exec .tevrRecord s = .next s)
      ∧ ((tl + 2 ^ 64 - hd) % 2 ^ 64 < size → ∃ t m, exec .tevrRecord s = .next t ∧ t.tevrWait = rs ∧ t.ctx = s.ctx
        ∧ Stored s.mem m pe.pa.toNat (bytesOf 32 r.toNat) ∧ Stored m t.mem pt.pa.toNat (bytesOf 8 ((tl + 1) % 2 ^ 64))))
    -- one read and one write of a transaction
    ∧ (∀ (st : Nat) (atp va : Word) (p : Pa) (n : Nat), p.enc = 0 → p.pa.toNat + n ≤ 0x8000000000 → s.kvAny = false → s.counted = [] → s.encTags = [] → s.chains = [] →
      (p.v = true ∧ p.pa.toNat % 128 + n ≤ 128 ∨ p.v = false ∧ p.rca = false) →
      (s.span atp .s .read va n = .ok [(p, n)] → sqBytes atp va n s = .ok (Memory.read s.mem p.pa.toNat n, s))
      ∧ ∀ bs : List Byte, bs.length = n → s.span atp .s .write va n = .ok [(p, n)] → s.writeLost [(p, n)] = none →
        ∃ t, sqWrite st atp va bs s = .ok ((), t) ∧ Stored s.mem t.mem p.pa.toNat bs ∧ t.sqSlots = s.sqSlots ∧ t.ctx = s.ctx
          ∧ (p.v = true → ∃ e, t.lineEntries (lineOf p.pa.toNat) = [e] ∧ e.stamp = st ∧ e.st = .committed
            ∧ e.data = BitVec.ofNat 1024 (Memory.num t.mem (lineOf p.pa.toNat) 128)))
    -- a crossing of a slot
    ∧ (∀ (c : Crossing) (cs : List Crossing), s.crossings = c :: cs → c.slot ≠ 0x1FFF →
      (s.sqSlot (c.slot.setWidth 12) = none → exec .crossingApply s = .next { s with crossings := cs })
      ∧ (∀ q, s.sqSlot (c.slot.setWidth 12) = some q →
        (({ s with crossings := cs } : State).sqRun (sqCross c) = none → exec .crossingApply s = .next s)
        ∧ ∀ v t, ({ s with crossings := cs } : State).sqRun (sqCross c) = some (v, t) → exec .crossingApply s = .next (if v = 0 then t else s)))
    -- POOL
    ∧ (∀ (st : Nat) (b : Word), sqRequest .pool 0 b st s = .ok (0, { s with pageStack := some (b, s.ctx.csr.atp) }))
    -- ADMIT of a slot that is FREE
    ∧ (∀ (st : Nat) (n : BitVec 12) (b : Word), s.sqSlot n = none →
      let q : SqSlot := ⟨n, b, s.ctx.csr.atp, 0, [], 0, none, []⟩
      (s.descOf q = none → sqRequest .admitSlot (n.setWidth 64) b st s = .error (.status 7 none))
      ∧ ∀ d, s.descOf q = some d →
        let good := s.versionedAt b = true ∧ dGet d dCSTR ≤ 3 ∧ 1 ≤ dGet d dKSL ∧ dGet d dKSL ≤ 64 ∧ 1 ≤ dGet d dMAXD ∧ dGet d dMAXD ≤ 16 ∧ 1 ≤ dGet d dMAXN
          ∧ dGet d dMAXN ≤ 64 ∧ 1 ≤ dGet d dNKV ∧ (dGet d dRULE = 0 ∨ inUnit (dGet d dTOPP) = true) ∧ dGet d dL ≤ dGet d dLMAX ∧ dGet d dLMAX ≤ 2 ^ 25
          ∧ dGet d dPPLOG ≤ 12 ∧ dGet d dTREE % 64 = 0 ∧ dGet d dACCREC % 64 = 0 ∧ dGet d dDRING % 64 = 0
        (¬good → sqRequest .admitSlot (n.setWidth 64) b st s = .error (.status 7 none))
        ∧ (good → ∀ s1, sqClose st q d (dSet (dSet (dSet d dSTATE 1) dNCNT 0) dPCNT 0) s = .ok ((), s1) → s1.sqSlots = s.sqSlots →
          ∃ t, sqRequest .admitSlot (n.setWidth 64) b st s = .ok (0x100000000, t) ∧ t.mem = s1.mem ∧ t.ctx = s1.ctx
            ∧ t.sqSlots = { q with acc := s1.seq, readyAt := s1.seq + 1 } :: s.sqSlots))
    -- a slot that is admitted
    ∧ (∀ (st : Nat) (b : Word) (q : SqSlot) (d : Desc) (s1 : State), s.sqSlot q.num = some q → sqNum q.atp q.desc 256 s = .ok (d.toNat, s1) →
      let ask := fun (op : SqOp) => sqRequest op (q.num.setWidth 64) b st s
      let refused := fun (op : SqOp) => ask op = .error (.status 1 none)
      let state := dGet d dSTATE
      let closed := fun (new : Desc) (u v : State) => sqClose st q d new u = .ok ((), v)
      let slot := fun (f : SqSlot → SqSlot) (u : State) => u.updSlot q.num f
      let ready := fun (u : State) => { slot (fun q => { q with readyAt := u.seq }) u with seq := u.seq + 1 }
      let acceptanceEnds := fun (u : State) => { slot (fun q => { q with acc := u.seq }) u with seq := u.seq + 1 }
      let event := fun (code l : Nat) (u : State) => { u with sqEvents := u.sqEvents ++ (u.contexts.filter (·.hears (dGet d dPOOL))).map fun x =>
        (x.id, BitVec.ofNat 64 (l * 2 ^ 32 + 0xFF * 2 ^ 16 + code * 2 ^ 12 + q.num.toNat)) }
      let accepted := fun (w clear : Nat) (u v : State) =>
        let w' := accKeep (setBits (BitVec.ofNat 64 w) 16 clear 0)
        (w' ≠ w → sqPut st q.atp (dAddr d dACCREC) 8 w' u = .ok ((), v)) ∧ (w' = w → v = u)
      let discarded := fun (u : State) => slot (fun q => { q with marks := [] }) (acceptanceEnds u)
      refused .admitSlot
      ∧ (¬(state = 2 ∨ state = 3 ∨ state = 4) → refused .roll) ∧ (¬(1 ≤ state ∧ state ≤ 5) → refused .preempt) ∧ (state ≠ 7 → refused .resume)
      ∧ (state ≠ 6 → refused .release)
      ∧ (state = 2 ∨ state = 3 ∨ state = 4 → ∀ (w : Nat) (s2 s3 s4 : State), sqNum q.atp (dAddr d dACCREC) 8 s1 = .ok (w, s2) → accepted w 16 s2 s3 →
        closed (dSet (dSet d dNCNT 0) dSTATE 1) (discarded s3) s4 → ask .roll = .ok (0x100000000, ready s4))
      ∧ (1 ≤ state → state ≤ 5 → ∀ s2, closed (dSet (dSet d dPSTATE state) dSTATE 7) s1 s2 → ask .preempt = .ok (0x700000000, event 6 (dGet d dL) s2))
      ∧ (state = 7 → dGet d dPSTATE = 1 ∨ dGet d dPSTATE = 3 → ∀ s2, closed (dSet d dSTATE (dGet d dPSTATE)) s1 s2 →
        ask .resume = .ok (BitVec.ofNat 64 (dGet d dPSTATE * 2 ^ 32), if dGet d dPSTATE = 1 then ready (event 7 (dGet d dL) s2) else event 7 (dGet d dL) s2))
      ∧ (state = 7 → dGet d dPSTATE = 2 → ∀ s2, closed (dSet (dSet d dNCNT 0) dSTATE 1) s1 s2 → ask .resume = .ok (0x100000000, ready (event 7 (dGet d dL) s2)))
      ∧ (state = 7 → dGet d dPSTATE = 4 → ∀ (w : Nat) (s2 s3 s4 : State), sqNum q.atp (dAddr d dACCREC) 8 s1 = .ok (w, s2) →
        sqPut st q.atp (dAddr d dACCREC) 8 (accKeep (setBits (BitVec.ofNat 64 w) 16 1 0)) s2 = .ok ((), s3) → closed (dSet d dSTATE 3) (acceptanceEnds s3) s4 →
        ask .resume = .ok (0x300000000, event 7 (dGet d dL) s4))
      ∧ (state = 7 → dGet d dPSTATE = 5 → dGet d dPCNT ≠ 0 → ∀ s2, closed (dSet d dSTATE 5) s1 s2 → ask .resume = .ok (0x500000000, event 7 (dGet d dL) s2))
      ∧ (state = 7 → dGet d dPSTATE = 5 → dGet d dPCNT = 0 → ∀ s2, closed (dSet d dSTATE 1) s1 s2 →
        ask .resume = .ok (0x100000000, event 4 (dGet d dL) (ready (event 7 (dGet d dL) s2))))
      ∧ (state = 6 → b.getLsbD 0 = false → ∀ s2, closed (dSet (dSet (dSet d dSTATE 1) dHNODE 0) dPCNT q.pending.length) s1 s2 →
        ask .release = .ok (0x100000000, ready (slot (fun x => { x with pending := q.pending, holdFrom := none }) s2)))
      ∧ (state = 6 → b.getLsbD 0 = true → ∀ s2,
        let left := match q.holdFrom with
          | some p => q.pending.filter fun (t : BitVec 20 × BitVec 32) => decide (t.2.toNat < p.toNat)
          | none => q.pending
        closed (dSet (dSet (dSet d dSTATE 8) dHNODE (dGet d dHNODE)) dPCNT left.length) s1 s2 →
        ask .release = .ok (0x800000000, event 1 (dGet d dL) (slot (fun x => { x with pending := left, holdFrom := none }) s2)))
      ∧ (∀ s2, closed (dSet (dSet d dSTATE 0) dPCNT 0) s1 s2 → ask .retire = .ok (0, { s2 with sqSlots := s2.sqSlots.filter (·.num != q.num) }))
      -- a crossing (Table 11.4)
      ∧ (∀ c : Crossing, c.slot.setWidth 12 = q.num →
        (c.node ≠ 0xFF → (state = 3 ∨ state = 4) → c.node.toNat < dGet d dNCNT → ∀ (w : Nat) (s2 s3 : State),
          sqNum q.atp (nodeAddr d c.node.toNat) 16 s1 = .ok (w, s2) → sqPut st q.atp (nodeAddr d c.node.toNat) 16 (ndSetBit w 45) s2 = .ok ((), s3) →
          sqCross c st s = .ok (0, slot (fun q => { q with marks := q.marks ++ [c] }) s3))
        ∧ (c.node ≠ 0xFF → (state ≠ 3 ∧ state ≠ 4 ∨ dGet d dNCNT ≤ c.node.toNat) → sqCross c st s = .ok (0, s1))
        ∧ (c.node = 0xFF → 1 ≤ state → state ≤ 5 → ∀ (w : Nat) (s2 s3 s4 : State), sqNum q.atp (dAddr d dACCREC) 8 s1 = .ok (w, s2) → accepted w 16 s2 s3 →
          closed (dSet (dSet (dSet d dNCNT 0) dSTATE 6) dHNODE 0xFF) (discarded s3) s4 →
          ∃ t r, sqCross c st s = .ok (0, t) ∧ t = { event 2 (dGet d dL) (slot (fun q => { q with holdFrom := some c.pos }) s4) with tevrWait := s4.tevrWait ++ [r] }
            ∧ r = BitVec.ofNat 256 (c.slot.toNat + 0xFF * 2 ^ 16 + c.set.toNat * 2 ^ 24 + c.probe.toNat * 2 ^ 32 + c.action.toNat * 2 ^ 36
              + c.layer.toNat * 2 ^ 40 + c.ctx.toNat * 2 ^ 64 + dGet d dL * 2 ^ 96))
        ∧ (c.node = 0xFF → state = 0 ∨ 5 < state → sqCross c st s = .ok (0, s1)))
      -- pending tokens (R221)
      ∧ (∀ left s2, sqDeliver st q d q.holdFrom q.pending s1 = .ok (left, s2) →
        (left.length = q.pending.length → sqMove q.num st s = .ok (0, s2))
        ∧ (left.length ≠ q.pending.length → (left ≠ [] ∨ state ≠ 5) → ∀ s3, closed (dSet d dPCNT left.length) s2 s3 →
          sqMove q.num st s = .ok (0, slot (fun q => { q with pending := left }) s3))
        ∧ (left.length ≠ q.pending.length → left = [] → state = 5 → ∀ s3, closed (dSet (dSet d dPCNT 0) dSTATE 1) s2 s3 →
          sqMove q.num st s = .ok (0, event 4 (dGet d dL) (ready (slot (fun q => { q with pending := [] }) s3)))))
      ∧ (∀ (limit : Option (BitVec 32)) (pending : List (BitVec 20 × BitVec 32)) (u u1 u2 u3 u4 u5 : State) (hd tl w : Nat),
        (sqDeliver st q d limit [] u = .ok ([], u))
        ∧ (pending ≠ [] → sqNum q.atp (dAddr d dDRING) 8 u = .ok (hd, u1) → sqNum q.atp (dAddr d dDRING + 8) 8 u1 = .ok (tl, u2) →
          sqNum q.atp (dAddr d dDRING + 16) 8 u2 = .ok (w, u3) →
          let size := 2 ^ (w % 32)
          let free := match limit with
            | some p => pending.takeWhile fun (t : BitVec 20 × BitVec 32) => decide (t.2.toNat < p.toNat)
            | none => pending
          let go := free.take (size - (tl + 2 ^ 64 - hd) % 2 ^ 64)
          (go = [] → sqDeliver st q d limit pending u = .ok (pending, u3))
          ∧ (go ≠ [] → (go.zip (List.range go.length)).forM (fun (x : (BitVec 20 × BitVec 32) × Nat) =>
              sqPut st q.atp (dAddr d dDRING + 64 + BitVec.ofNat 64 (8 * ((tl + x.2) % size))) 8 (x.1.1.toNat + x.1.2.toNat * 2 ^ 32)) u3 = .ok ((), u4) →
            sqPut st q.atp (dAddr d dDRING + 8) 8 ((tl + go.length) % 2 ^ 64) u4 = .ok ((), u5) →
            sqDeliver st q d limit pending u = .ok (pending.drop go.length, u5)))))

/-- R234 to R238, R242, R231: TAPX scores a row with each probe of its set, appends a record of the score to the privileged log and offers the crossing; it steers a
row of an admitted slot; a steered row is written back into the owner's SPM with its granules full, a tap with no row left is complete, and its event enters tapq.
(That a tap is evaluated whole as it issues is the model's reading, log 41; the firmware's addresses are device physical ones, log 28.) -/
def Obligations.TapsComplete : Prop :=
  ∀ (s : State) (t : Tap), Safety.memOk s = true → s.live = true →
    (∀ (r off : Nat) (bs : List Byte) (ws : List (Nat × Nat × List Byte)), s.findTap t.num = some (s.ctx, t) → t.writes = (r, off, bs) :: ws →
      ∃ u, exec (.steerWriteback t.num) s = .next u ∧ Stored s.ctx.spm u.ctx.spm off bs ∧ u.mem = s.mem ∧ u.ctx.rs = s.ctx.rs
        ∧ u.ctx.taps = updFirst (·.num == t.num) (fun t => { t with writes := ws }) s.ctx.taps
        ∧ ∀ g, g ∈ u.ctx.full ↔ g ∈ s.ctx.full ∨ off / 16 ≤ g ∧ g < off / 16 + granCount off bs.length)
    ∧ (s.findTap t.num = some (s.ctx, t) → t.writes = [] → exec (.tapComplete t.num) s =
      .next { s with ctx := { s.ctx with taps := updFirst (·.num == t.num) (fun t => { t with complete := true }) s.ctx.taps } })
    ∧ (∀ ts, s.ctx.taps = t :: ts → t.complete = true → s.ctx.tapq.length < 32 → exec .tapqPush s =
      .next { s with ctx := { s.ctx with tapq := s.ctx.tapq ++ [BitVec.ofNat 64 (t.num.toNat + t.status.toNat * 2 ^ 16 + t.row.toNat * 2 ^ 24)],
                                         taps := ts.filter (·.num != t.num) } })
    ∧ exec .ptsync s = .next { s with probes := (List.range 64).flatMap s.fwSet }
    -- TAPX of one row
    ∧ (∀ (g : Guard) (d a b : SReg) (h : BitVec 4) (post : Bool) (w : Nat) (ps : List (Pa × Nat)), Turn g s → Operable [a, b] [d] s →
      s.feature featTAPS = true → s.ctx.taps.length < 4 →
      let x := src [a, b] s 0
      let y := src [a, b] s 1
      let u := popped [a, b] s
      let v := s.hreg (h.setWidth 5)
      let layer := y.toNat % 128
      let len := hDim0 v
      let xs := lanesOf (hElemBits v) len (natOf (u.readPieces none ps).1)
      let ty := (rowType v).getD .f32
      let slot := w % 2 ^ 13
      let node := w / 2 ^ 16 % 256
      tapTrap h x y s = none → hDim1 v = 1 → u.rowMap x 1 = some [w] → u.mxSpan .read (rowAddr v 0) (rowLen v) = .ok ps →
      -- a row that belongs to no sequence, with one probe in the default set
      (∀ (eps : Nat) (p : Probe) (vs : List FV), slot = 0x1FFF → y.getLsbD 14 = false → u.probeSet (y.toNat / 2 ^ 8 % 64) = some ⟨len, eps, [p]⟩ →
        p.lmask / 2 ^ layer % 2 = 1 → p.action ≠ 3 → u.probeVec p.vec len = some vs →
        let raw := xs.map (valueOf ty)
        let ys := if post then normRow eps raw else raw
        let score := add32 (dotRule ys vs) p.bias
        let sc := fmtF32.decode score
        let thr := fmtF32.decode p.thr
        let crossed := sc.isNaN = true ∨ thr.isNaN = false ∧ (p.below = false ∧ 0 < FV.cmp sc thr ∨ p.below = true ∧ FV.cmp sc thr < 0)
        let offered := crossed ∧ p.action ≠ 0 ∧ s.role ≠ 1
        ∃ t z r, exec (.tapx g d h a b post) s = .next t ∧ t.rs.wait = .tapx d (decide (offered ∧ p.action = 2)) ∧ t.ctx.taps = s.ctx.taps ++ [z]
          ∧ z.num = s.ctx.csr.tapnext ∧ z.status = 0 ∧ z.writes = [] ∧ t.mem = (u.ptlogAppend r).mem
          ∧ (offered → ∃ c : Crossing, t.crossings = s.crossings ++ [c] ∧ c.slot = 0x1FFF ∧ c.node.toNat = node ∧ c.pos = BitVec.ofNat 32 (w / 2 ^ 32)
            ∧ c.set.toNat = y.toNat / 2 ^ 8 % 64 ∧ c.probe = 0 ∧ c.action = BitVec.ofNat 2 p.action ∧ c.layer.toNat = layer ∧ c.ctx = s.ctx.id)
          ∧ (¬offered → t.crossings = s.crossings)
          ∧ r = BitVec.ofNat 256 (slot + node * 2 ^ 16 + y.toNat / 2 ^ 8 % 64 * 2 ^ 24 + layer * 2 ^ 40
            + ((if crossed then 1 else 0) + (if s.role = 1 then 0 else 2) + if post then 4 else 0) * 2 ^ 64 + score * 2 ^ 96 + s.ctx.id.toNat * 2 ^ 128
            + s.ctx.csr.tapnext.toNat * 2 ^ 192))
      -- a probe whose vector cannot be read
      ∧ (∀ (eps : Nat) (p : Probe), slot = 0x1FFF → y.getLsbD 14 = false → u.probeSet (y.toNat / 2 ^ 8 % 64) = some ⟨len, eps, [p]⟩ →
        p.lmask / 2 ^ layer % 2 = 1 → p.action ≠ 3 → u.probeVec p.vec len = none →
        ∃ t z, exec (.tapx g d h a b post) s = .next t ∧ t.rs.wait = .tapx d false ∧ t.ctx.taps = s.ctx.taps ++ [z] ∧ z.status = 1 ∧ z.row = 0 ∧ z.writes = []
          ∧ t.crossings = s.crossings ∧ t.mem = (u.ptlogAppend (BitVec.ofNat 256 (slot + node * 2 ^ 16 + y.toNat / 2 ^ 8 % 64 * 2 ^ 24 + layer * 2 ^ 40
            + ((if s.role = 1 then 0 else 2) + (if post then 4 else 0) + 8) * 2 ^ 64 + 0x7FC00000 * 2 ^ 96 + s.ctx.id.toNat * 2 ^ 128
            + s.ctx.csr.tapnext.toNat * 2 ^ 192))).mem)
      -- a row of a slot that is neither FREE nor DONE, with no probe to evaluate
      ∧ (∀ dd : Desc, u.boundDesc slot = some dd →
        let st := dGet dd dSTSLOT
        let unusable := dGet dd dPROBE = 0xFF ∨ ∀ z, u.probeSet (dGet dd dPROBE) = some z → z.dmodel ≠ len
        let empty := dGet dd dPROBE ≠ 0xFF ∧ ∃ z, u.probeSet (dGet dd dPROBE) = some z ∧ z.dmodel = len ∧ z.probes = []
        let here := dGet dd dLMASK / 2 ^ layer % 2 = 1
        let taps := fun (status : BitVec 8) (writes : List (Nat × Nat × List Byte)) => ∃ t z, exec (.tapx g d h a b post) s = .next t ∧ t.rs.wait = .tapx d false
          ∧ t.ctx.taps = s.ctx.taps ++ [z] ∧ z.num = s.ctx.csr.tapnext ∧ z.status = status ∧ z.row = 0 ∧ z.writes = writes ∧ t.crossings = s.crossings
        ((st = 0xFFFF ∨ ¬here) → (unusable → taps 1 []) ∧ (empty → taps 0 []))
        ∧ (st ≠ 0xFFFF → here → s.ctx.csr.stcnt.toNat ≤ st → (unusable → taps 1 []) ∧ (empty → taps 2 []))
        ∧ (∀ (vp qs : List (Pa × Nat)) (f : FFmt), st ≠ 0xFFFF → here → st < s.ctx.csr.stcnt.toNat →
          u.mxSpan .read (s.ctx.csr.stbase.setWidth 64 + BitVec.ofNat 64 (32768 * st)) (2 * len) = .ok vp →
          (u.readPieces none vp).2.mxSpan .write (rowAddr v 0) (rowLen v) = .ok qs → EType.fmt? ty = some f →
          let vs := lanesOf 16 len (natOf (u.readPieces none vp).1)
          let element := fun k => bytesOf (hElemBits v / 8) (roundTo f false .rne
            (FV.fma false (fmtF32.decode (dGet dd dALPHA)) (fmtBF16.decode (vs.getD k 0)) (f.decode (xs.getD k 0))).1).1
          let row := (List.range len).flatMap element
          (unusable → taps 1 (spmPieces 0 qs row)) ∧ (empty → taps 0 (spmPieces 0 qs row)))))
    -- a record of the privileged log
    ∧ (∀ (r : BitVec 256) (bs : List Byte),
      let ring := (s.ptlog.extractLsb' 0 48).toNat
      let size := 2 ^ (s.ptlog.extractLsb' 48 5).toNat
      let hd := natOf (bs.take 8)
      let tl := natOf ((bs.drop 8).take 8)
      let lost := natOf ((bs.drop 16).take 8)
      let full := size ≤ (tl + 2 ^ 64 - hd) % 2 ^ 64
      s.fwRead ring 24 = some bs → ring + 64 + 32 * size ≤ 0x8000000000 → s.kvAny = false →
        ∃ m0 m1 m2, (full → Stored s.mem m0 ring (bytesOf 8 (hd + 1)) ∧ Stored m0 m1 (ring + 16) (bytesOf 8 (lost + 1))) ∧ (¬full → m1 = s.mem)
          ∧ Stored m1 m2 (ring + 64 + 32 * (tl % size)) (bytesOf 32 r.toNat) ∧ Stored m2 (s.ptlogAppend r).mem (ring + 8) (bytesOf 8 (tl + 1)))

/-! ### The dispatcher -/

/-- R32, R34 to R38, R40, R46, R55, Tables 2.3 and 2.4: a record is taken from a running queue by the KDS of its home die, becomes ready as its dependences are met,
is placed on the cores that fit with IDs that no live domain holds, and its first context starts with the state of Table 2.4; a record that cannot be read, or
that fails a check, stops the queue. (IDs are free picks, log 5; the lowest of several error codes is the model's choice, log 49, and other readings of the
queue stand in log 36; which banks a context takes, its residency fields and the banks counted for a preload rest on log 53.) -/
def Obligations.LaunchAndPlacement : Prop :=
  ∀ (s : State),
    (∀ (hdr atp : Word) (home : BitVec 3), s.host.devst ≠ 3 ∨ s.watches hdr atp home = false → exec (.launchTake hdr ⟨atp, home⟩) s = .next s)
    ∧ (∀ (hdr atp : Word) (home : BitVec 3) (h q : Nat) (s1 : State), s.host.devst = 3 → s.watches hdr atp home = true → s.kdsRead atp hdr 64 = some h →
      bitsOf h 256 8 = 0 → bitsOf h 128 64 ≠ bitsOf h 192 64 → s.queueIndex hdr atp home = (q, s1) →
      let head := bitsOf h 128 64
      let tail := bitsOf h 192 64
      let size := 2 ^ bitsOf h 64 5
      let record := s1.kdsRead atp (BitVec.ofNat 64 (bitsOf h 0 48 + 128 * (head % size))) 128
      (record = none → exec (.launchTake hdr ⟨atp, home⟩) s = .next (s1.stopQueue hdr atp head 8))
      ∧ (∀ r, record = some r →
        let k := Kernel.fresh (s1.kernels.length + 1) q atp (BitVec.ofNat 1024 r)
        let e := s1.launchError k (bitsOf h 72 3) (decide (size < (tail + 2 ^ 64 - head) % 2 ^ 64)) (s1.taskTable atp k.ttab k.ntask)
        (e ≠ 0 → exec (.launchTake hdr ⟨atp, home⟩) s = .next (s1.stopQueue hdr atp head e))
        ∧ ∀ t, e = 0 → s1.kdsWrite atp (hdr + 16) 8 (head + 1) = some t → ∃ u, exec (.launchTake hdr ⟨atp, home⟩) s = .next u ∧ { u with kernels := t.kernels } = t
          ∧ ∃ k', u.kernels = t.kernels ++ [k'] ∧ k'.id = s1.kernels.length + 1 ∧ k'.st = .waiting ∧ k'.record = BitVec.ofNat 1024 r ∧ k'.atp = atp))
    ∧ (∀ k : Kernel, s.findKernel k.id = some k → k.st = .waiting →
      ((∀ i < k.ndep, s.depMet k i = true) → (∀ x ∈ s.kernels, x.queue = k.queue → x.order < k.order → x.st ≠ .waiting) →
        ∃ t, exec (.dependenceCheck k.id) s = .next t ∧ t.findKernel k.id = some { k with st := .ready } ∧ { t with kernels := s.kernels } = s)
      ∧ ((∃ i < k.ndep, s.depMet k i = false) → exec (.dependenceCheck k.id) s = .next s))
    ∧ (∀ (k : Kernel) (ids : List Nat × List Nat × Nat), s.idsFor k = some ids → ids.1.length = k.dies * k.cpd ∧ ids.2.1.length = k.dies
      ∧ (∀ i ∈ ids.1, 1 ≤ i ∧ i ≤ 255 ∧ ∀ x ∈ s.kernels, x.st = .placed → i ∉ x.clusterIds)
      ∧ (∀ i ∈ ids.2.1, 1 ≤ i ∧ i ≤ 255 ∧ ∀ x ∈ s.kernels, x.st = .placed → i ∉ x.dieIds)
      ∧ 1 ≤ ids.2.2 ∧ ids.2.2 ≤ 255 ∧ ∀ x ∈ s.kernels, x.st = .placed → ids.2.2 ≠ x.packageId)
    ∧ (∀ (k : Kernel) (cores : List Nat) (ids : List Nat × List Nat × Nat) (id : Nat), s.findKernel k.id = some k → s.fit k = some cores → s.turn k = true →
      s.idsFor k = some ids → firstFree (s.contexts.map (·.id.toNat)) (2 ^ 16) (Config.pick (s.draws + 3)) (s.contexts.length + 1) = some id →
      (s.coreNum.toNat ∉ cores → ∃ t, exec (.placement k.id) s = .next t
        ∧ t.findKernel k.id = some { k with st := .placed, cores := cores, live := cores, placedAt := s.seq, targets := [], clusterIds := ids.1,
                                            dieIds := ids.2.1, packageId := ids.2.2 }
        ∧ t.ctx = s.ctx ∧ t.live = s.live ∧ t.mem = s.mem)
      ∧ (s.coreNum.toNat ∈ cores → s.live = false → s.mode = .u → s.preloaded = none → k.mimg = 0 → (k.entry 1).2.1 = 0 →
        ∃ t, exec (.placement k.id) s = .next t ∧ t.live = true ∧ t.mode = .u ∧ t.mem = s.mem ∧ t.ctx.load = .none ∧ t.ctx.task = 1
          ∧ t.ctx.id = BitVec.ofNat 16 id ∧ t.ctx.csr.atp = k.atp ∧ t.ctx.csr.dmr = dmrOf k cores s.coreNum.toNat ids ∧ t.ctx.rs.pc = (k.entry 1).1 ∧ t.ctx.rs.tick = 0
          ∧ (∀ n : SReg, (t.ctx.rs.s[n.toNat] : Word) = if n = 1 then k.args else if n = 2 then BitVec.ofNat 64 (rankOf cores s.coreNum.toNat)
              else if n = 3 then BitVec.ofNat 64 cores.length else if n = 50 then 1 else 0)
          ∧ (∀ h : HReg, (t.ctx.rs.h[h.toNat] : Handle) = 0) ∧ t.ctx.spm = [] ∧ t.ctx.full = [] ∧ t.ctx.csr.fpcsr = 0 ∧ t.ctx.bankSet = true
          ∧ t.ctx.spmRes = k.spmb ∧ t.ctx.acmRes = t.ctx.acmBanks))
    ∧ (∀ k : Kernel, s.findKernel k.id = some k → k.pld = true → k.st = .ready ∨ k.st = .waiting → s.preloaded = none → s.live = true →
      let used := (s.contexts.map (·.spmRes)).foldl (fun a b => a + b) 0
      let warmed := fun (t : State) => { t with preloaded := none, icache := s.icache, draws := s.draws } = s
        ∧ ∀ p, s.translate k.atp .u .exec false (k.entry 1).1 32 = .ok p → s.lostAt (p.pa.toNat / 32 * 32) 32 = false →
          ∃ l ∈ t.icache, l.pa.toNat = p.pa.toNat / 32 * 32
      (32 < used + k.spmb → ∃ t, exec (.preload k.id) s = .next t ∧ t.preloaded = some ⟨k.id, 0, [], []⟩ ∧ warmed t)
      ∧ (∀ m g, used + k.spmb ≤ 32 → s.spmImage k.atp (k.entry 1).2.1 (k.entry 1).2.2 = .ok (m, g) →
        ∃ t, exec (.preload k.id) s = .next t ∧ t.preloaded = some ⟨k.id, k.spmb, m, g⟩ ∧ warmed t))

/-- R39, R49, R52, R53, R56, R57, R249, R250: pre-emption and the quantum change the running context, an overrun and a decision put a notice to the supervisor,
and the supervisor's answer resumes, kills or restarts the context. (That the decision is the supervisor's or not is free, log 5; that a preload is kept at a
CTXCMD kill and dropped at a rerun, log 52; the residency fields, log 53; how notices and commands take effect, log 37.) -/
def Obligations.ContextsSwitch : Prop :=
  ∀ (s : State),
    (∀ (k : Kernel) (cores : List Nat) (ids : List Nat × List Nat × Nat) (id : Nat), s.findKernel k.id = some k → s.turn k = true → s.fit k = none →
      s.idsFor k = some ids → firstFree (s.contexts.map (·.id.toNat)) (2 ^ 16) (Config.pick (s.draws + 3)) (s.contexts.length + 1) = some id →
      s.preemptPlan k = some cores →
      (s.coreNum.toNat ∉ cores → ∃ t, exec (.preemption k.id) s = .next t
        ∧ t.findKernel k.id = some { k with st := .placed, cores := cores, live := cores, placedAt := s.seq, targets := [], clusterIds := ids.1,
                                            dieIds := ids.2.1, packageId := ids.2.2 } ∧ t.ctx = s.ctx ∧ t.mem = s.mem)
      ∧ (s.coreNum.toNat ∈ cores → s.live = true → s.switchable = true → ∃ t, exec (.preemption k.id) s = .next t
        ∧ (t.mode = .s ∧ t.trap.tval = 2 ∧ t.trap.tcause = 0 ∧ t.ctx.csr = s.ctx.csr ∧ t.mem = s.mem
          ∨ t = ({ s with draws := s.draws + 1 }.switchOut none).placeOn k cores))
      ∧ (s.coreNum.toNat ∈ cores → s.live = true → s.switchable = false → exec (.preemption k.id) s = .next s.prepare))
    ∧ (s.live = true → s.nextCtx (fun c => decide (s.ctx.effClass ≤ c.effClass)) = none → exec .quantumExpiry s = .next s)
    ∧ (∀ c : Ctx, s.live = true → s.switchable = true → s.parked = [c] → c.id ≠ s.ctx.id → c.load = .none →
      c.csr.msimg = 0 → s.nextCtx (fun c => decide (s.ctx.effClass ≤ c.effClass)) = some c → (∀ b ∈ c.acmBanks, b ∈ c.acmRes ∨ b ∉ s.ctx.acmRes) →
      ∃ t, exec .quantumExpiry s = .next t ∧ t.live = true
        ∧ t.ctx = { c with sleep := none, pend := [], bankSet := true, acmRes := c.acmBanks, spmRes := c.spmBanks, rs := c.rs.resend c.csr.atp }
        ∧ t.pending = c.pend ∧ t.wctx = c.id
        ∧ t.mem = s.mem ∧ ∃ p, t.parked = [p] ∧ p.id = s.ctx.id ∧ p.rs.s = s.ctx.rs.s ∧ p.rs.h = s.ctx.rs.h ∧ p.rs.tick = s.ctx.rs.tick
          ∧ p.rs.pc = s.ctx.rs.pc ∧ p.csr = s.ctx.csr ∧ p.spm = s.ctx.spm ∧ p.acm = s.ctx.acm ∧ p.pend = s.pending)
    ∧ (∀ k : Kernel, s.kernelOf s.ctx = some k →
      (s.switchable = true → k.tlim ≠ 0 → k.tlim < s.ctx.runTime → ∃ t, exec .tlimOverrun s = .next t ∧ t.mode = .s ∧ t.trap.tcause = 0
        ∧ t.trap.tval = 1 ∧ t.trap.ctxsel = s.ctx.id.setWidth 22 ∧ t.trap.busy = true ∧ t.sup.pc = s.trap.tvec.setWidth 64
        ∧ t.ctx.rs.s = s.ctx.rs.s ∧ t.ctx.rs.h = s.ctx.rs.h ∧ t.ctx.csr = s.ctx.csr ∧ t.mem = s.mem)
      ∧ (s.ctx.runTime ≤ k.tlim ∨ k.tlim = 0 → exec .tlimOverrun s = .next s))
    ∧ (∃ t, exec .ageTick s = .next t ∧ t.mem = s.mem
      ∧ t.kernels.map (·.age) = s.kernels.map (fun k => if k.st = .ready then k.age + 1 else k.age)
      ∧ t.ctx = { s.ctx with runTime := if s.live = true ∧ s.mode = .u then s.ctx.runTime + 1 else s.ctx.runTime })
    ∧ (s.mode = .s → s.trap.tcause.extractLsb' 0 8 = 0 → s.ctx.load = .none → s.ctx.csr.msimg = 0 →
      (∃ t, exec .ctxcmdResume s = .next t ∧ t.mode = .u ∧ t.ctx = { s.ctx with runTime := 0, rs := s.ctx.rs.resend s.ctx.csr.atp } ∧ t.trap.busy = false ∧ t.mem = s.mem)
      ∧ (s.live = true → s.parked = [] → ∃ t, exec .ctxcmdKill s = .next t ∧ t.mode = .u
          ∧ t.live = false ∧ t.trap.busy = false ∧ t.preloaded = s.preloaded)
      ∧ (∀ k, s.live = true → s.kernelOf s.ctx = some k → s.ctx.txn = none → k.mimg = 0 → (k.entry 1).2.1 = 0 → ∃ t, exec .ctxcmdRerun s = .next t
          ∧ t.mode = .u ∧ t.ctx.id = s.ctx.id ∧ t.ctx.task = 1 ∧ t.ctx.rs.pc = (k.entry 1).1 ∧ t.ctx.rs.s[1] = k.args ∧ t.preloaded = none ∧ t.mem = s.mem))
    ∧ (s.mode = .u → exec .ctxcmdResume s = .next s ∧ exec .ctxcmdKill s = .next s ∧ exec .ctxcmdRerun s = .next s)

/-- R33, R45, R48: once every core of a kernel has retired its result word is written and DONE rises by 1; nothing else is stored. As the task of another core ends,
that core retires with the first abnormal result kept, and the domains it shares with the context here shrink where it leaves them, or break; of a member of
another package, which is no core of this one, that is level 5 alone. (How ends of other cores enter, log 42; what they do to arrivals ahead, log 37.) -/
def Obligations.KernelsEnd : Prop :=
  ∀ (s : State) (k : Kernel) (base : Nat) (ps : List (Pa × Nat)), Safety.memOk s = true → s.findKernel k.id = some k → k.st = .placed →
    (k.live = [] → s.span k.atp .s .write k.done 16 = .ok ps → Laid s base k.done 16 ps → ∃ t, exec (.kernelEnd k.id none) s = .next t
      ∧ Stored s.mem t.mem base (bytesOf 8 ((Memory.num s.mem base 8 + 1) % 2 ^ 64) ++ bytesOf 8 k.result.toNat)
      ∧ t.findKernel k.id = some { k with st := .ended } ∧ t.ctx = s.ctx)
    ∧ (s.coreNum.toNat ∈ k.live → exec (.kernelEnd k.id none) s = .next s)
    ∧ (∀ m : MemberEnd, m.elsewhere = false → m.core ∈ k.live → m.core ≠ s.coreNum.toNat → ∃ t, exec (.kernelEnd k.id (some m)) s = .next t
      ∧ t.findKernel k.id = some { k with live := k.live.filter (· != m.core), result := if k.result = 0 then m.result else k.result }
      ∧ (s.ctx.kernel = k.id → ∀ l : Fin 6, shares l.val s.coreNum.toNat m.core = true → s.ctx.doms[l].exp ≠ 0 →
        (m.leave = false → t.ctx.doms[l] = { s.ctx.doms[l] with broken := true })
        ∧ (m.leave = true → m.arrived.getLsbD l.val = true → t.ctx.doms[l] = { s.ctx.doms[l] with
            pendingLeave := s.ctx.doms[l].pendingLeave + 1, near := s.ctx.doms[l].near - 1 })
        ∧ (m.leave = true → m.arrived.getLsbD l.val = false → s.ctx.doms[l].arrived < s.ctx.doms[l].exp.toNat - 1 →
          t.ctx.doms[l] = { s.ctx.doms[l] with exp := s.ctx.doms[l].exp - 1 }))
      ∧ (s.ctx.kernel ≠ k.id → t.ctx = s.ctx) ∧ t.mem = s.mem)
    ∧ (∀ m : MemberEnd, m.elsewhere = true → 1 < k.gcnt → s.ctx.kernel = k.id → ∃ t, exec (.kernelEnd k.id (some m)) s = .next t ∧ t.kernels = s.kernels
      ∧ (∀ l : Fin 6, l.val ≠ 5 → t.ctx.doms[l] = s.ctx.doms[l])
      ∧ (s.ctx.doms[5].exp ≠ 0 → m.leave = false → t.ctx.doms[5] = { s.ctx.doms[5] with broken := true })
      ∧ (s.ctx.doms[5].exp ≠ 0 → m.leave = true → m.arrived.getLsbD 5 = true →
        t.ctx.doms[5] = { s.ctx.doms[5] with pendingLeave := s.ctx.doms[5].pendingLeave + 1 }))
    ∧ ∀ m : MemberEnd, m.elsewhere = true → k.gcnt ≤ 1 → exec (.kernelEnd k.id (some m)) s = .next s

/-! ### A step -/

/-- R58, R60, R65, R67, R74, R107, R204, R245, R294, Table 3.2: a step takes the oldest step from outside that can be taken: a frozen package takes only what works
without its clock, and a message waits while msgin is full. With none, and no result or request of an earlier bundle in the way, the core fetches the bundle at its
program counter: a fetch fault, a fate of decoding or the bundle's trap is raised; an instruction that awaits earlier results lets an empty tick pass; otherwise the
instructions that the bundle holds run and the tick ends. (Model's readings: that steps from outside go first and another agent's request waits in that list, log 1;
which steps work while the package is frozen, log 24; that the core moves before the engines while it has led them by at most 15 moves, log 5.) -/
def Obligations.StepRunsDecoded : Prop :=
  ∀ (s : State),
    (∀ i pre post, s.agenda = pre ++ i :: post → (∀ x ∈ pre, s.takeable x = false) → s.takeable i = true →
      step s = exec i { s.noteWakes with agenda := pre ++ post })
    ∧ (∀ i, (∀ a p, i ≠ .messageDelivery false a p) → (∀ act, i ≠ .requestAccepted (.foreign act)) → s.takeable i = (!s.host.frozen || worksFrozen i))
    ∧ (∀ a p, s.takeable (.messageDelivery false a p) = (!s.host.frozen && s.messageRoom))
    ∧ (∀ act, s.takeable (.requestAccepted (.foreign act)) = (!s.host.frozen && s.foreignReady act))
    ∧ (s.host.frozen = true → (∀ i ∈ s.agenda, worksFrozen i = false) → step s = .next s)
    ∧ (∀ n : State, n = s.noteWakes → s.host.frozen = false → (∀ i ∈ s.agenda, s.takeable i = false) → s.lead ≤ 15 →
      (n.mode = .u → n.live = true ∧ n.ctx.load = .none) → n.pending = [] → n.rs.mid = false → n.rs.due = [] → (n.rs.wait = .none ∨ ∃ e, n.rs.wait = .emptyUntil e) →
      let moves := fun (t : State) => step s = .next { t with lead := t.lead + 1 }
      (∀ f, n.fetch n.rs.pc = .error f → moves (n.raise f))
      ∧ ∀ (w : BundleBits) (s' : State), n.fetch n.rs.pc = .ok (w, s') →
        (∀ f, decodeBundle w = .error f → moves (s'.raise (s'.fateTrap w f)))
        ∧ ∀ b : Bundle, decodeBundle w = .ok b →
          (∀ e, s'.awaited b = some e → (∀ x, s'.xposeTrap = some x → moves ((s'.setRs { s'.rs with wait := .emptyUntil e }).raiseAt x))
            ∧ (s'.xposeTrap = none → s'.tickHeld = false → moves (s'.setRs { s'.rs with wait := .emptyUntil e }).emptyTick))
          ∧ (s'.awaited b = none →
            (∀ f, s'.bundleTrap w b = some f → moves (s'.raiseAt f))
            ∧ (s'.bundleTrap w b = none → s'.power.droop = false → s'.settlingHold = false → s'.xposeReady = true →
              let t := (s'.setRs { s'.rs with npc := s'.rs.pc + 32, wait := .none }).xposeTake
              let judged := fun (u : State) => match b.request with
                | some r => (u.after r).getD u
                | none => u
              (b.request = none → (∀ i ∈ b.slots, isNop i = true) → moves (s'.issued t))
              ∧ (∀ (r : Instr) (u : State), b.request = some r → (∀ i ∈ b.slots, isNop i = true) → exec r t = .next u → moves (s'.issued u))
              ∧ (∀ (i : Instr) (g : Guard) (m : Slot) (pre post : List Instr) (u : State), b.request = none → b.slots = pre ++ i :: post →
                (∀ x ∈ pre ++ post, isNop x = true) → meaningOf i = some (g, m) → guardOn g s' = true →
                m.trap t = none → m.hold t = false → exec i t = .next u → moves (s'.issued u))
              ∧ (∀ u, s'.runBundle b.slots judged t = .acted u → moves (s'.issued u))
              ∧ ∀ x, s'.runBundle b.slots judged t = .trapped x → moves (s'.raise x))))
    ∧ (∀ (u v : State) (g : State → State) (is : List Instr), (∀ i ∈ is, actsLast i = false) → s.runSlots is u = .acted v → s.runBundle is g u = .acted (g v))
    ∧ ∀ u : State, (u.mode ≠ s.mode → s.issued u = { u with power := u.power.tickWindow s.tickName })
      ∧ (u.mode = s.mode → u.rs.wait = .none → s.issued u =
        (let v := u.setRs { u.rs with cur := u.rs.pc, pc := u.rs.npc }
         { v with trap := { v.trap with skipBreak := false } }).boundary)

/-! ### Encodings -/

/-- R295 to R303, Tables 8.6, 9.1, 9.5, 16.1 to 16.8: the worked bundle of the manual and one word of each family, written field by field. -/
def Obligations.DecodeWords : Prop :=
  decodeBundle 0xD008045187000000_0020214200000000_0000000000000000_0000242B80000000#256
      = .ok ⟨some (.oppRequest 5), [.add 2 5 6 7, .vadd .v0 0 .f32 1 2 33, .vnop .v1 0, .mnop 0, .cnop .c0 0,
          .cpy .c1 0 4 5 3 true 0 false false, .xnop 0]⟩
    ∧ decodeBundle 0 = .ok ⟨none, [.nop 0, .vnop .v0 0, .vnop .v1 0, .mnop 0, .cnop .c0 0, .cnop .c1 0, .xnop 0]⟩
    -- SI: cmpi.ltu s9, s4, -3 under g17 negated
    ∧ decodeS 0b110001_00100111_001001_000100_0100_1_1111111111111111111111101#56 = .ok (.cmpi 0x31 true 9 4 .ltu (-3))
    -- SL: ld.w s7, [s8 - 4], sx, acq, scope 2, lat field 0x14
    ∧ decodeS 0b000000_01000000_000111_001000_1111111111111100_10_1_01_010_010100#56 = .ok (.ld 0 7 8 (-4) .w true .acq 2 0x14)
    -- SA: amo.maxu.d s3, [s4], s5, acqrel, scope 3, lat field 0x12
    ∧ decodeS 0b000000_01000100_000011_000100_000101_001000_0_000_11_0_11_011_010010#56 = .ok (.amo 0 3 4 5 .maxu .d .acqrel 3 0x12)
    -- SB: br.gez s6, -1
    ∧ decodeS 0b000000_01010000_100_000_000110_111111111111111111111111111111#56 = .ok (.br 0 .gez 6 (-1))
    -- SX: csrw DMR, s2
    ∧ decodeS 0b000000_01100001_000000_000010_000000010000_000000000000000000#56 = .ok (.csrw 0 2 0x010)
    -- SH: hset h11.nslot, s12
    ∧ decodeS 0b000000_01110010_000000_001100_01011_00000_00001010_000_000_000000#56 = .ok (.hset 0 11 12 .nslot)
    -- V1: vcvt.bf16 v3, v4, f32, rdn
    ∧ decodeV .v1 0b000000_01101_001_00011_000100_000_010_00000#36 = .ok (.vcvt .v1 0 .bf16 3 4 .rdn .f32)
    -- M: mcall 7, version 9, a5, bump
    ∧ decodeM 0b000000_01_00000111_00001001_101_00_0_1_0#32 = .ok (.mcall 0 7 9 5 false true false)
    -- C0: cpyr.max h1, h2, counter 6
    ∧ decodeC .c0 0b000000_00010_00001_00010_110_0_000_0111#32 = .ok (.cpyr .c0 0 1 2 6 false .max)
    -- X: xcvt v8 from v9, pair 2, high half
    ∧ decodeX 0b000000_0010_01000_01001_1010#24 = .ok (.xcvt 0 8 9 2 true)

/-- R296 to R303: the word of every well-formed instruction, with every operand at every value, decodes to that instruction. -/
def Obligations.EncodeDecode : Prop :=
  ∀ (i : Instr) (e : Enc), i.wf = true → encode i = some e → e.decode = .ok i

/-- R296 to R303: what a word decodes to is well formed and is encoded by that word alone: no bit of a word is ignored. -/
def Obligations.DecodeEncode : Prop :=
  ∀ (i : Instr) (e : Enc), e.decode = .ok i → i.wf = true ∧ encode i = some e

/-- R296, R298 to R303, R266: the fates of encodings that no instruction has: an unassigned opcode is ILLOP, a nonzero reserved field of an assigned one ILLSLOT, and of
a bundle's fates the first ILLSLOT is found before the first ILLOP. -/
def Obligations.FatesOfEncodings : Prop :=
  (∀ w : BitVec 56, let op := (w.extractLsb' 42 8).toNat
    ((0x1A ≤ op ∧ op ≤ 0x1F) ∨ (0x2A ≤ op ∧ op ≤ 0x2F) ∨ (0x38 ≤ op ∧ op ≤ 0x3F) ∨ (0x49 ≤ op ∧ op ≤ 0x4F) ∨ op = 0x5F ∨ (0x67 ≤ op ∧ op ≤ 0x6F)
      ∨ op = 0x7E ∨ op = 0x7F ∨ op = 0x87 ∨ (0x8A ≤ op ∧ op ≤ 0x8F) ∨ op = 0x96 ∨ op = 0x97 ∨ 0x9A ≤ op → decodeS w = .error .illop)
    ∧ ((op = 0x00 ∨ op = 0x53 ∨ op = 0x58 ∨ op = 0x5B ∨ op = 0x5C ∨ op = 0x5E ∨ op = 0x81 ∨ op = 0x84) → w.extractLsb' 0 42 ≠ 0 → decodeS w = .error .illslot)
    ∧ (((0x01 ≤ op ∧ op ≤ 0x12) ∨ (0x30 ≤ op ∧ op ≤ 0x32) ∨ op = 0x34 ∨ op = 0x35 ∨ op = 0x90) → w.extractLsb' 0 24 ≠ 0 → decodeS w = .error .illslot)
    ∧ ((op = 0x13 ∨ op = 0x14 ∨ op = 0x93 ∨ op = 0x94) → w.extractLsb' 0 30 ≠ 0 → decodeS w = .error .illslot)
    ∧ ((0x24 ≤ op ∧ op ≤ 0x26) → w.extractLsb' 6 24 ≠ 0 → decodeS w = .error .illslot)
    ∧ (op = 0x50 → w.extractLsb' 36 3 = 0 → w.extractLsb' 39 3 = 7 → decodeS w = .error .illop)
    ∧ ((op = 0x41 ∨ op = 0x43) → w.extractLsb' 0 6 ≠ 0 → decodeS w = .error .illslot))
  ∧ (∀ (k : VSlot) (w : BitVec 36), let op := (w.extractLsb' 25 5).toNat
    (28 ≤ op → decodeV k w = .error .illop)
    ∧ (op = 0 → w.extractLsb' 0 25 ≠ 0 → decodeV k w = .error .illslot)
    ∧ ((op ∈ [7, 8, 9, 10, 11, 12, 21, 22, 23, 26]) → w.extractLsb' 0 11 ≠ 0 → decodeV k w = .error .illslot)
    ∧ ((op ∈ [9, 10, 11, 12]) → w.extractLsb' 0 11 = 0 → 3 ≤ (w.extractLsb' 22 3).toNat → decodeV k w = .error .illop)
    ∧ ((op = 19 ∨ op = 20) → w.extractLsb' 0 5 = 0 → (w.extractLsb' 22 3).toNat < 3 → decodeV k w = .error .illop))
  ∧ (∀ w : BitVec 32, (2 ≤ (w.extractLsb' 24 2).toNat → decodeM w = .error .illop)
    ∧ (w.extractLsb' 24 2 = 0 → w.extractLsb' 0 24 ≠ 0 → decodeM w = .error .illslot)
    ∧ (w.extractLsb' 24 2 = 1 → w.extractLsb' 3 2 ≠ 0 → decodeM w = .error .illslot)
    ∧ ∀ c, (12 ≤ (w.extractLsb' 21 5).toNat → decodeC c w = .error .illop)
      ∧ (w.extractLsb' 21 5 = 0 → w.extractLsb' 0 21 ≠ 0 → decodeC c w = .error .illslot)
      ∧ (w.extractLsb' 21 5 = 2 → w.extractLsb' 4 3 = 0 → (w.extractLsb' 0 4 = 0 ∨ 10 ≤ (w.extractLsb' 0 4).toNat) → decodeC c w = .error .illop))
  ∧ (∀ w : BitVec 24, (5 ≤ (w.extractLsb' 14 4).toNat → decodeX w = .error .illop)
    ∧ (w.extractLsb' 14 4 = 1 → w.extractLsb' 2 2 ≠ 0 → decodeX w = .error .illslot)
    ∧ (w.extractLsb' 14 4 = 1 → w.extractLsb' 0 4 = 3 → decodeX w = .error .illop))
  ∧ (∀ w : BitVec 8, (w.extractLsb' 0 4 ≠ 0 ∨ (w.getLsbD 7 = false ∧ w.extractLsb' 4 3 ≠ 0)) → decodeHeader w = .error .illslot)
  ∧ ∀ (w : BundleBits), let p := Slots.ofBundle w
    (decodeHeader p.header = .error .illslot → decodeBundle w = .error ⟨7, p.header.setWidth 64, .illslot⟩)
    ∧ (∀ r, decodeHeader p.header = .ok r → decodeS p.s = .error .illop → decodeX p.x = .error .illslot → decodeV .v0 p.v0 ≠ .error .illslot →
        decodeV .v1 p.v1 ≠ .error .illslot → decodeM p.m ≠ .error .illslot → decodeC .c0 p.c0 ≠ .error .illslot → decodeC .c1 p.c1 ≠ .error .illslot →
        decodeBundle w = .error ⟨6, p.x.setWidth 64, .illslot⟩)

/-! ### Every state, and the first -/

/-- Every step keeps every memory of the machine in its canonical form: addresses strictly rising and no listed byte zero. (That an unlisted byte reads as 0 is
the model's choice, log 2.) -/
def Obligations.MemoriesStayCanonical : Prop :=
  ∀ (s t : State), Safety.memOk s = true → step s = .next t → Safety.memOk t = true

/-- Tables 2.5, 3.5, 4.2, 5.2, 7.1, 8.1, 8.2, 9.2, 9.3, 10.2, 11.2, 12.2, 13.1, 14.2, 15.1, R148, R264: what reset leaves: the values that the register tables give,
memories in their canonical form. -/
def Obligations.ResetState : Prop :=
  let s := State.reset
  Safety.memOk s = true
    ∧ (∀ n ∈ [0x008, 0x050, 0x100, 0x101, 0x102, 0x200, 0x201, 0x202, 0x203, 0x204, 0x205, 0x206, 0x207, 0x210, 0x211, 0x212, 0x213, 0x214, 0x215, 0x216, 0x217,
        0x300, 0x301, 0x302, 0x303, 0x304, 0x305, 0x306, 0x307, 0x308, 0x309, 0x310, 0x320, 0x321, 0x322, 0x323, 0x324, 0x400, 0x401, 0x402, 0x404,
        0x410, 0x411, 0x412, 0x500, 0x501, 0x502, 0x503, 0x504, 0x505, 0x506, 0x507, 0x508, 0x509, 0x50B], csrValue s s.ctx n = 0)
    ∧ csrValue s s.ctx 0x010 = 3 ∧ csrValue s s.ctx 0x403 = 0x7770
    ∧ (∀ h : HReg, (s.ctx.rs.h[h.toNat] : Handle) = 0) ∧ (∀ k : Fin 8, s.ctx.mp[k] = 0)
    ∧ s.ptbase = 0 ∧ s.ptlog = 0 ∧ (∀ k : Fin 8, s.bde[k].kverr = 0 ∧ s.power.pwt[k] = 0) ∧ s.power.floor = 0 ∧ s.power.pbgnt = 0
    ∧ s.host.devst = 0 ∧ s.host.apbase = 0 ∧ s.host.facc = 0 ∧ s.host.pkgno = 0 ∧ s.host.vpool = 0 ∧ s.host.stg = 0 ∧ s.host.booterr = 0
    ∧ s.host.intst = 0 ∧ s.host.inten = 0
    ∧ s.power.point = 0 ∧ s.vsuLast = 0
end

