-- ==== Sys2Proof/Laws/Memory.lean ====
section
/-! SUPPORT. What the memory operations do: reads after writes, and that every operation keeps the canonical form. -/

namespace Sys2Proof.Laws

open Sys2Proof.Machine Sys2Proof.Claims

theorem wf_tail {c : Nat × Byte} {m : Mem} (h : Memory.wf (c :: m) = true) : Memory.wf m = true := by
  cases m with
  | nil => rfl
  | cons d m => simp only [Memory.wf, Bool.and_eq_true] at h; exact h.2

theorem wf_head {k : Nat} {v : Byte} {m : Mem} (h : Memory.wf ((k, v) :: m) = true) : v ≠ 0 := by
  cases m with
  | nil => simpa [Memory.wf] using h
  | cons d m => obtain ⟨k', v'⟩ := d; simp [Memory.wf] at h; simpa using h.1.1

/-- Below the first listed address nothing is listed. -/
theorem get_below {m : Mem} {k : Nat} {v : Byte} (h : Memory.wf ((k, v) :: m) = true) {x : Nat} (hx : x ≤ k) : Memory.get m x = 0 := by
  cases m with
  | nil => rfl
  | cons d m =>
    obtain ⟨k', v'⟩ := d
    simp [Memory.wf] at h
    have : x < k' := by omega
    simp [Memory.get, this, Nat.ne_of_lt this]

theorem wf_cons_iff {k : Nat} {v : Byte} {m : Mem} :
    Memory.wf ((k, v) :: m) = true ↔ v ≠ 0 ∧ (∀ c ∈ m.head?, k < c.1) ∧ Memory.wf m = true := by
  cases m with
  | nil => simp [Memory.wf]
  | cons d m => obtain ⟨k', v'⟩ := d; simp [Memory.wf, and_assoc]

theorem head_set {m : Mem} {a k : Nat} {b : Byte} (h : ∀ c ∈ m.head?, k < c.1) (ha : k < a) :
    (∀ c ∈ (Memory.set m a b).head?, k < c.1) ∨ Memory.wf m = false := by
  cases m with
  | nil => left; simp only [Memory.set]; split <;> simp [ha]
  | cons d m =>
    obtain ⟨k', v'⟩ := d
    have hk : k < k' := h _ rfl
    simp only [Memory.set]
    split
    · left; split <;> simp [ha, hk]
    · split
      · split
        · cases hw : Memory.wf ((k', v') :: m) with
          | false => exact .inr rfl
          | true => left; intro c hc; have := (wf_cons_iff.mp hw).2.1 c hc; omega
        · left; simp [ha]
      · left; simp [hk]

theorem set_wf {m : Mem} (h : Memory.wf m = true) (a : Nat) (b : Byte) : Memory.wf (Memory.set m a b) = true := by
  induction m with
  | nil => simp only [Memory.set]; split <;> simp_all [Memory.wf]
  | cons d m ih =>
    obtain ⟨k, v⟩ := d
    have ht := wf_tail h
    obtain ⟨hv, hh, -⟩ := wf_cons_iff.mp h
    simp only [Memory.set]
    split
    · split
      · exact h
      · exact wf_cons_iff.mpr ⟨by assumption, by simpa, h⟩
    · split
      · rename_i e; subst e
        split
        · exact ht
        · exact wf_cons_iff.mpr ⟨by assumption, hh, ht⟩
      · refine wf_cons_iff.mpr ⟨hv, ?_, ih ht⟩
        rcases head_set (b := b) hh (show k < a by omega) with h' | h'
        · exact h'
        · simp [ht] at h'

theorem get_set {m : Mem} (h : Memory.wf m = true) (a : Nat) (b : Byte) (x : Nat) :
    Memory.get (Memory.set m a b) x = if x = a then b else Memory.get m x := by
  induction m with
  | nil => by_cases e : x = a <;> simp only [Memory.set] <;> split <;> simp_all [Memory.get]
  | cons d m ih =>
    obtain ⟨k, v⟩ := d
    have ih := ih (wf_tail h)
    simp only [Memory.set]
    split
    · rename_i ak
      split
      · rename_i e; subst e
        by_cases e : x = a
        · subst e; simp [Memory.get, ak, Nat.ne_of_lt ak]
        · simp [e]
      · by_cases e : x = a
        · subst e; simp [Memory.get]
        · by_cases xa : x < a
          · have : x < k := by omega
            simp [Memory.get, e, xa, this, Nat.ne_of_lt this]
          · simp [Memory.get, e, xa]
    · split
      · rename_i e; subst e
        split
        · rename_i e; subst e
          by_cases e : x = a
          · subst e; simp [get_below h (Nat.le_refl x)]
          · by_cases xa : x < a
            · simp [Memory.get, e, xa, get_below h (Nat.le_of_lt xa)]
            · simp [Memory.get, e, xa]
        · by_cases e : x = a
          · subst e; simp [Memory.get]
          · simp [Memory.get, e]
      · rename_i h1 h2
        by_cases e : x = a
        · subst e; simp only [Memory.get, if_neg h2, if_neg h1]; rw [ih]; simp
        · simp only [Memory.get, ih, if_neg e]

theorem write_wf {m : Mem} (h : Memory.wf m = true) (a : Nat) (bs : List Byte) : Memory.wf (Memory.write m a bs) = true := by
  induction bs generalizing m a with
  | nil => exact h
  | cons b bs ih => exact ih (set_wf h a b) (a + 1)

theorem setNum_wf {m : Mem} (h : Memory.wf m = true) (a n v : Nat) : Memory.wf (Memory.setNum m a n v) = true := write_wf h a _

theorem filter_wf {m : Mem} (h : Memory.wf m = true) (p : Host.Cell → Bool) : Memory.wf (m.filter p) = true := by
  have hd : ∀ (m : Mem) (k : Nat), (∀ c ∈ m.head?, k < c.1) → Memory.wf m = true → ∀ c ∈ m, k < c.1 := by
    intro m
    induction m with
    | nil => simp
    | cons d m ih =>
      obtain ⟨k', v'⟩ := d
      intro k h hw c hc
      have : k < k' := h _ rfl
      rcases List.mem_cons.mp hc with rfl | hc
      · exact this
      · have := ih k' (wf_cons_iff.mp hw).2.1 (wf_tail hw) c hc; omega
  induction m with
  | nil => rfl
  | cons d m ih =>
    obtain ⟨k, v⟩ := d
    obtain ⟨hv, hh, hm⟩ := wf_cons_iff.mp h
    simp only [List.filter_cons]
    split
    · refine wf_cons_iff.mpr ⟨hv, ?_, ih hm⟩
      intro c hc
      exact hd m k hh hm c (List.mem_filter.mp (List.mem_of_mem_head? hc)).1
    · exact ih hm

/-- A write stores its bytes and keeps every other one. -/
theorem stored_write {m : Mem} (h : Memory.wf m = true) (a : Nat) (bs : List Byte) : Stored m (Memory.write m a bs) a bs := by
  induction bs generalizing m a with
  | nil => intro x; rw [Memory.write, if_neg (by simp only [List.length_nil]; omega)]
  | cons b bs ih =>
    intro x
    rw [Memory.write, ih (set_wf h a b) (a + 1) x, get_set h]
    simp only [List.length_cons]
    by_cases e : x = a
    · rw [if_neg (by omega), if_pos e, if_pos (by omega), e, Nat.sub_self]; rfl
    · by_cases hx : a + 1 ≤ x ∧ x < a + 1 + bs.length
      · rw [if_pos hx, if_pos (by omega), show x - a = (x - (a + 1)) + 1 by omega]; rfl
      · rw [if_neg hx, if_neg e, if_neg (by omega)]

theorem bytesOf_length (n v : Nat) : (bytesOf n v).length = n := by
  induction n generalizing v with
  | zero => rfl
  | succ n ih => simp [bytesOf, ih]

theorem read_length (m : Mem) (a n : Nat) : (Memory.read m a n).length = n := by
  induction n generalizing a with
  | zero => rfl
  | succ n ih => simp [Memory.read, ih]

theorem getD_bytesOf {n v i : Nat} (h : i < n) : (bytesOf n v).getD i 0 = BitVec.ofNat 8 (v / 256 ^ i) := by
  induction n generalizing v i with
  | zero => omega
  | succ n ih =>
    cases i with
    | zero => simp [bytesOf]
    | succ i => rw [bytesOf, List.getD_cons_succ, ih (by omega), Nat.div_div_eq_div_mul]; congr 2; rw [Nat.pow_succ, Nat.mul_comm]

theorem natOf_bytesOf (n v : Nat) : natOf (bytesOf n v) = v % 256 ^ n := by
  induction n generalizing v with
  | zero => simp [bytesOf, natOf, Nat.mod_one]
  | succ n ih =>
    simp only [bytesOf, natOf, ih, BitVec.toNat_ofNat]
    rw [Nat.pow_succ' (n := n) (m := 256), Nat.mod_mul (a := 256)]

theorem natOf_lt (bs : List Byte) : natOf bs < 256 ^ bs.length := by
  induction bs with
  | nil => simp [natOf]
  | cons b bs ih =>
    have hb : b.toNat < 256 := b.isLt
    simp only [natOf, List.length_cons, Nat.pow_succ]; omega

/-- Bytes that read as a number are that number's. -/
theorem bytesOf_natOf (bs : List Byte) : bytesOf bs.length (natOf bs) = bs := by
  induction bs with
  | nil => rfl
  | cons b bs ih =>
    have hb : b.toNat < 256 := b.isLt
    have h1 : (b.toNat + 256 * natOf bs) / 256 = natOf bs := by omega
    have h2 : BitVec.ofNat 8 (b.toNat + 256 * natOf bs) = b := by
      apply BitVec.eq_of_toNat_eq; simp [BitVec.toNat_ofNat]; omega
    simp only [List.length_cons, natOf, bytesOf, h1, h2, ih]

/-- Bytes that a write did not touch read as before. -/
theorem read_eq_of_get {m m' : Mem} {a n : Nat} (h : ∀ x, a ≤ x → x < a + n → Memory.get m' x = Memory.get m x) :
    Memory.read m' a n = Memory.read m a n := by
  induction n generalizing a with
  | zero => rfl
  | succ n ih => rw [Memory.read, Memory.read, h a (Nat.le_refl a) (by omega), ih fun x h1 h2 => h x (by omega) (by omega)]

end Sys2Proof.Laws
end

