-- ==== Sys2Proof/Laws/Slot.lean ====
section
/-! SUPPORT. What the shared operations of a slot instruction do: one lemma for each way a slot instruction can come out. -/

namespace Sys2Proof.Laws

open Sys2Proof.Machine Sys2Proof.Claims

/-- A slot instruction whose turn has come, with no wait before issue, no trap and no hold has its effect. -/
theorem runSlot_act {g : Guard} {m : Slot} {s : State} (h : Turn g s) (he : m.empty s ≤ s.rs.tick) (ht : m.trap s = none)
    (hh : m.hold s = false) : runSlot g m s = .next (m.act s) := by
  obtain ⟨hg, hw⟩ := h
  cases hr : s.rs.wait <;> simp_all [runSlot, Slot.run, Nat.not_lt.mpr he]

/-- One that finds a trap takes it. -/
theorem runSlot_trap {g : Guard} {m : Slot} {s : State} {t : Trap} (h : Turn g s) (he : m.empty s ≤ s.rs.tick)
    (ht : m.trap s = some t) : runSlot g m s = .next (s.raise t) := by
  obtain ⟨hg, hw⟩ := h
  cases hr : s.rs.wait <;> simp_all [runSlot, Slot.run, Nat.not_lt.mpr he]

/-- One that holds leaves everything as it is. -/
theorem runSlot_hold {g : Guard} {m : Slot} {s : State} (h : Turn g s) (he : m.empty s ≤ s.rs.tick) (ht : m.trap s = none)
    (hh : m.hold s = true) : runSlot g m s = .next s := by
  obtain ⟨hg, hw⟩ := h
  cases hr : s.rs.wait <;> simp_all [runSlot, Slot.run, Nat.not_lt.mpr he]

/-- One that its guard does not select does nothing (R72). -/
theorem runSlot_off {g : Guard} {m : Slot} {s : State} (h : guardOn g s = false) : runSlot g m s = .next s := by
  simp [runSlot, h]

/-- The trap of a scalar slot instruction whose operands can be read is its own. -/
theorem scalar_trap {srcs dsts : List SReg} {tr : List Word → State → Option Trap} {ho : List Word → State → Bool}
    {act : List Word → State → State} {s : State} (h : Operable srcs dsts s) :
    (Slot.scalar srcs dsts tr ho act).trap s = tr (operands srcs s).1 s := by
  obtain ⟨h1, h2, h3, h4⟩ := h
  have q1 : srcs.find? (fun n => isPush n || (isQueue n && s.mode == .s)) = none := by
    rw [List.find?_eq_none]; intro n hn
    cases hm : s.mode with
    | u => simp [h1 n hn]
    | s => simp [h1 n hn, h3 hm n (by simp [hn])]
  have q2 : dsts.find? (fun n => isPop n || (isQueue n && s.mode == .s)) = none := by
    rw [List.find?_eq_none]; intro n hn
    cases hm : s.mode with
    | u => simp [h2 n hn]
    | s => simp [h2 n hn, h3 hm n (by simp [hn])]
  simp only [Slot.scalar, q1, q2, h4, if_true]

theorem scalar_hold {srcs dsts : List SReg} {tr : List Word → State → Option Trap} {ho : List Word → State → Bool}
    {act : List Word → State → State} {s : State} (h : Operable srcs dsts s) :
    (Slot.scalar srcs dsts tr ho act).hold s = ho (operands srcs s).1 s := by
  simp [Slot.scalar, h.2.2.2]

/-- A scalar slot instruction that neither traps nor holds acts on its operands' values. -/
theorem runSlot_scalar {g : Guard} {srcs dsts : List SReg} {tr : List Word → State → Option Trap} {ho : List Word → State → Bool}
    {act : List Word → State → State} {s : State} (h : Turn g s) (o : Operable srcs dsts s)
    (ht : tr (operands srcs s).1 s = none) (hh : ho (operands srcs s).1 s = false) :
    runSlot g (Slot.scalar srcs dsts tr ho act) s = .next (act (operands srcs s).1 (popped srcs s)) := by
  rw [runSlot_act h (Nat.zero_le _) (by rw [scalar_trap o, ht]) (by rw [scalar_hold o, hh])]; rfl

end Sys2Proof.Laws
end

