-- ==== Sys2Proof/Laws/Operands.lean ====
section
/-! SUPPORT. What popping a source's queues changes, and bit fields replaced in a word. -/

namespace Sys2Proof.Laws

open Sys2Proof.Machine Sys2Proof.Claims

theorem popQueue_rs (c : Ctx) (n : SReg) : (c.popQueue n).rs = c.rs := by
  simp only [Ctx.popQueue]; repeat' split
  all_goals rfl

theorem popQueue_csr (c : Ctx) (n : SReg) : (c.popQueue n).csr = c.csr := by
  simp only [Ctx.popQueue]; repeat' split
  all_goals rfl

/-- Popping changes the entries of the pop ports alone. -/
theorem popped_eq (srcs : List SReg) (s : State) : ∃ q1 q2 q3 q4 q5, popped srcs s =
    { s with ctx := { s.ctx with statq := q1, rngq := q2, sqevq := q3, tapq := q4, msgin := q5 } } := by
  induction srcs generalizing s with
  | nil => exact ⟨_, _, _, _, _, rfl⟩
  | cons n ns ih =>
    simp only [popped, operands]
    split
    · obtain ⟨q1, q2, q3, q4, q5, e⟩ := ih { s with ctx := s.ctx.popQueue n }
      simp only [popped] at e
      rw [e]
      simp only [Ctx.popQueue]
      repeat' split
      all_goals exact ⟨_, _, _, _, _, rfl⟩
    · exact ih s

theorem popped_rs (srcs : List SReg) (s : State) : (popped srcs s).rs = s.rs := by
  obtain ⟨_, _, _, _, _, e⟩ := popped_eq srcs s
  rw [e]; simp only [State.rs]

theorem popped_csr (srcs : List SReg) (s : State) : (popped srcs s).ctx.csr = s.ctx.csr := by
  obtain ⟨_, _, _, _, _, e⟩ := popped_eq srcs s; rw [e]

theorem popped_mode (srcs : List SReg) (s : State) : (popped srcs s).mode = s.mode := by
  obtain ⟨_, _, _, _, _, e⟩ := popped_eq srcs s; rw [e]

theorem popped_mem (srcs : List SReg) (s : State) : (popped srcs s).mem = s.mem := by
  obtain ⟨_, _, _, _, _, e⟩ := popped_eq srcs s; rw [e]

theorem guardOn_popped (srcs : List SReg) (g : Guard) (s : State) : guardOn g (popped srcs s) = guardOn g s := by
  simp [guardOn, State.sreg, RegSet.get, popped_rs]

/-- A source that is no pop port pops nothing: its value is the register's. -/
theorem operands_plain (srcs : List SReg) (s : State) (h : ∀ n ∈ srcs, isPop n = false) :
    operands srcs s = (srcs.map s.sreg, s) := by
  induction srcs with
  | nil => rfl
  | cons n ns ih =>
    simp only [operands, h n (by simp), List.map_cons]
    rw [ih fun m hm => h m (by simp [hm])]; rfl

/-- Bit `i` of a word in which a field has been replaced. -/
theorem setBits_getLsbD {n : Nat} (w : BitVec n) (lo len v i : Nat) (hi : i < n) : (setBits w lo len v).getLsbD i =
    if lo ≤ i ∧ i < lo + len then v.testBit (i - lo) else w.getLsbD i := by
  simp only [setBits, BitVec.getLsbD_or, BitVec.getLsbD_and, BitVec.getLsbD_not, BitVec.getLsbD_ofNat, hi, decide_true, Bool.true_and]
  rw [Nat.testBit_mul_two_pow, Nat.testBit_mul_two_pow, Nat.testBit_two_pow_sub_one, Nat.testBit_mod_two_pow]
  by_cases h1 : lo ≤ i <;> by_cases h2 : i < lo + len
  · have : i - lo < len := by omega
    simp [h1, h2, this]
  · have : ¬ i - lo < len := by omega
    simp [h1, h2, this]
  · simp [h1]
  · simp [h1]

end Sys2Proof.Laws
end

