-- ==== Sys2Proof/Laws/PerInstr.lean ====
section
/-! SUPPORT. A law of every instruction as syntax: the guard field of its word is the guard that its meaning takes (R71, R297, R301, R303). -/

namespace Sys2Proof.Laws.WordGuard

open Sys2Proof Sys2Proof.Machine

/-- The guard field of a slot's word. -/
def guardField : Enc → Option Guard
  | .header _ => none
  | .s w => some (fld w 50 6)
  | .v _ w => some (fld w 30 6)
  | .m w => some (fld w 26 6)
  | .c _ w => some (fld w 26 6)
  | .x w => some (fld w 18 6)

/-- An instruction that a slot holds is encoded with its own guard. -/
def Statement (i : Instr) : Prop := ∀ g m e, meaningOf i = some (g, m) → encode i = some e → guardField e = some g

theorem field_of_append {n k p : Nat} (w : BitVec n) (x : BitVec k) (h : k ≤ p) : fld (w ++ x) p 6 = fld w (p - k) 6 := by
  apply BitVec.eq_of_getLsbD_eq
  intro i hi
  simp only [fld, BitVec.getLsbD_extractLsb', BitVec.getLsbD_append]
  rw [if_neg (by omega), show p + i - k = p - k + i by omega]

theorem field_of_cast {n m p : Nat} (w : BitVec n) (h : n = m) : fld (w.cast h) p 6 = fld w p 6 := by
  subst h
  rfl

theorem field_whole (g : BitVec 6) : fld g 0 6 = g := by
  apply BitVec.eq_of_getLsbD_eq
  intro i hi
  simp [fld, hi]

theorem sr {g d a b : BitVec 6} {op func : BitVec 8} : guardField (encSR g op d a b func) = some g := by
  simp only [guardField, encSR]
  rw [field_of_cast]
  repeat rw [field_of_append _ _ (by decide)]
  exact congrArg some (field_whole g)

theorem si {g d a : BitVec 6} {op : BitVec 8} {imm : BitVec 30} : guardField (encSI g op d a imm) = some g := by
  simp only [guardField, encSI]
  rw [field_of_cast]
  repeat rw [field_of_append _ _ (by decide)]
  exact congrArg some (field_whole g)

theorem sl {g d base lat : BitVec 6} {op : BitVec 8} {disp : BitVec 16} {size ord : BitVec 2} {sign : Bool} {scope : BitVec 3} :
    guardField (encSL g op d base disp size sign ord scope lat) = some g := by
  simp only [guardField, encSL]
  rw [field_of_cast]
  repeat rw [field_of_append _ _ (by decide)]
  exact congrArg some (field_whole g)

theorem sa {g d a b c lat : BitVec 6} {op : BitVec 8} {fo : Bool} {size ord : BitVec 2} {scope : BitVec 3} :
    guardField (encSA g op d a b c fo size ord scope lat) = some g := by
  simp only [guardField, encSA]
  rw [field_of_cast]
  repeat rw [field_of_append _ _ (by decide)]
  exact congrArg some (field_whole g)

theorem sx {g d a : BitVec 6} {op : BitVec 8} {csr : BitVec 12} {imm : BitVec 18} : guardField (encSX g op d a csr imm) = some g := by
  simp only [guardField, encSX]
  rw [field_of_cast]
  repeat rw [field_of_append _ _ (by decide)]
  exact congrArg some (field_whole g)

theorem sh {g d a : BitVec 6} {op fn : BitVec 8} {hA hB : BitVec 5} {scope : BitVec 3} : guardField (encSH g op d a hA hB fn scope) = some g := by
  simp only [guardField, encSH]
  rw [field_of_cast]
  repeat rw [field_of_append _ _ (by decide)]
  exact congrArg some (field_whole g)

theorem vw {k : VSlot} {g a b : BitVec 6} {op d c : BitVec 5} {t : VType} : guardField (encV k g op t d a b c) = some g := by
  simp only [guardField, encV]
  rw [field_of_cast]
  repeat rw [field_of_append _ _ (by decide)]
  exact congrArg some (field_whole g)

theorem cw {k : CSlot} {g : BitVec 6} {op s d : BitVec 5} {n : BitVec 3} {mode : BitVec 8} : guardField (encC k g op s d n mode) = some g := by
  simp only [guardField, encC]
  rw [field_of_cast]
  repeat rw [field_of_append _ _ (by decide)]
  exact congrArg some (field_whole g)

theorem xw {g : BitVec 6} {op mode : BitVec 4} {d a : BitVec 5} : guardField (encX g op d a mode) = some g := by
  simp only [guardField, encX]
  rw [field_of_cast]
  repeat rw [field_of_append _ _ (by decide)]
  exact congrArg some (field_whole g)

theorem oppRequest : ∀ x0, Statement (.oppRequest x0) := by intro x0 g m e h; cases h
theorem nop : ∀ x0, Statement (.nop x0) := by intro x0 g m e h w; cases h; cases w; exact sr
theorem add : ∀ x0 x1 x2 x3, Statement (.add x0 x1 x2 x3) := by intro x0 x1 x2 x3 g m e h w; cases h; cases w; exact sr
theorem sub : ∀ x0 x1 x2 x3, Statement (.sub x0 x1 x2 x3) := by intro x0 x1 x2 x3 g m e h w; cases h; cases w; exact sr
theorem and : ∀ x0 x1 x2 x3, Statement (.and x0 x1 x2 x3) := by intro x0 x1 x2 x3 g m e h w; cases h; cases w; exact sr
theorem or : ∀ x0 x1 x2 x3, Statement (.or x0 x1 x2 x3) := by intro x0 x1 x2 x3 g m e h w; cases h; cases w; exact sr
theorem xor : ∀ x0 x1 x2 x3, Statement (.xor x0 x1 x2 x3) := by intro x0 x1 x2 x3 g m e h w; cases h; cases w; exact sr
theorem andn : ∀ x0 x1 x2 x3, Statement (.andn x0 x1 x2 x3) := by intro x0 x1 x2 x3 g m e h w; cases h; cases w; exact sr
theorem shl : ∀ x0 x1 x2 x3, Statement (.shl x0 x1 x2 x3) := by intro x0 x1 x2 x3 g m e h w; cases h; cases w; exact sr
theorem shr : ∀ x0 x1 x2 x3, Statement (.shr x0 x1 x2 x3) := by intro x0 x1 x2 x3 g m e h w; cases h; cases w; exact sr
theorem sra : ∀ x0 x1 x2 x3, Statement (.sra x0 x1 x2 x3) := by intro x0 x1 x2 x3 g m e h w; cases h; cases w; exact sr
theorem min : ∀ x0 x1 x2 x3, Statement (.min x0 x1 x2 x3) := by intro x0 x1 x2 x3 g m e h w; cases h; cases w; exact sr
theorem minu : ∀ x0 x1 x2 x3, Statement (.minu x0 x1 x2 x3) := by intro x0 x1 x2 x3 g m e h w; cases h; cases w; exact sr
theorem max : ∀ x0 x1 x2 x3, Statement (.max x0 x1 x2 x3) := by intro x0 x1 x2 x3 g m e h w; cases h; cases w; exact sr
theorem maxu : ∀ x0 x1 x2 x3, Statement (.maxu x0 x1 x2 x3) := by intro x0 x1 x2 x3 g m e h w; cases h; cases w; exact sr
theorem mul : ∀ x0 x1 x2 x3, Statement (.mul x0 x1 x2 x3) := by intro x0 x1 x2 x3 g m e h w; cases h; cases w; exact sr
theorem mulh : ∀ x0 x1 x2 x3, Statement (.mulh x0 x1 x2 x3) := by intro x0 x1 x2 x3 g m e h w; cases h; cases w; exact sr
theorem mulhu : ∀ x0 x1 x2 x3, Statement (.mulhu x0 x1 x2 x3) := by intro x0 x1 x2 x3 g m e h w; cases h; cases w; exact sr
theorem div : ∀ x0 x1 x2 x3, Statement (.div x0 x1 x2 x3) := by intro x0 x1 x2 x3 g m e h w; cases h; cases w; exact sr
theorem divu : ∀ x0 x1 x2 x3, Statement (.divu x0 x1 x2 x3) := by intro x0 x1 x2 x3 g m e h w; cases h; cases w; exact sr
theorem clz : ∀ x0 x1 x2, Statement (.clz x0 x1 x2) := by intro x0 x1 x2 g m e h w; cases h; cases w; exact sr
theorem popc : ∀ x0 x1 x2, Statement (.popc x0 x1 x2) := by intro x0 x1 x2 g m e h w; cases h; cases w; exact sr
theorem sel : ∀ x0 x1 x2 x3 x4, Statement (.sel x0 x1 x2 x3 x4) := by intro x0 x1 x2 x3 x4 g m e h w; cases h; cases w; exact sr
theorem cmpGuard : ∀ x0 x1 x2 x3 x4, Statement (.cmpGuard x0 x1 x2 x3 x4) := by intro x0 x1 x2 x3 x4 g m e h w; cases h; cases w; exact sr
theorem cmpRegister : ∀ x0 x1 x2 x3 x4, Statement (.cmpRegister x0 x1 x2 x3 x4) := by intro x0 x1 x2 x3 x4 g m e h w; cases h; cases w; exact sr
theorem cmpi : ∀ x0 x1 x2 x3 x4 x5, Statement (.cmpi x0 x1 x2 x3 x4 x5) := by intro x0 x1 x2 x3 x4 x5 g m e h w; cases h; cases w; exact si
theorem lea : ∀ x0 x1 x2 x3 x4, Statement (.lea x0 x1 x2 x3 x4) := by intro x0 x1 x2 x3 x4 g m e h w; cases h; cases w; exact sr
theorem ext : ∀ x0 x1 x2 x3 x4 x5, Statement (.ext x0 x1 x2 x3 x4 x5) := by intro x0 x1 x2 x3 x4 x5 g m e h w; cases h; cases w; exact si
theorem ins : ∀ x0 x1 x2 x3 x4, Statement (.ins x0 x1 x2 x3 x4) := by intro x0 x1 x2 x3 x4 g m e h w; cases h; cases w; exact si
theorem addi : ∀ x0 x1 x2 x3, Statement (.addi x0 x1 x2 x3) := by intro x0 x1 x2 x3 g m e h w; cases h; cases w; exact si
theorem andi : ∀ x0 x1 x2 x3, Statement (.andi x0 x1 x2 x3) := by intro x0 x1 x2 x3 g m e h w; cases h; cases w; exact si
theorem ori : ∀ x0 x1 x2 x3, Statement (.ori x0 x1 x2 x3) := by intro x0 x1 x2 x3 g m e h w; cases h; cases w; exact si
theorem xori : ∀ x0 x1 x2 x3, Statement (.xori x0 x1 x2 x3) := by intro x0 x1 x2 x3 g m e h w; cases h; cases w; exact si
theorem shli : ∀ x0 x1 x2 x3, Statement (.shli x0 x1 x2 x3) := by intro x0 x1 x2 x3 g m e h w; cases h; cases w; exact si
theorem shri : ∀ x0 x1 x2 x3, Statement (.shri x0 x1 x2 x3) := by intro x0 x1 x2 x3 g m e h w; cases h; cases w; exact si
theorem srai : ∀ x0 x1 x2 x3, Statement (.srai x0 x1 x2 x3) := by intro x0 x1 x2 x3 g m e h w; cases h; cases w; exact si
theorem movi : ∀ x0 x1 x2, Statement (.movi x0 x1 x2) := by intro x0 x1 x2 g m e h w; cases h; cases w; exact si
theorem movk : ∀ x0 x1 x2 x3, Statement (.movk x0 x1 x2 x3) := by intro x0 x1 x2 x3 g m e h w; cases h; cases w; exact si
theorem fadd : ∀ x0 x1 x2 x3, Statement (.fadd x0 x1 x2 x3) := by intro x0 x1 x2 x3 g m e h w; cases h; cases w; exact sr
theorem fsub : ∀ x0 x1 x2 x3, Statement (.fsub x0 x1 x2 x3) := by intro x0 x1 x2 x3 g m e h w; cases h; cases w; exact sr
theorem fmul : ∀ x0 x1 x2 x3, Statement (.fmul x0 x1 x2 x3) := by intro x0 x1 x2 x3 g m e h w; cases h; cases w; exact sr
theorem ffma : ∀ x0 x1 x2 x3 x4, Statement (.ffma x0 x1 x2 x3 x4) := by intro x0 x1 x2 x3 x4 g m e h w; cases h; cases w; exact sr
theorem fmin : ∀ x0 x1 x2 x3, Statement (.fmin x0 x1 x2 x3) := by intro x0 x1 x2 x3 g m e h w; cases h; cases w; exact sr
theorem fmax : ∀ x0 x1 x2 x3, Statement (.fmax x0 x1 x2 x3) := by intro x0 x1 x2 x3 g m e h w; cases h; cases w; exact sr
theorem fcmp : ∀ x0 x1 x2 x3 x4 x5, Statement (.fcmp x0 x1 x2 x3 x4 x5) := by intro x0 x1 x2 x3 x4 x5 g m e h w; cases h; cases w; exact sr
theorem fcvt : ∀ x0 x1 x2 x3 x4 x5 x6, Statement (.fcvt x0 x1 x2 x3 x4 x5 x6) := by intro x0 x1 x2 x3 x4 x5 x6 g m e h w; cases h; cases w; exact sr
theorem ld : ∀ x0 x1 x2 x3 x4 x5 x6 x7 x8, Statement (.ld x0 x1 x2 x3 x4 x5 x6 x7 x8) := by intro x0 x1 x2 x3 x4 x5 x6 x7 x8 g m e h w; cases h; cases w; exact sl
theorem st : ∀ x0 x1 x2 x3 x4 x5 x6, Statement (.st x0 x1 x2 x3 x4 x5 x6) := by intro x0 x1 x2 x3 x4 x5 x6 g m e h w; cases h; cases w; exact sl
theorem ldfe : ∀ x0 x1 x2 x3 x4 x5 x6 x7 x8, Statement (.ldfe x0 x1 x2 x3 x4 x5 x6 x7 x8) := by intro x0 x1 x2 x3 x4 x5 x6 x7 x8 g m e h w; cases h; cases w; exact sl
theorem stfe : ∀ x0 x1 x2 x3 x4 x5 x6, Statement (.stfe x0 x1 x2 x3 x4 x5 x6) := by intro x0 x1 x2 x3 x4 x5 x6 g m e h w; cases h; cases w; exact sl
theorem amo : ∀ x0 x1 x2 x3 x4 x5 x6 x7 x8, Statement (.amo x0 x1 x2 x3 x4 x5 x6 x7 x8) := by intro x0 x1 x2 x3 x4 x5 x6 x7 x8 g m e h w; cases h; cases w; exact sa
theorem amor : ∀ x0 x1 x2 x3 x4 x5 x6, Statement (.amor x0 x1 x2 x3 x4 x5 x6) := by intro x0 x1 x2 x3 x4 x5 x6 g m e h w; cases h; cases w; exact sa
theorem cas : ∀ x0 x1 x2 x3 x4 x5 x6 x7 x8 x9, Statement (.cas x0 x1 x2 x3 x4 x5 x6 x7 x8 x9) := by intro x0 x1 x2 x3 x4 x5 x6 x7 x8 x9 g m e h w; cases h; cases w; exact sa
theorem red : ∀ x0 x1 x2 x3 x4 x5 x6, Statement (.red x0 x1 x2 x3 x4 x5 x6) := by intro x0 x1 x2 x3 x4 x5 x6 g m e h w; cases h; cases w; exact sa
theorem fence : ∀ x0 x1 x2 x3, Statement (.fence x0 x1 x2 x3) := by intro x0 x1 x2 x3 g m e h w; cases h; cases w; exact sl
theorem br : ∀ x0 x1 x2 x3, Statement (.br x0 x1 x2 x3) := by intro x0 x1 x2 x3 g m e h w; cases h; cases w; exact si
theorem jmp : ∀ x0 x1 x2, Statement (.jmp x0 x1 x2) := by intro x0 x1 x2 g m e h w; cases h; cases w; exact si
theorem call : ∀ x0 x1, Statement (.call x0 x1) := by intro x0 x1 g m e h w; cases h; cases w; exact si
theorem callRegister : ∀ x0 x1 x2, Statement (.callRegister x0 x1 x2) := by intro x0 x1 x2 g m e h w; cases h; cases w; exact si
theorem ret : ∀ x0, Statement (.ret x0) := by intro x0 g m e h w; cases h; cases w; exact si
theorem bloop : ∀ x0 x1, Statement (.bloop x0 x1) := by intro x0 x1 g m e h w; cases h; cases w; exact si
theorem exit : ∀ x0 x1, Statement (.exit x0 x1) := by intro x0 x1 g m e h w; cases h; cases w; exact si
theorem exitLeave : ∀ x0, Statement (.exitLeave x0) := by intro x0 g m e h w; cases h; cases w; exact si
theorem trap : ∀ x0 x1, Statement (.trap x0 x1) := by intro x0 x1 g m e h w; cases h; cases w; exact si
theorem svc : ∀ x0 x1, Statement (.svc x0 x1) := by intro x0 x1 g m e h w; cases h; cases w; exact si
theorem eret : ∀ x0, Statement (.eret x0) := by intro x0 g m e h w; cases h; cases w; exact sr
theorem waitm : ∀ x0 x1 x2 x3 x4 x5 x6, Statement (.waitm x0 x1 x2 x3 x4 x5 x6) := by intro x0 x1 x2 x3 x4 x5 x6 g m e h w; cases h; cases w; exact sl
theorem waitc : ∀ x0 x1 x2 x3, Statement (.waitc x0 x1 x2 x3) := by intro x0 x1 x2 x3 g m e h w; cases h; cases w; exact si
theorem sync : ∀ x0, Statement (.sync x0) := by intro x0 g m e h w; cases h; cases w; exact sr
theorem arrive : ∀ x0, Statement (.arrive x0) := by intro x0 g m e h w; cases h; cases w; exact sr
theorem grab : ∀ x0 x1 x2 x3 x4 x5, Statement (.grab x0 x1 x2 x3 x4 x5) := by intro x0 x1 x2 x3 x4 x5 g m e h w; cases h; cases w; exact sl
theorem yield : ∀ x0, Statement (.yield x0) := by intro x0 g m e h w; cases h; cases w; exact sr
theorem csrr : ∀ x0 x1 x2, Statement (.csrr x0 x1 x2) := by intro x0 x1 x2 g m e h w; cases h; cases w; exact sx
theorem csrrRemote : ∀ x0 x1 x2 x3 x4, Statement (.csrrRemote x0 x1 x2 x3 x4) := by intro x0 x1 x2 x3 x4 g m e h w; cases h; cases w; exact sx
theorem csrw : ∀ x0 x1 x2, Statement (.csrw x0 x1 x2) := by intro x0 x1 x2 g m e h w; cases h; cases w; exact sx
theorem csrs : ∀ x0 x1 x2, Statement (.csrs x0 x1 x2) := by intro x0 x1 x2 g m e h w; cases h; cases w; exact sx
theorem csrc : ∀ x0 x1 x2, Statement (.csrc x0 x1 x2) := by intro x0 x1 x2 g m e h w; cases h; cases w; exact sx
theorem tlbiAll : ∀ x0, Statement (.tlbiAll x0) := by intro x0 g m e h w; cases h; cases w; exact sr
theorem tlbiAsid : ∀ x0 x1, Statement (.tlbiAsid x0 x1) := by intro x0 x1 g m e h w; cases h; cases w; exact sr
theorem tlbiPage : ∀ x0 x1 x2, Statement (.tlbiPage x0 x1 x2) := by intro x0 x1 x2 g m e h w; cases h; cases w; exact sr
theorem cflush : ∀ x0 x1 x2, Statement (.cflush x0 x1 x2) := by intro x0 x1 x2 g m e h w; cases h; cases w; exact sr
theorem cinv : ∀ x0 x1 x2 x3, Statement (.cinv x0 x1 x2 x3) := by intro x0 x1 x2 x3 g m e h w; cases h; cases w; exact sr
theorem hld : ∀ x0 x1 x2 x3 x4 x5, Statement (.hld x0 x1 x2 x3 x4 x5) := by intro x0 x1 x2 x3 x4 x5 g m e h w; cases h; cases w; exact sl
theorem hst : ∀ x0 x1 x2 x3 x4 x5, Statement (.hst x0 x1 x2 x3 x4 x5) := by intro x0 x1 x2 x3 x4 x5 g m e h w; cases h; cases w; exact sl
theorem hset : ∀ x0 x1 x2 x3, Statement (.hset x0 x1 x2 x3) := by intro x0 x1 x2 x3 g m e h w; cases h; cases w; exact sh
theorem hget : ∀ x0 x1 x2 x3, Statement (.hget x0 x1 x2 x3) := by intro x0 x1 x2 x3 g m e h w; cases h; cases w; exact sh
theorem hadvHead : ∀ x0 x1 x2, Statement (.hadvHead x0 x1 x2) := by intro x0 x1 x2 g m e h w; cases h; cases w; exact sh
theorem hadvTail : ∀ x0 x1 x2, Statement (.hadvTail x0 x1 x2) := by intro x0 x1 x2 g m e h w; cases h; cases w; exact sh
theorem hwait : ∀ x0 x1, Statement (.hwait x0 x1) := by intro x0 x1 g m e h w; cases h; cases w; exact sh
theorem bind : ∀ x0 x1 x2 x3 x4, Statement (.bind x0 x1 x2 x3 x4) := by intro x0 x1 x2 x3 x4 g m e h w; cases h; cases w; exact sh
theorem unbindPort : ∀ x0 x1, Statement (.unbindPort x0 x1) := by intro x0 x1 g m e h w; cases h; cases w; exact sh
theorem unbindHandle : ∀ x0 x1, Statement (.unbindHandle x0 x1) := by intro x0 x1 g m e h w; cases h; cases w; exact sh
theorem mpset : ∀ x0 x1 x2, Statement (.mpset x0 x1 x2) := by intro x0 x1 x2 g m e h w; cases h; cases w; exact sr
theorem acq : ∀ x0 x1 x2, Statement (.acq x0 x1 x2) := by intro x0 x1 x2 g m e h w; cases h; cases w; exact sr
theorem arel : ∀ x0 x1, Statement (.arel x0 x1) := by intro x0 x1 g m e h w; cases h; cases w; exact sr
theorem averRead : ∀ x0 x1 x2, Statement (.averRead x0 x1 x2) := by intro x0 x1 x2 g m e h w; cases h; cases w; exact si
theorem averWait : ∀ x0 x1 x2, Statement (.averWait x0 x1 x2) := by intro x0 x1 x2 g m e h w; cases h; cases w; exact si
theorem mload : ∀ x0 x1, Statement (.mload x0 x1) := by intro x0 x1 g m e h w; cases h; cases w; exact sr
theorem maskld : ∀ x0 x1 x2, Statement (.maskld x0 x1 x2) := by intro x0 x1 x2 g m e h w; cases h; cases w; exact sr
theorem snap : ∀ x0 x1, Statement (.snap x0 x1) := by intro x0 x1 g m e h w; cases h; cases w; exact sr
theorem snapx : ∀ x0, Statement (.snapx x0) := by intro x0 g m e h w; cases h; cases w; exact sr
theorem tbegin : ∀ x0 x1, Statement (.tbegin x0 x1) := by intro x0 x1 g m e h w; cases h; cases w; exact sr
theorem tcommit : ∀ x0 x1, Statement (.tcommit x0 x1) := by intro x0 x1 g m e h w; cases h; cases w; exact sr
theorem tabort : ∀ x0, Statement (.tabort x0) := by intro x0 g m e h w; cases h; cases w; exact sr
theorem vpub : ∀ x0 x1 x2, Statement (.vpub x0 x1 x2) := by intro x0 x1 x2 g m e h w; cases h; cases w; exact sh
theorem vbind : ∀ x0 x1 x2 x3, Statement (.vbind x0 x1 x2 x3) := by intro x0 x1 x2 x3 g m e h w; cases h; cases w; exact sh
theorem tapx : ∀ x0 x1 x2 x3 x4 x5, Statement (.tapx x0 x1 x2 x3 x4 x5) := by intro x0 x1 x2 x3 x4 x5 g m e h w; cases h; cases w; exact sr
theorem tapw : ∀ x0 x1, Statement (.tapw x0 x1) := by intro x0 x1 g m e h w; cases h; cases w; exact sr
theorem sqget : ∀ x0 x1 x2 x3, Statement (.sqget x0 x1 x2 x3) := by intro x0 x1 x2 x3 g m e h w; cases h; cases w; exact sr
theorem sqnode : ∀ x0 x1 x2 x3 x4 x5, Statement (.sqnode x0 x1 x2 x3 x4 x5) := by intro x0 x1 x2 x3 x4 x5 g m e h w; cases h; cases w; exact sr
theorem sqaccMask : ∀ x0 x1 x2 x3, Statement (.sqaccMask x0 x1 x2 x3) := by intro x0 x1 x2 x3 g m e h w; cases h; cases w; exact sr
theorem sqaccAccept : ∀ x0 x1 x2 x3, Statement (.sqaccAccept x0 x1 x2 x3) := by intro x0 x1 x2 x3 g m e h w; cases h; cases w; exact sr
theorem sqcommit : ∀ x0 x1 x2, Statement (.sqcommit x0 x1 x2) := by intro x0 x1 x2 g m e h w; cases h; cases w; exact sr
theorem sqroll : ∀ x0 x1 x2, Statement (.sqroll x0 x1 x2) := by intro x0 x1 x2 g m e h w; cases h; cases w; exact sr
theorem sqsetAdmit : ∀ x0 x1 x2 x3, Statement (.sqsetAdmit x0 x1 x2 x3) := by intro x0 x1 x2 x3 g m e h w; cases h; cases w; exact sr
theorem sqsetPreempt : ∀ x0 x1 x2 x3, Statement (.sqsetPreempt x0 x1 x2 x3) := by intro x0 x1 x2 x3 g m e h w; cases h; cases w; exact sr
theorem sqsetResume : ∀ x0 x1 x2 x3, Statement (.sqsetResume x0 x1 x2 x3) := by intro x0 x1 x2 x3 g m e h w; cases h; cases w; exact sr
theorem sqsetRelease : ∀ x0 x1 x2 x3, Statement (.sqsetRelease x0 x1 x2 x3) := by intro x0 x1 x2 x3 g m e h w; cases h; cases w; exact sr
theorem sqsetRetire : ∀ x0 x1 x2 x3, Statement (.sqsetRetire x0 x1 x2 x3) := by intro x0 x1 x2 x3 g m e h w; cases h; cases w; exact sr
theorem sqsetPool : ∀ x0 x1 x2 x3, Statement (.sqsetPool x0 x1 x2 x3) := by intro x0 x1 x2 x3 g m e h w; cases h; cases w; exact sr
theorem rngseed : ∀ x0 x1 x2, Statement (.rngseed x0 x1 x2) := by intro x0 x1 x2 g m e h w; cases h; cases w; exact sr
theorem ecmarkRead : ∀ x0 x1, Statement (.ecmarkRead x0 x1) := by intro x0 x1 g m e h w; cases h; cases w; exact sr
theorem ecmarkMark : ∀ x0 x1 x2, Statement (.ecmarkMark x0 x1 x2) := by intro x0 x1 x2 g m e h w; cases h; cases w; exact sr
theorem vnop : ∀ x0 x1, Statement (.vnop x0 x1) := by intro x0 x1 g m e h w; cases h; cases w; exact vw
theorem vadd : ∀ x0 x1 x2 x3 x4 x5, Statement (.vadd x0 x1 x2 x3 x4 x5) := by intro x0 x1 x2 x3 x4 x5 g m e h w; cases h; cases w; exact vw
theorem vsub : ∀ x0 x1 x2 x3 x4 x5, Statement (.vsub x0 x1 x2 x3 x4 x5) := by intro x0 x1 x2 x3 x4 x5 g m e h w; cases h; cases w; exact vw
theorem vmul : ∀ x0 x1 x2 x3 x4 x5, Statement (.vmul x0 x1 x2 x3 x4 x5) := by intro x0 x1 x2 x3 x4 x5 g m e h w; cases h; cases w; exact vw
theorem vfma : ∀ x0 x1 x2 x3 x4 x5 x6, Statement (.vfma x0 x1 x2 x3 x4 x5 x6) := by intro x0 x1 x2 x3 x4 x5 x6 g m e h w; cases h; cases w; exact vw
theorem vmin : ∀ x0 x1 x2 x3 x4 x5, Statement (.vmin x0 x1 x2 x3 x4 x5) := by intro x0 x1 x2 x3 x4 x5 g m e h w; cases h; cases w; exact vw
theorem vmax : ∀ x0 x1 x2 x3 x4 x5, Statement (.vmax x0 x1 x2 x3 x4 x5) := by intro x0 x1 x2 x3 x4 x5 g m e h w; cases h; cases w; exact vw
theorem vabs : ∀ x0 x1 x2 x3 x4, Statement (.vabs x0 x1 x2 x3 x4) := by intro x0 x1 x2 x3 x4 g m e h w; cases h; cases w; exact vw
theorem vneg : ∀ x0 x1 x2 x3 x4, Statement (.vneg x0 x1 x2 x3 x4) := by intro x0 x1 x2 x3 x4 g m e h w; cases h; cases w; exact vw
theorem vexp2 : ∀ x0 x1 x2 x3 x4, Statement (.vexp2 x0 x1 x2 x3 x4) := by intro x0 x1 x2 x3 x4 g m e h w; cases h; cases w; exact vw
theorem vlog2 : ∀ x0 x1 x2 x3 x4, Statement (.vlog2 x0 x1 x2 x3 x4) := by intro x0 x1 x2 x3 x4 g m e h w; cases h; cases w; exact vw
theorem vrcp : ∀ x0 x1 x2 x3 x4, Statement (.vrcp x0 x1 x2 x3 x4) := by intro x0 x1 x2 x3 x4 g m e h w; cases h; cases w; exact vw
theorem vrsq : ∀ x0 x1 x2 x3 x4, Statement (.vrsq x0 x1 x2 x3 x4) := by intro x0 x1 x2 x3 x4 g m e h w; cases h; cases w; exact vw
theorem vcvt : ∀ x0 x1 x2 x3 x4 x5 x6, Statement (.vcvt x0 x1 x2 x3 x4 x5 x6) := by intro x0 x1 x2 x3 x4 x5 x6 g m e h w; cases h; cases w; exact vw
theorem vcmp : ∀ x0 x1 x2 x3 x4 x5 x6, Statement (.vcmp x0 x1 x2 x3 x4 x5 x6) := by intro x0 x1 x2 x3 x4 x5 x6 g m e h w; cases h; cases w; exact vw
theorem vsel : ∀ x0 x1 x2 x3 x4 x5, Statement (.vsel x0 x1 x2 x3 x4 x5) := by intro x0 x1 x2 x3 x4 x5 g m e h w; cases h; cases w; exact vw
theorem vand : ∀ x0 x1 x2 x3 x4 x5, Statement (.vand x0 x1 x2 x3 x4 x5) := by intro x0 x1 x2 x3 x4 x5 g m e h w; cases h; cases w; exact vw
theorem vor : ∀ x0 x1 x2 x3 x4 x5, Statement (.vor x0 x1 x2 x3 x4 x5) := by intro x0 x1 x2 x3 x4 x5 g m e h w; cases h; cases w; exact vw
theorem vxor : ∀ x0 x1 x2 x3 x4 x5, Statement (.vxor x0 x1 x2 x3 x4 x5) := by intro x0 x1 x2 x3 x4 x5 g m e h w; cases h; cases w; exact vw
theorem vshl : ∀ x0 x1 x2 x3 x4 x5, Statement (.vshl x0 x1 x2 x3 x4 x5) := by intro x0 x1 x2 x3 x4 x5 g m e h w; cases h; cases w; exact vw
theorem vshr : ∀ x0 x1 x2 x3 x4 x5, Statement (.vshr x0 x1 x2 x3 x4 x5) := by intro x0 x1 x2 x3 x4 x5 g m e h w; cases h; cases w; exact vw
theorem vrsum : ∀ x0 x1 x2 x3 x4, Statement (.vrsum x0 x1 x2 x3 x4) := by intro x0 x1 x2 x3 x4 g m e h w; cases h; cases w; exact vw
theorem vrmax : ∀ x0 x1 x2 x3 x4, Statement (.vrmax x0 x1 x2 x3 x4) := by intro x0 x1 x2 x3 x4 g m e h w; cases h; cases w; exact vw
theorem vscan : ∀ x0 x1 x2 x3 x4, Statement (.vscan x0 x1 x2 x3 x4) := by intro x0 x1 x2 x3 x4 g m e h w; cases h; cases w; exact vw
theorem vtopk : ∀ x0 x1 x2 x3 x4 x5 x6, Statement (.vtopk x0 x1 x2 x3 x4 x5 x6) := by intro x0 x1 x2 x3 x4 x5 x6 g m e h w; cases h; cases w; exact vw
theorem vperm : ∀ x0 x1 x2 x3 x4 x5, Statement (.vperm x0 x1 x2 x3 x4 x5) := by intro x0 x1 x2 x3 x4 x5 g m e h w; cases h; cases w; exact vw
theorem vmov : ∀ x0 x1 x2 x3 x4, Statement (.vmov x0 x1 x2 x3 x4) := by intro x0 x1 x2 x3 x4 g m e h w; cases h; cases w; exact vw
theorem vrng : ∀ x0 x1 x2 x3, Statement (.vrng x0 x1 x2 x3) := by intro x0 x1 x2 x3 g m e h w; cases h; cases w; exact vw
theorem mnop : ∀ x0, Statement (.mnop x0) := by intro x0 g m e h w; cases h; cases w; rw [guardField, field_of_cast]; (repeat rw [field_of_append _ _ (by decide)]); exact congrArg some (field_whole _)
theorem mcall : ∀ x0 x1 x2 x3 x4 x5 x6, Statement (.mcall x0 x1 x2 x3 x4 x5 x6) := by intro x0 x1 x2 x3 x4 x5 x6 g m e h w; cases h; cases w; rw [guardField, field_of_cast]; (repeat rw [field_of_append _ _ (by decide)]); exact congrArg some (field_whole _)
theorem cnop : ∀ x0 x1, Statement (.cnop x0 x1) := by intro x0 x1 g m e h w; cases h; cases w; exact cw
theorem cpy : ∀ x0 x1 x2 x3 x4 x5 x6 x7 x8, Statement (.cpy x0 x1 x2 x3 x4 x5 x6 x7 x8) := by intro x0 x1 x2 x3 x4 x5 x6 x7 x8 g m e h w; cases h; cases w; exact cw
theorem cpyr : ∀ x0 x1 x2 x3 x4 x5 x6, Statement (.cpyr x0 x1 x2 x3 x4 x5 x6) := by intro x0 x1 x2 x3 x4 x5 x6 g m e h w; cases h; cases w; exact cw
theorem gath : ∀ x0 x1 x2 x3 x4 x5 x6, Statement (.gath x0 x1 x2 x3 x4 x5 x6) := by intro x0 x1 x2 x3 x4 x5 x6 g m e h w; cases h; cases w; exact cw
theorem scat : ∀ x0 x1 x2 x3 x4 x5 x6, Statement (.scat x0 x1 x2 x3 x4 x5 x6) := by intro x0 x1 x2 x3 x4 x5 x6 g m e h w; cases h; cases w; exact cw
theorem chain : ∀ x0 x1 x2 x3 x4, Statement (.chain x0 x1 x2 x3 x4) := by intro x0 x1 x2 x3 x4 g m e h w; cases h; cases w; exact cw
theorem bdrv : ∀ x0 x1 x2 x3 x4, Statement (.bdrv x0 x1 x2 x3 x4) := by intro x0 x1 x2 x3 x4 g m e h w; cases h; cases w; exact cw
theorem blat : ∀ x0 x1 x2 x3 x4, Statement (.blat x0 x1 x2 x3 x4) := by intro x0 x1 x2 x3 x4 g m e h w; cases h; cases w; exact cw
theorem wstr : ∀ x0 x1 x2 x3 x4 x5 x6, Statement (.wstr x0 x1 x2 x3 x4 x5 x6) := by intro x0 x1 x2 x3 x4 x5 x6 g m e h w; cases h; cases w; exact cw
theorem kvcp : ∀ x0 x1 x2 x3 x4 x5, Statement (.kvcp x0 x1 x2 x3 x4 x5) := by intro x0 x1 x2 x3 x4 x5 g m e h w; cases h; cases w; exact cw
theorem cnta : ∀ x0 x1 x2 x3, Statement (.cnta x0 x1 x2 x3) := by intro x0 x1 x2 x3 g m e h w; cases h; cases w; exact cw
theorem logf : ∀ x0 x1 x2 x3 x4 x5 x6 x7, Statement (.logf x0 x1 x2 x3 x4 x5 x6 x7) := by intro x0 x1 x2 x3 x4 x5 x6 x7 g m e h w; cases h; cases w; exact cw
theorem xnop : ∀ x0, Statement (.xnop x0) := by intro x0 g m e h w; cases h; cases w; exact xw
theorem xpose : ∀ x0 x1 x2 x3, Statement (.xpose x0 x1 x2 x3) := by intro x0 x1 x2 x3 g m e h w; cases h; cases w; exact xw
theorem xcvt : ∀ x0 x1 x2 x3 x4, Statement (.xcvt x0 x1 x2 x3 x4) := by intro x0 x1 x2 x3 x4 g m e h w; cases h; cases w; exact xw
theorem xexp : ∀ x0 x1 x2 x3 x4, Statement (.xexp x0 x1 x2 x3 x4) := by intro x0 x1 x2 x3 x4 g m e h w; cases h; cases w; exact xw
theorem xpack : ∀ x0 x1 x2 x3 x4, Statement (.xpack x0 x1 x2 x3 x4) := by intro x0 x1 x2 x3 x4 g m e h w; cases h; cases w; exact xw
theorem dataArrival : ∀ x0, Statement (.dataArrival x0) := by intro x0 g m e h; cases h
theorem resultLanding : Statement (.resultLanding) := by intro g m e h; cases h
theorem trapEntry : Statement (.trapEntry) := by intro g m e h; cases h
theorem mailboxWrite : ∀ x0 x1 x2, Statement (.mailboxWrite x0 x1 x2) := by intro x0 x1 x2 g m e h; cases h
theorem domainArrival : ∀ x0 x1, Statement (.domainArrival x0 x1) := by intro x0 x1 g m e h; cases h
theorem copyChunk : ∀ x0 x1, Statement (.copyChunk x0 x1) := by intro x0 x1 g m e h; cases h
theorem copyComplete : ∀ x0, Statement (.copyComplete x0) := by intro x0 g m e h; cases h
theorem copyfault : ∀ x0, Statement (.copyfault x0) := by intro x0 g m e h; cases h
theorem cfresResume : Statement (.cfresResume) := by intro g m e h; cases h
theorem cfresDiscard : Statement (.cfresDiscard) := by intro g m e h; cases h
theorem chainRecord : ∀ x0, Statement (.chainRecord x0) := by intro x0 g m e h; cases h
theorem wbEntryFill : ∀ x0, Statement (.wbEntryFill x0) := by intro x0 g m e h; cases h
theorem portFetch : ∀ x0, Statement (.portFetch x0) := by intro x0 g m e h; cases h
theorem portBeatWrite : ∀ x0, Statement (.portBeatWrite x0) := by intro x0 g m e h; cases h
theorem busSlot : ∀ x0 x1 x2, Statement (.busSlot x0 x1 x2) := by intro x0 x1 x2 g m e h; cases h
theorem messageDelivery : ∀ x0 x1 x2, Statement (.messageDelivery x0 x1 x2) := by intro x0 x1 x2 g m e h; cases h
theorem rngRefill : Statement (.rngRefill) := by intro g m e h; cases h
theorem callStart : Statement (.callStart) := by intro g m e h; cases h
theorem maskLoad : Statement (.maskLoad) := by intro g m e h; cases h
theorem wordStart : Statement (.wordStart) := by intro g m e h; cases h
theorem wordRetire : Statement (.wordRetire) := by intro g m e h; cases h
theorem drain : Statement (.drain) := by intro g m e h; cases h
theorem callEnd : Statement (.callEnd) := by intro g m e h; cases h
theorem validate : ∀ x0, Statement (.validate x0) := by intro x0 g m e h; cases h
theorem finalise : ∀ x0, Statement (.finalise x0) := by intro x0 g m e h; cases h
theorem vkill : ∀ x0, Statement (.vkill x0) := by intro x0 g m e h; cases h
theorem muckerReclaim : Statement (.muckerReclaim) := by intro g m e h; cases h
theorem sliceEvict : ∀ x0, Statement (.sliceEvict x0) := by intro x0 g m e h; cases h
theorem pageReturn : Statement (.pageReturn) := by intro g m e h; cases h
theorem pendingTokenMove : ∀ x0, Statement (.pendingTokenMove x0) := by intro x0 g m e h; cases h
theorem sqevqPush : Statement (.sqevqPush) := by intro g m e h; cases h
theorem crossingApply : Statement (.crossingApply) := by intro g m e h; cases h
theorem tevrRecord : Statement (.tevrRecord) := by intro g m e h; cases h
theorem steerWriteback : ∀ x0, Statement (.steerWriteback x0) := by intro x0 g m e h; cases h
theorem tapComplete : ∀ x0, Statement (.tapComplete x0) := by intro x0 g m e h; cases h
theorem tapqPush : Statement (.tapqPush) := by intro g m e h; cases h
theorem launchTake : ∀ x0 x1, Statement (.launchTake x0 x1) := by intro x0 x1 g m e h; cases h
theorem dependenceCheck : ∀ x0, Statement (.dependenceCheck x0) := by intro x0 g m e h; cases h
theorem placement : ∀ x0, Statement (.placement x0) := by intro x0 g m e h; cases h
theorem preload : ∀ x0, Statement (.preload x0) := by intro x0 g m e h; cases h
theorem preemption : ∀ x0, Statement (.preemption x0) := by intro x0 g m e h; cases h
theorem quantumExpiry : Statement (.quantumExpiry) := by intro g m e h; cases h
theorem tlimOverrun : Statement (.tlimOverrun) := by intro g m e h; cases h
theorem ageTick : Statement (.ageTick) := by intro g m e h; cases h
theorem kernelEnd : ∀ x0 x1, Statement (.kernelEnd x0 x1) := by intro x0 x1 g m e h; cases h
theorem ctxcmdResume : Statement (.ctxcmdResume) := by intro g m e h; cases h
theorem ctxcmdKill : Statement (.ctxcmdKill) := by intro g m e h; cases h
theorem ctxcmdRerun : Statement (.ctxcmdRerun) := by intro g m e h; cases h
theorem ctxdatWrite : ∀ x0, Statement (.ctxdatWrite x0) := by intro x0 g m e h; cases h
theorem rglenWrite : ∀ x0, Statement (.rglenWrite x0) := by intro x0 g m e h; cases h
theorem feopClear : ∀ x0 x1, Statement (.feopClear x0 x1) := by intro x0 x1 g m e h; cases h
theorem feopSet : ∀ x0 x1, Statement (.feopSet x0 x1) := by intro x0 x1 g m e h; cases h
theorem ptsync : Statement (.ptsync) := by intro g m e h; cases h
theorem sealPage : ∀ x0, Statement (.sealPage x0) := by intro x0 g m e h; cases h
theorem scrubStep : ∀ x0, Statement (.scrubStep x0) := by intro x0 g m e h; cases h
theorem uncorrectableError : ∀ x0, Statement (.uncorrectableError x0) := by intro x0 g m e h; cases h
theorem settlingWindowEnd : Statement (.settlingWindowEnd) := by intro g m e h; cases h
theorem stallrRefresh : ∀ x0 x1 x2, Statement (.stallrRefresh x0 x1 x2) := by intro x0 x1 x2 g m e h; cases h
theorem splitStageChange : ∀ x0, Statement (.splitStageChange x0) := by intro x0 g m e h; cases h
theorem droopStretch : Statement (.droopStretch) := by intro g m e h; cases h
theorem thermalNotice : ∀ x0 x1, Statement (.thermalNotice x0 x1) := by intro x0 x1 g m e h; cases h
theorem thermalRelease : ∀ x0, Statement (.thermalRelease x0) := by intro x0 g m e h; cases h
theorem oppflrWrite : ∀ x0, Statement (.oppflrWrite x0) := by intro x0 g m e h; cases h
theorem lend : ∀ x0 x1, Statement (.lend x0 x1) := by intro x0 x1 g m e h; cases h
theorem energyReconcile : ∀ x0, Statement (.energyReconcile x0) := by intro x0 g m e h; cases h
theorem powerOn : Statement (.powerOn) := by intro g m e h; cases h
theorem diesReady : ∀ x0 x1, Statement (.diesReady x0 x1) := by intro x0 x1 g m e h; cases h
theorem moduleReset : Statement (.moduleReset) := by intro g m e h; cases h
theorem arm : ∀ x0, Statement (.arm x0) := by intro x0 g m e h; cases h
theorem intstClear : ∀ x0, Statement (.intstClear x0) := by intro x0 g m e h; cases h
theorem hostRegWrite : ∀ x0 x1, Statement (.hostRegWrite x0 x1) := by intro x0 x1 g m e h; cases h
theorem bar2Access : ∀ x0 x1 x2 x3, Statement (.bar2Access x0 x1 x2 x3) := by intro x0 x1 x2 x3 g m e h; cases h
theorem attestRequest : ∀ x0, Statement (.attestRequest x0) := by intro x0 g m e h; cases h
theorem attestReport : Statement (.attestReport) := by intro g m e h; cases h
theorem recoveryImageWrite : ∀ x0 x1, Statement (.recoveryImageWrite x0 x1) := by intro x0 x1 g m e h; cases h
theorem flitReceive : ∀ x0 x1 x2 x3, Statement (.flitReceive x0 x1 x2 x3) := by intro x0 x1 x2 x3 g m e h; cases h
theorem portDown : ∀ x0, Statement (.portDown x0) := by intro x0 g m e h; cases h
theorem freezeAssert : Statement (.freezeAssert) := by intro g m e h; cases h
theorem freezeRelease : Statement (.freezeRelease) := by intro g m e h; cases h
theorem requestAccepted : ∀ x0, Statement (.requestAccepted x0) := by intro x0 g m e h; cases h
theorem translationComplete : ∀ x0, Statement (.translationComplete x0) := by intro x0 g m e h; cases h
theorem bundleFetched : ∀ x0, Statement (.bundleFetched x0) := by intro x0 g m e h; cases h
theorem ownedWordEviction : ∀ x0, Statement (.ownedWordEviction x0) := by intro x0 g m e h; cases h
theorem hostqTraceqDrain : ∀ x0, Statement (.hostqTraceqDrain x0) := by intro x0 g m e h; cases h
theorem portUp : ∀ x0, Statement (.portUp x0) := by intro x0 g m e h; cases h
theorem droopClear : Statement (.droopClear) := by intro g m e h; cases h
theorem managementPortAccess : ∀ x0 x1, Statement (.managementPortAccess x0 x1) := by intro x0 x1 g m e h; cases h
theorem tokenReconcile : ∀ x0 x1, Statement (.tokenReconcile x0 x1) := by intro x0 x1 g m e h; cases h
theorem coreOfflineClear : Statement (.coreOfflineClear) := by intro g m e h; cases h

end Sys2Proof.Laws.WordGuard

theorem Sys2Proof.Laws.WordGuard.recall : ∀ x0, Sys2Proof.Laws.WordGuard.Statement (.recall x0) := by intro x0 g m e h; cases h
end

