-- ==== Sys2Proof/Laws/Plain.lean ====
section
/-! SUPPORT. Accesses of engines to plain memory: HBM, in a page that is neither versioned nor reader-counted. -/

namespace Sys2Proof.Laws

open Sys2Proof.Machine Sys2Proof.Claims

/-- The memory of a machine whose memories are canonical is canonical. -/
theorem memOk_mem {s : State} (h : Safety.memOk s = true) : Memory.wf s.mem = true := by
  simp [Safety.memOk] at h; exact h.1.1.1.1.1.1

/-- So are its context's scratchpad and accumulator memory. -/
theorem memOk_spm {s : State} (h : Safety.memOk s = true) : Memory.wf s.ctx.spm = true ∧ Memory.wf s.ctx.acm = true := by
  simp [Safety.memOk, Safety.ctxMem] at h; exact h.1.1.2

/-- A plain address is in HBM. -/
theorem plain_place {s : State} {p : Pa} (h : Plain s p) : placeOf p.pa.toNat = .hbm := by simp [placeOf, h.2.2.2.1]

/-- Reading a plain address counts no reader. -/
theorem plain_count {s : State} {p : Pa} (h : Plain s p) : s.countRead p.pa.toNat = s := by simp [State.countRead, h.2.2.2.2.2.1]

/-- No line belongs to another key domain. -/
theorem enc_none {s : State} (h : s.encTags = []) (a : Nat) : s.encLost 0#4 a = false := by simp [State.encLost, State.encOf, h]

/-- A write through a plain address leaves the key domains. -/
theorem plain_retag {s : State} {p : Pa} (h : Plain s p) : s.retag p = s := by
  simp only [State.retag, h.2.2.1]; rw [if_neg (by simp [enc_none h.2.2.2.2.2.2])]

/-- With no KV window in use a read of HBM reads memory's bytes. -/
theorem plain_readMem {s : State} (h : s.kvAny = false) (a n : Nat) : s.readMem a n = Memory.read s.mem a n := by
  simp [State.readMem, h]

/-- A plain piece reads the bytes of memory and changes nothing. -/
theorem plain_read {s : State} {p : Pa} (h : Plain s p) (v : Option Nat) (n : Nat) :
    s.readPieces v [(p, n)] = (Memory.read s.mem p.pa.toNat n, s) := by
  simp [State.readPieces, State.readPiece, h.1, State.readPa, plain_place h, plain_count h, plain_readMem h.2.2.2.2.1]

/-- A number at a plain address is that of memory. -/
theorem plain_num {s : State} {p : Pa} (h : Plain s p) (n : Nat) : s.numPa p.pa.toNat n = Memory.num s.mem p.pa.toNat n := by
  simp [State.numPa, State.readPa, plain_place h, Memory.num, plain_readMem h.2.2.2.2.1]

/-- With no KV window in use a write to HBM writes the bytes and nothing else. -/
theorem plain_writeHbm {s : State} (h : s.kvAny = false) (a : Nat) (bs : List Byte) : s.writeHbm a bs = { s with mem := Memory.write s.mem a bs } := by
  simp [State.writeHbm, h]

/-- An engine's write to a plain address: the bytes; the owned words that they cover leave the scalar L1, other cores' registrations of them end, and
lines written whole are good again. -/
theorem plain_agent {s : State} {p : Pa} (h : Plain s p) (r : Nat) (bs : List Byte) :
    s.agentWrite p r bs = { s with l1 := (s.dropOwned p.pa.toNat bs.length).l1, asleep := (s.unregister p.pa.toNat bs.length).asleep,
                                   poison := (s.heal p.pa.toNat bs.length).poison, mem := Memory.write s.mem p.pa.toNat bs } := by
  have hu : s.uncount p.pa.toNat = s := by
    have hc := h.2.2.2.2.2.1
    cases s; simp_all [State.uncount]
  simp only [State.agentWrite, plain_place h, h.2.1, State.engineWrite, State.writePa]
  simp only [if_true, Bool.false_eq_true, false_and, if_false, hu, plain_retag h]
  rw [plain_writeHbm (by simpa [State.kvAny, State.unregister, State.dropOwned, State.bdeOf] using h.2.2.2.2.1)]
  simp [State.dropOwned, State.unregister, State.heal]

/-- A write of one plain piece. -/
theorem plain_write {s : State} {p : Pa} (h : Plain s p) (r n : Nat) (bs : List Byte) :
    s.writePieces r [(p, n)] bs = .ok (s.agentWrite p r (bs.take n)) := by
  simp [State.writePieces, h.1, Except.mapError]

/-- A plain piece is never locked. -/
theorem plain_lock {s : State} {p : Pa} (h : Plain s p) (n : Nat) : s.piecesLocked [(p, n)] = false := by
  simp [State.piecesLocked, h.1]

/-! ### Pieces laid out one after another -/

theorem read_append (m : Mem) (a k n : Nat) : Memory.read m a (k + n) = Memory.read m a k ++ Memory.read m (a + k) n := by
  induction k generalizing a with
  | zero => simp [Memory.read]
  | succ k ih => rw [Nat.succ_add, Memory.read, ih, Memory.read, List.cons_append]; congr 3; omega

theorem write_append (m : Mem) (a : Nat) (xs ys : List Byte) : Memory.write m a (xs ++ ys) = Memory.write (Memory.write m a xs) (a + xs.length) ys := by
  induction xs generalizing m a with
  | nil => rfl
  | cons x xs ih => rw [List.cons_append, Memory.write, ih, Memory.write, List.length_cons]; congr 1; omega

/-- A piece that is laid out in HBM is plain. -/
theorem plain_of {s : State} {x : Nat} (hx : x < 0x8000000000) (hk : s.kvAny = false) (hc : s.counted = [] ∧ s.encTags = []) :
    Plain s ⟨BitVec.ofNat 40 x, false, false, 0⟩ ∧ (BitVec.ofNat 40 x).toNat = x := by
  have e : (BitVec.ofNat 40 x).toNat = x := by simp; omega
  exact ⟨⟨rfl, rfl, rfl, by rw [e]; exact hx, hk, hc⟩, e⟩

/-- Reading pieces laid out from `base` reads the bytes of memory there and changes nothing. -/
theorem readPieces_laid {s : State} (view : Option Nat) {base va : Nat} (hk : s.kvAny = false) (hc : s.counted = [] ∧ s.encTags = []) :
    ∀ fuel a n, va ≤ a → base + (a - va) + n ≤ 0x8000000000 → n = 0 ∨ a % 128 + n ≤ 128 * fuel →
      s.readPieces view ((linePieces fuel a n).map fun q => (⟨BitVec.ofNat 40 (base + (q.1 - va)), false, false, 0⟩, q.2))
        = (Memory.read s.mem (base + (a - va)) n, s)
  | 0, a, n, _, _, hf => by
    have : n = 0 := by omega
    subst this; rfl
  | fuel + 1, a, n, ha, hb, hf => by
    rw [linePieces]
    split
    · next h => subst h; rfl
    · next h =>
      obtain ⟨hp, hx⟩ := plain_of (s := s) (x := base + (a - va)) (by omega) hk hc
      have ih := readPieces_laid view (base := base) (va := va) hk hc fuel (a + min n (128 - a % 128)) (n - min n (128 - a % 128)) (by omega) (by omega) (by omega)
      simp only [List.map_cons, State.readPieces]
      have one := plain_read hp view (min n (128 - a % 128))
      simp only [State.readPieces, List.append_nil, hx] at one
      rw [Prod.mk.injEq] at one
      simp only [one.1, one.2, ih]
      have e : base + (a + min n (128 - a % 128) - va) = base + (a - va) + min n (128 - a % 128) := by omega
      rw [e, ← read_append, Nat.add_sub_cancel' (by omega)]

/-- A read of `n` bytes laid out from `base`. -/
theorem laid_read {s : State} {base : Nat} {va : Word} {n : Nat} {ps : List (Pa × Nat)} (h : Laid s base va n ps) (view : Option Nat) :
    s.readPieces view ps = (Memory.read s.mem base n, s) := by
  obtain ⟨rfl, hb, hk, hc⟩ := h
  have := readPieces_laid (s := s) view (base := base) (va := va.toNat) hk hc ((va.toNat % 128 + n + 127) / 128) va.toNat n (Nat.le_refl _) (by omega)
    (by omega)
  simpa [piecesOf] using this

/-- Writing pieces laid out from `base` stores the bytes there; of the rest the scalar L1 may lose words, other cores' registrations may end and lines
may be good again. -/
theorem writePieces_laid (rcn : Nat) {base va : Nat} :
    ∀ fuel a n (s : State) (bs : List Byte), s.kvAny = false → (s.counted = [] ∧ s.encTags = []) → bs.length = n → va ≤ a → base + (a - va) + n ≤ 0x8000000000 →
      n = 0 ∨ a % 128 + n ≤ 128 * fuel →
      ∃ l1 sl po, s.writePieces rcn ((linePieces fuel a n).map fun q => (⟨BitVec.ofNat 40 (base + (q.1 - va)), false, false, 0⟩, q.2)) bs
        = .ok { s with mem := Memory.write s.mem (base + (a - va)) bs, l1 := l1, asleep := sl, poison := po }
  | 0, a, n, s, bs, _, _, hl, _, _, hf => by
    have : n = 0 := by omega
    subst this
    have : bs = [] := List.eq_nil_of_length_eq_zero hl
    subst this; exact ⟨s.l1, s.asleep, s.poison, rfl⟩
  | fuel + 1, a, n, s, bs, hk, hc, hl, ha, hb, hf => by
    rw [linePieces]
    split
    · next h =>
      subst h
      have : bs = [] := List.eq_nil_of_length_eq_zero hl
      subst this; exact ⟨s.l1, s.asleep, s.poison, rfl⟩
    · next h =>
      obtain ⟨hp, hx⟩ := plain_of (s := s) (x := base + (a - va)) (by omega) hk hc
      have one := plain_agent hp rcn (bs.take (min n (128 - a % 128)))
      rw [hx] at one
      obtain ⟨l1, sl, po, ih⟩ := writePieces_laid rcn (base := base) (va := va) fuel (a + min n (128 - a % 128)) (n - min n (128 - a % 128))
        (s.agentWrite ⟨BitVec.ofNat 40 (base + (a - va)), false, false, 0⟩ rcn (bs.take (min n (128 - a % 128)))) (bs.drop (min n (128 - a % 128)))
        (by rw [one]; exact hk) (by rw [one]; exact hc) (by simp [hl]) (by omega) (by omega) (by omega)
      refine ⟨l1, sl, po, ?_⟩
      have e : base + (a + min n (128 - a % 128) - va) = base + (a - va) + (bs.take (min n (128 - a % 128))).length := by
        rw [List.length_take, hl]; omega
      rw [e, one] at ih
      dsimp only at ih
      rw [← write_append, List.take_append_drop] at ih
      simp only [List.map_cons, State.writePieces, Bool.false_and, Bool.false_eq_true, if_false, one, ih, Except.mapError]

/-- A write of `n` bytes laid out from `base`. -/
theorem laid_write {s : State} {base : Nat} {va : Word} {n : Nat} {ps : List (Pa × Nat)} (h : Laid s base va n ps) (rcn : Nat) (bs : List Byte)
    (hl : bs.length = n) :
    ∃ l1 sl po, s.writePieces rcn ps bs = .ok { s with mem := Memory.write s.mem base bs, l1 := l1, asleep := sl, poison := po } := by
  obtain ⟨rfl, hb, hk, hc⟩ := h
  have := writePieces_laid rcn (base := base) (va := va.toNat) ((va.toNat % 128 + n + 127) / 128) va.toNat n s bs hk hc hl (Nat.le_refl _) (by omega)
    (by omega)
  simpa [piecesOf] using this

/-- Pieces laid out in HBM are never locked. -/
theorem laid_lock {s : State} {base : Nat} {va : Word} {n : Nat} {ps : List (Pa × Nat)} (h : Laid s base va n ps) : s.piecesLocked ps = false := by
  obtain ⟨rfl, _⟩ := h
  simp [State.piecesLocked]


end Sys2Proof.Laws
end

