-- ==== Sys2Proof/Laws/State.lean ====
section
/-! SUPPORT. Each field of the state under each shared update: a register set replaced, a result put in flight, a trap taken, the return from
one; and the one way every slot instruction runs. -/

namespace Sys2Proof.Laws

open Sys2Proof Sys2Proof.Machine

/-! ### A register set replaced -/

@[simp] theorem setRs_rs (s : State) (r : RegSet) : (s.setRs r).rs = r := by
  cases h : s.mode <;> simp [State.setRs, State.rs, h]
@[simp] theorem setRs_agenda (s : State) (r : RegSet) : (s.setRs r).agenda = s.agenda := by cases h : s.mode <;> simp [State.setRs, h]
@[simp] theorem setRs_draws (s : State) (r : RegSet) : (s.setRs r).draws = s.draws := by cases h : s.mode <;> simp [State.setRs, h]
@[simp] theorem setRs_lead (s : State) (r : RegSet) : (s.setRs r).lead = s.lead := by cases h : s.mode <;> simp [State.setRs, h]
@[simp] theorem setRs_seq (s : State) (r : RegSet) : (s.setRs r).seq = s.seq := by cases h : s.mode <;> simp [State.setRs, h]
@[simp] theorem setRs_host (s : State) (r : RegSet) : (s.setRs r).host = s.host := by cases h : s.mode <;> simp [State.setRs, h]
@[simp] theorem setRs_mem (s : State) (r : RegSet) : (s.setRs r).mem = s.mem := by cases h : s.mode <;> simp [State.setRs, h]
@[simp] theorem setRs_peerMem (s : State) (r : RegSet) : (s.setRs r).peerMem = s.peerMem := by cases h : s.mode <;> simp [State.setRs, h]
@[simp] theorem setRs_peerWin (s : State) (r : RegSet) : (s.setRs r).peerWin = s.peerWin := by cases h : s.mode <;> simp [State.setRs, h]
@[simp] theorem setRs_peers (s : State) (r : RegSet) : (s.setRs r).peers = s.peers := by cases h : s.mode <;> simp [State.setRs, h]
@[simp] theorem setRs_pexb (s : State) (r : RegSet) : (s.setRs r).pexb = s.pexb := by cases h : s.mode <;> simp [State.setRs, h]
@[simp] theorem setRs_pexl (s : State) (r : RegSet) : (s.setRs r).pexl = s.pexl := by cases h : s.mode <;> simp [State.setRs, h]
@[simp] theorem setRs_remoteFull (s : State) (r : RegSet) : (s.setRs r).remoteFull = s.remoteFull := by cases h : s.mode <;> simp [State.setRs, h]
@[simp] theorem setRs_counted (s : State) (r : RegSet) : (s.setRs r).counted = s.counted := by cases h : s.mode <;> simp [State.setRs, h]
@[simp] theorem setRs_errorLog (s : State) (r : RegSet) : (s.setRs r).errorLog = s.errorLog := by cases h : s.mode <;> simp [State.setRs, h]
@[simp] theorem setRs_bde (s : State) (r : RegSet) : (s.setRs r).bde = s.bde := by cases h : s.mode <;> simp [State.setRs, h]
@[simp] theorem setRs_scrub (s : State) (r : RegSet) : (s.setRs r).scrub = s.scrub := by cases h : s.mode <;> simp [State.setRs, h]
@[simp] theorem setRs_poison (s : State) (r : RegSet) : (s.setRs r).poison = s.poison := by cases h : s.mode <;> simp [State.setRs, h]
@[simp] theorem setRs_remoteAcm (s : State) (r : RegSet) : (s.setRs r).remoteAcm = s.remoteAcm := by cases h : s.mode <;> simp [State.setRs, h]
@[simp] theorem setRs_soft (s : State) (r : RegSet) : (s.setRs r).soft = s.soft := by cases h : s.mode <;> simp [State.setRs, h]
@[simp] theorem setRs_encTags (s : State) (r : RegSet) : (s.setRs r).encTags = s.encTags := by cases h : s.mode <;> simp [State.setRs, h]
@[simp] theorem setRs_asleep (s : State) (r : RegSet) : (s.setRs r).asleep = s.asleep := by cases h : s.mode <;> simp [State.setRs, h]
@[simp] theorem setRs_tlb (s : State) (r : RegSet) : (s.setRs r).tlb = s.tlb := by cases h : s.mode <;> simp [State.setRs, h]
@[simp] theorem setRs_dieTlb (s : State) (r : RegSet) : (s.setRs r).dieTlb = s.dieTlb := by cases h : s.mode <;> simp [State.setRs, h]
@[simp] theorem setRs_l1 (s : State) (r : RegSet) : (s.setRs r).l1 = s.l1 := by cases h : s.mode <;> simp [State.setRs, h]
@[simp] theorem setRs_icache (s : State) (r : RegSet) : (s.setRs r).icache = s.icache := by cases h : s.mode <;> simp [State.setRs, h]
@[simp] theorem setRs_chains (s : State) (r : RegSet) : (s.setRs r).chains = s.chains := by cases h : s.mode <;> simp [State.setRs, h]
@[simp] theorem setRs_vsuLast (s : State) (r : RegSet) : (s.setRs r).vsuLast = s.vsuLast := by cases h : s.mode <;> simp [State.setRs, h]
@[simp] theorem setRs_vsuOpen (s : State) (r : RegSet) : (s.setRs r).vsuOpen = s.vsuOpen := by cases h : s.mode <;> simp [State.setRs, h]
@[simp] theorem setRs_foreignSnaps (s : State) (r : RegSet) : (s.setRs r).foreignSnaps = s.foreignSnaps := by cases h : s.mode <;> simp [State.setRs, h]
@[simp] theorem setRs_foreignTxns (s : State) (r : RegSet) : (s.setRs r).foreignTxns = s.foreignTxns := by cases h : s.mode <;> simp [State.setRs, h]
@[simp] theorem setRs_foreignCommits (s : State) (r : RegSet) : (s.setRs r).foreignCommits = s.foreignCommits := by cases h : s.mode <;> simp [State.setRs, h]
@[simp] theorem setRs_vrcl (s : State) (r : RegSet) : (s.setRs r).vrcl = s.vrcl := by cases h : s.mode <;> simp [State.setRs, h]
@[simp] theorem setRs_vspl (s : State) (r : RegSet) : (s.setRs r).vspl = s.vspl := by cases h : s.mode <;> simp [State.setRs, h]
@[simp] theorem setRs_sqSlots (s : State) (r : RegSet) : (s.setRs r).sqSlots = s.sqSlots := by cases h : s.mode <;> simp [State.setRs, h]
@[simp] theorem setRs_pageStack (s : State) (r : RegSet) : (s.setRs r).pageStack = s.pageStack := by cases h : s.mode <;> simp [State.setRs, h]
@[simp] theorem setRs_evicted (s : State) (r : RegSet) : (s.setRs r).evicted = s.evicted := by cases h : s.mode <;> simp [State.setRs, h]
@[simp] theorem setRs_sqEvents (s : State) (r : RegSet) : (s.setRs r).sqEvents = s.sqEvents := by cases h : s.mode <;> simp [State.setRs, h]
@[simp] theorem setRs_tevrWait (s : State) (r : RegSet) : (s.setRs r).tevrWait = s.tevrWait := by cases h : s.mode <;> simp [State.setRs, h]
@[simp] theorem setRs_crossings (s : State) (r : RegSet) : (s.setRs r).crossings = s.crossings := by cases h : s.mode <;> simp [State.setRs, h]
@[simp] theorem setRs_queues (s : State) (r : RegSet) : (s.setRs r).queues = s.queues := by cases h : s.mode <;> simp [State.setRs, h]
@[simp] theorem setRs_kernels (s : State) (r : RegSet) : (s.setRs r).kernels = s.kernels := by cases h : s.mode <;> simp [State.setRs, h]
@[simp] theorem setRs_busy (s : State) (r : RegSet) : (s.setRs r).busy = s.busy := by cases h : s.mode <;> simp [State.setRs, h]
@[simp] theorem setRs_ranges (s : State) (r : RegSet) : (s.setRs r).ranges = s.ranges := by cases h : s.mode <;> simp [State.setRs, h]
@[simp] theorem setRs_power (s : State) (r : RegSet) : (s.setRs r).power = s.power := by cases h : s.mode <;> simp [State.setRs, h]
@[simp] theorem setRs_microTag (s : State) (r : RegSet) : (s.setRs r).microTag = s.microTag := by cases h : s.mode <;> simp [State.setRs, h]
@[simp] theorem setRs_coreNum (s : State) (r : RegSet) : (s.setRs r).coreNum = s.coreNum := by cases h : s.mode <;> simp [State.setRs, h]
@[simp] theorem setRs_offline (s : State) (r : RegSet) : (s.setRs r).offline = s.offline := by cases h : s.mode <;> simp [State.setRs, h]
@[simp] theorem setRs_live (s : State) (r : RegSet) : (s.setRs r).live = s.live := by cases h : s.mode <;> simp [State.setRs, h]
@[simp] theorem setRs_mode (s : State) (r : RegSet) : (s.setRs r).mode = s.mode := by cases h : s.mode <;> simp [State.setRs, h]
@[simp] theorem setRs_parked (s : State) (r : RegSet) : (s.setRs r).parked = s.parked := by cases h : s.mode <;> simp [State.setRs, h]
@[simp] theorem setRs_preloaded (s : State) (r : RegSet) : (s.setRs r).preloaded = s.preloaded := by cases h : s.mode <;> simp [State.setRs, h]
@[simp] theorem setRs_supBounds (s : State) (r : RegSet) : (s.setRs r).supBounds = s.supBounds := by cases h : s.mode <;> simp [State.setRs, h]
@[simp] theorem setRs_trap (s : State) (r : RegSet) : (s.setRs r).trap = s.trap := by cases h : s.mode <;> simp [State.setRs, h]
@[simp] theorem setRs_pending (s : State) (r : RegSet) : (s.setRs r).pending = s.pending := by cases h : s.mode <;> simp [State.setRs, h]
@[simp] theorem setRs_comb (s : State) (r : RegSet) : (s.setRs r).comb = s.comb := by cases h : s.mode <;> simp [State.setRs, h]
@[simp] theorem setRs_wctx (s : State) (r : RegSet) : (s.setRs r).wctx = s.wctx := by cases h : s.mode <;> simp [State.setRs, h]
@[simp] theorem setRs_rgsel (s : State) (r : RegSet) : (s.setRs r).rgsel = s.rgsel := by cases h : s.mode <;> simp [State.setRs, h]
@[simp] theorem setRs_rgbase (s : State) (r : RegSet) : (s.setRs r).rgbase = s.rgbase := by cases h : s.mode <;> simp [State.setRs, h]
@[simp] theorem setRs_rgcfg (s : State) (r : RegSet) : (s.setRs r).rgcfg = s.rgcfg := by cases h : s.mode <;> simp [State.setRs, h]
@[simp] theorem setRs_stdrop (s : State) (r : RegSet) : (s.setRs r).stdrop = s.stdrop := by cases h : s.mode <;> simp [State.setRs, h]
@[simp] theorem setRs_frec (s : State) (r : RegSet) : (s.setRs r).frec = s.frec := by cases h : s.mode <;> simp [State.setRs, h]
@[simp] theorem setRs_tevr (s : State) (r : RegSet) : (s.setRs r).tevr = s.tevr := by cases h : s.mode <;> simp [State.setRs, h]
@[simp] theorem setRs_ptbase (s : State) (r : RegSet) : (s.setRs r).ptbase = s.ptbase := by cases h : s.mode <;> simp [State.setRs, h]
@[simp] theorem setRs_ptlog (s : State) (r : RegSet) : (s.setRs r).ptlog = s.ptlog := by cases h : s.mode <;> simp [State.setRs, h]
@[simp] theorem setRs_probes (s : State) (r : RegSet) : (s.setRs r).probes = s.probes := by cases h : s.mode <;> simp [State.setRs, h]
@[simp] theorem setRs_jobs (s : State) (r : RegSet) : (s.setRs r).jobs = s.jobs := by cases h : s.mode <;> simp [State.setRs, h]
@[simp] theorem setRs_chan (s : State) (r : RegSet) : (s.setRs r).chan = s.chan := by cases h : s.mode <;> simp [State.setRs, h]
@[simp] theorem setRs_latches (s : State) (r : RegSet) : (s.setRs r).latches = s.latches := by cases h : s.mode <;> simp [State.setRs, h]
@[simp] theorem setRs_busSeen (s : State) (r : RegSet) : (s.setRs r).busSeen = s.busSeen := by cases h : s.mode <;> simp [State.setRs, h]
@[simp] theorem setRs_busMissed (s : State) (r : RegSet) : (s.setRs r).busMissed = s.busMissed := by cases h : s.mode <;> simp [State.setRs, h]
@[simp] theorem setRs_ctx_id (s : State) (r : RegSet) : (s.setRs r).ctx.id = s.ctx.id := by cases h : s.mode <;> simp [State.setRs, h]
@[simp] theorem setRs_ctx_kernel (s : State) (r : RegSet) : (s.setRs r).ctx.kernel = s.ctx.kernel := by cases h : s.mode <;> simp [State.setRs, h]
@[simp] theorem setRs_ctx_cls (s : State) (r : RegSet) : (s.setRs r).ctx.cls = s.ctx.cls := by cases h : s.mode <;> simp [State.setRs, h]
@[simp] theorem setRs_ctx_pre (s : State) (r : RegSet) : (s.setRs r).ctx.pre = s.ctx.pre := by cases h : s.mode <;> simp [State.setRs, h]
@[simp] theorem setRs_ctx_rank (s : State) (r : RegSet) : (s.setRs r).ctx.rank = s.ctx.rank := by cases h : s.mode <;> simp [State.setRs, h]
@[simp] theorem setRs_ctx_task (s : State) (r : RegSet) : (s.setRs r).ctx.task = s.ctx.task := by cases h : s.mode <;> simp [State.setRs, h]
@[simp] theorem setRs_ctx_core (s : State) (r : RegSet) : (s.setRs r).ctx.core = s.ctx.core := by cases h : s.mode <;> simp [State.setRs, h]
@[simp] theorem setRs_ctx_pkg (s : State) (r : RegSet) : (s.setRs r).ctx.pkg = s.ctx.pkg := by cases h : s.mode <;> simp [State.setRs, h]
@[simp] theorem setRs_ctx_runTime (s : State) (r : RegSet) : (s.setRs r).ctx.runTime = s.ctx.runTime := by cases h : s.mode <;> simp [State.setRs, h]
@[simp] theorem setRs_ctx_csr (s : State) (r : RegSet) : (s.setRs r).ctx.csr = s.ctx.csr := by cases h : s.mode <;> simp [State.setRs, h]
@[simp] theorem setRs_ctx_ports (s : State) (r : RegSet) : (s.setRs r).ctx.ports = s.ctx.ports := by cases h : s.mode <;> simp [State.setRs, h]
@[simp] theorem setRs_ctx_latches (s : State) (r : RegSet) : (s.setRs r).ctx.latches = s.ctx.latches := by cases h : s.mode <;> simp [State.setRs, h]
@[simp] theorem setRs_ctx_masks (s : State) (r : RegSet) : (s.setRs r).ctx.masks = s.ctx.masks := by cases h : s.mode <;> simp [State.setRs, h]
@[simp] theorem setRs_ctx_statq (s : State) (r : RegSet) : (s.setRs r).ctx.statq = s.ctx.statq := by cases h : s.mode <;> simp [State.setRs, h]
@[simp] theorem setRs_ctx_rngq (s : State) (r : RegSet) : (s.setRs r).ctx.rngq = s.ctx.rngq := by cases h : s.mode <;> simp [State.setRs, h]
@[simp] theorem setRs_ctx_sqevq (s : State) (r : RegSet) : (s.setRs r).ctx.sqevq = s.ctx.sqevq := by cases h : s.mode <;> simp [State.setRs, h]
@[simp] theorem setRs_ctx_tapq (s : State) (r : RegSet) : (s.setRs r).ctx.tapq = s.ctx.tapq := by cases h : s.mode <;> simp [State.setRs, h]
@[simp] theorem setRs_ctx_msgin (s : State) (r : RegSet) : (s.setRs r).ctx.msgin = s.ctx.msgin := by cases h : s.mode <;> simp [State.setRs, h]
@[simp] theorem setRs_ctx_msgout (s : State) (r : RegSet) : (s.setRs r).ctx.msgout = s.ctx.msgout := by cases h : s.mode <;> simp [State.setRs, h]
@[simp] theorem setRs_ctx_hostq (s : State) (r : RegSet) : (s.setRs r).ctx.hostq = s.ctx.hostq := by cases h : s.mode <;> simp [State.setRs, h]
@[simp] theorem setRs_ctx_traceq (s : State) (r : RegSet) : (s.setRs r).ctx.traceq = s.ctx.traceq := by cases h : s.mode <;> simp [State.setRs, h]
@[simp] theorem setRs_ctx_rngKey (s : State) (r : RegSet) : (s.setRs r).ctx.rngKey = s.ctx.rngKey := by cases h : s.mode <;> simp [State.setRs, h]
@[simp] theorem setRs_ctx_rngCtr (s : State) (r : RegSet) : (s.setRs r).ctx.rngCtr = s.ctx.rngCtr := by cases h : s.mode <;> simp [State.setRs, h]
@[simp] theorem setRs_ctx_bundleRnd (s : State) (r : RegSet) : (s.setRs r).ctx.bundleRnd = s.ctx.bundleRnd := by cases h : s.mode <;> simp [State.setRs, h]
@[simp] theorem setRs_ctx_xpose (s : State) (r : RegSet) : (s.setRs r).ctx.xpose = s.ctx.xpose := by cases h : s.mode <;> simp [State.setRs, h]
@[simp] theorem setRs_ctx_mp (s : State) (r : RegSet) : (s.setRs r).ctx.mp = s.ctx.mp := by cases h : s.mode <;> simp [State.setRs, h]
@[simp] theorem setRs_ctx_ec (s : State) (r : RegSet) : (s.setRs r).ctx.ec = s.ctx.ec := by cases h : s.mode <;> simp [State.setRs, h]
@[simp] theorem setRs_ctx_doms (s : State) (r : RegSet) : (s.setRs r).ctx.doms = s.ctx.doms := by cases h : s.mode <;> simp [State.setRs, h]
@[simp] theorem setRs_ctx_spm (s : State) (r : RegSet) : (s.setRs r).ctx.spm = s.ctx.spm := by cases h : s.mode <;> simp [State.setRs, h]
@[simp] theorem setRs_ctx_spmBanks (s : State) (r : RegSet) : (s.setRs r).ctx.spmBanks = s.ctx.spmBanks := by cases h : s.mode <;> simp [State.setRs, h]
@[simp] theorem setRs_ctx_full (s : State) (r : RegSet) : (s.setRs r).ctx.full = s.ctx.full := by cases h : s.mode <;> simp [State.setRs, h]
@[simp] theorem setRs_ctx_acm (s : State) (r : RegSet) : (s.setRs r).ctx.acm = s.ctx.acm := by cases h : s.mode <;> simp [State.setRs, h]
@[simp] theorem setRs_ctx_acmBanks (s : State) (r : RegSet) : (s.setRs r).ctx.acmBanks = s.ctx.acmBanks := by cases h : s.mode <;> simp [State.setRs, h]
@[simp] theorem setRs_ctx_regions (s : State) (r : RegSet) : (s.setRs r).ctx.regions = s.ctx.regions := by cases h : s.mode <;> simp [State.setRs, h]
@[simp] theorem setRs_ctx_calls (s : State) (r : RegSet) : (s.setRs r).ctx.calls = s.ctx.calls := by cases h : s.mode <;> simp [State.setRs, h]
@[simp] theorem setRs_ctx_running (s : State) (r : RegSet) : (s.setRs r).ctx.running = s.ctx.running := by cases h : s.mode <;> simp [State.setRs, h]
@[simp] theorem setRs_ctx_maskTile (s : State) (r : RegSet) : (s.setRs r).ctx.maskTile = s.ctx.maskTile := by cases h : s.mode <;> simp [State.setRs, h]
@[simp] theorem setRs_ctx_wb0 (s : State) (r : RegSet) : (s.setRs r).ctx.wb0 = s.ctx.wb0 := by cases h : s.mode <;> simp [State.setRs, h]
@[simp] theorem setRs_ctx_wb1 (s : State) (r : RegSet) : (s.setRs r).ctx.wb1 = s.ctx.wb1 := by cases h : s.mode <;> simp [State.setRs, h]
@[simp] theorem setRs_ctx_microWords (s : State) (r : RegSet) : (s.setRs r).ctx.microWords = s.ctx.microWords := by cases h : s.mode <;> simp [State.setRs, h]
@[simp] theorem setRs_ctx_microTable (s : State) (r : RegSet) : (s.setRs r).ctx.microTable = s.ctx.microTable := by cases h : s.mode <;> simp [State.setRs, h]
@[simp] theorem setRs_ctx_snap (s : State) (r : RegSet) : (s.setRs r).ctx.snap = s.ctx.snap := by cases h : s.mode <;> simp [State.setRs, h]
@[simp] theorem setRs_ctx_txn (s : State) (r : RegSet) : (s.setRs r).ctx.txn = s.ctx.txn := by cases h : s.mode <;> simp [State.setRs, h]
@[simp] theorem setRs_ctx_commit (s : State) (r : RegSet) : (s.setRs r).ctx.commit = s.ctx.commit := by cases h : s.mode <;> simp [State.setRs, h]
@[simp] theorem setRs_ctx_taps (s : State) (r : RegSet) : (s.setRs r).ctx.taps = s.ctx.taps := by cases h : s.mode <;> simp [State.setRs, h]
@[simp] theorem setRs_ctx_bounds (s : State) (r : RegSet) : (s.setRs r).ctx.bounds = s.ctx.bounds := by cases h : s.mode <;> simp [State.setRs, h]
@[simp] theorem setRs_ctx_sleep (s : State) (r : RegSet) : (s.setRs r).ctx.sleep = s.ctx.sleep := by cases h : s.mode <;> simp [State.setRs, h]
@[simp] theorem setRs_ctx_boost (s : State) (r : RegSet) : (s.setRs r).ctx.boost = s.ctx.boost := by cases h : s.mode <;> simp [State.setRs, h]
@[simp] theorem setRs_ctx_pend (s : State) (r : RegSet) : (s.setRs r).ctx.pend = s.ctx.pend := by cases h : s.mode <;> simp [State.setRs, h]
@[simp] theorem setRs_ctx_load (s : State) (r : RegSet) : (s.setRs r).ctx.load = s.ctx.load := by cases h : s.mode <;> simp [State.setRs, h]
@[simp] theorem setRs_ctx_dead (s : State) (r : RegSet) : (s.setRs r).ctx.dead = s.ctx.dead := by cases h : s.mode <;> simp [State.setRs, h]
@[simp] theorem setRs_ctx_gopp (s : State) (r : RegSet) : (s.setRs r).ctx.gopp = s.ctx.gopp := by cases h : s.mode <;> simp [State.setRs, h]
@[simp] theorem setRs_ctx_carried (s : State) (r : RegSet) : (s.setRs r).ctx.carried = s.ctx.carried := by cases h : s.mode <;> simp [State.setRs, h]
@[simp] theorem setRs_ctx_carriedNext (s : State) (r : RegSet) : (s.setRs r).ctx.carriedNext = s.ctx.carriedNext := by cases h : s.mode <;> simp [State.setRs, h]
@[simp] theorem setRs_ctx_estimate (s : State) (r : RegSet) : (s.setRs r).ctx.estimate = s.ctx.estimate := by cases h : s.mode <;> simp [State.setRs, h]
@[simp] theorem setRs_ctx_debit (s : State) (r : RegSet) : (s.setRs r).ctx.debit = s.ctx.debit := by cases h : s.mode <;> simp [State.setRs, h]
@[simp] theorem setRs_ctx_later (s : State) (r : RegSet) : (s.setRs r).ctx.later = s.ctx.later := by cases h : s.mode <;> simp [State.setRs, h]
@[simp] theorem setRs_ctx_bankSet (s : State) (r : RegSet) : (s.setRs r).ctx.bankSet = s.ctx.bankSet := by cases h : s.mode <;> simp [State.setRs, h]
@[simp] theorem setRs_ctx_acmRes (s : State) (r : RegSet) : (s.setRs r).ctx.acmRes = s.ctx.acmRes := by cases h : s.mode <;> simp [State.setRs, h]
@[simp] theorem setRs_ctx_spmRes (s : State) (r : RegSet) : (s.setRs r).ctx.spmRes = s.ctx.spmRes := by cases h : s.mode <;> simp [State.setRs, h]
@[simp] theorem setRs_setRs (s : State) (r r' : RegSet) : (s.setRs r).setRs r' = s.setRs r' := by
  cases h : s.mode <;> simp [State.setRs, h]

/-! ### A result put in flight (R60) -/

/-- A result enters with its landing tick, its issue tick and its number; the rest of its register set stays. -/
@[simp] theorem inFlight_rs (s : State) (lat : Nat) (a : Land) : (s.inFlight lat a).rs =
    { s.rs with flights := s.rs.flights ++ [⟨s.rs.tick + lat, s.rs.tick, s.seq, none, a⟩] } := setRs_rs s _
@[simp] theorem inFlight_seq (s : State) (lat : Nat) (a : Land) : (s.inFlight lat a).seq = s.seq + 1 := rfl
@[simp] theorem inFlight_agenda (s : State) (lat : Nat) (a : Land) : (s.inFlight lat a).agenda = s.agenda := setRs_agenda s _
@[simp] theorem inFlight_draws (s : State) (lat : Nat) (a : Land) : (s.inFlight lat a).draws = s.draws := setRs_draws s _
@[simp] theorem inFlight_lead (s : State) (lat : Nat) (a : Land) : (s.inFlight lat a).lead = s.lead := setRs_lead s _
@[simp] theorem inFlight_host (s : State) (lat : Nat) (a : Land) : (s.inFlight lat a).host = s.host := setRs_host s _
@[simp] theorem inFlight_mem (s : State) (lat : Nat) (a : Land) : (s.inFlight lat a).mem = s.mem := setRs_mem s _
@[simp] theorem inFlight_peerMem (s : State) (lat : Nat) (a : Land) : (s.inFlight lat a).peerMem = s.peerMem := setRs_peerMem s _
@[simp] theorem inFlight_peerWin (s : State) (lat : Nat) (a : Land) : (s.inFlight lat a).peerWin = s.peerWin := setRs_peerWin s _
@[simp] theorem inFlight_peers (s : State) (lat : Nat) (a : Land) : (s.inFlight lat a).peers = s.peers := setRs_peers s _
@[simp] theorem inFlight_pexb (s : State) (lat : Nat) (a : Land) : (s.inFlight lat a).pexb = s.pexb := setRs_pexb s _
@[simp] theorem inFlight_pexl (s : State) (lat : Nat) (a : Land) : (s.inFlight lat a).pexl = s.pexl := setRs_pexl s _
@[simp] theorem inFlight_remoteFull (s : State) (lat : Nat) (a : Land) : (s.inFlight lat a).remoteFull = s.remoteFull := setRs_remoteFull s _
@[simp] theorem inFlight_counted (s : State) (lat : Nat) (a : Land) : (s.inFlight lat a).counted = s.counted := setRs_counted s _
@[simp] theorem inFlight_errorLog (s : State) (lat : Nat) (a : Land) : (s.inFlight lat a).errorLog = s.errorLog := setRs_errorLog s _
@[simp] theorem inFlight_bde (s : State) (lat : Nat) (a : Land) : (s.inFlight lat a).bde = s.bde := setRs_bde s _
@[simp] theorem inFlight_scrub (s : State) (lat : Nat) (a : Land) : (s.inFlight lat a).scrub = s.scrub := setRs_scrub s _
@[simp] theorem inFlight_poison (s : State) (lat : Nat) (a : Land) : (s.inFlight lat a).poison = s.poison := setRs_poison s _
@[simp] theorem inFlight_remoteAcm (s : State) (lat : Nat) (a : Land) : (s.inFlight lat a).remoteAcm = s.remoteAcm := setRs_remoteAcm s _
@[simp] theorem inFlight_soft (s : State) (lat : Nat) (a : Land) : (s.inFlight lat a).soft = s.soft := setRs_soft s _
@[simp] theorem inFlight_encTags (s : State) (lat : Nat) (a : Land) : (s.inFlight lat a).encTags = s.encTags := setRs_encTags s _
@[simp] theorem inFlight_asleep (s : State) (lat : Nat) (a : Land) : (s.inFlight lat a).asleep = s.asleep := setRs_asleep s _
@[simp] theorem inFlight_tlb (s : State) (lat : Nat) (a : Land) : (s.inFlight lat a).tlb = s.tlb := setRs_tlb s _
@[simp] theorem inFlight_dieTlb (s : State) (lat : Nat) (a : Land) : (s.inFlight lat a).dieTlb = s.dieTlb := setRs_dieTlb s _
@[simp] theorem inFlight_l1 (s : State) (lat : Nat) (a : Land) : (s.inFlight lat a).l1 = s.l1 := setRs_l1 s _
@[simp] theorem inFlight_icache (s : State) (lat : Nat) (a : Land) : (s.inFlight lat a).icache = s.icache := setRs_icache s _
@[simp] theorem inFlight_chains (s : State) (lat : Nat) (a : Land) : (s.inFlight lat a).chains = s.chains := setRs_chains s _
@[simp] theorem inFlight_vsuLast (s : State) (lat : Nat) (a : Land) : (s.inFlight lat a).vsuLast = s.vsuLast := setRs_vsuLast s _
@[simp] theorem inFlight_vsuOpen (s : State) (lat : Nat) (a : Land) : (s.inFlight lat a).vsuOpen = s.vsuOpen := setRs_vsuOpen s _
@[simp] theorem inFlight_foreignSnaps (s : State) (lat : Nat) (a : Land) : (s.inFlight lat a).foreignSnaps = s.foreignSnaps := setRs_foreignSnaps s _
@[simp] theorem inFlight_foreignTxns (s : State) (lat : Nat) (a : Land) : (s.inFlight lat a).foreignTxns = s.foreignTxns := setRs_foreignTxns s _
@[simp] theorem inFlight_foreignCommits (s : State) (lat : Nat) (a : Land) : (s.inFlight lat a).foreignCommits = s.foreignCommits := setRs_foreignCommits s _
@[simp] theorem inFlight_vrcl (s : State) (lat : Nat) (a : Land) : (s.inFlight lat a).vrcl = s.vrcl := setRs_vrcl s _
@[simp] theorem inFlight_vspl (s : State) (lat : Nat) (a : Land) : (s.inFlight lat a).vspl = s.vspl := setRs_vspl s _
@[simp] theorem inFlight_sqSlots (s : State) (lat : Nat) (a : Land) : (s.inFlight lat a).sqSlots = s.sqSlots := setRs_sqSlots s _
@[simp] theorem inFlight_pageStack (s : State) (lat : Nat) (a : Land) : (s.inFlight lat a).pageStack = s.pageStack := setRs_pageStack s _
@[simp] theorem inFlight_evicted (s : State) (lat : Nat) (a : Land) : (s.inFlight lat a).evicted = s.evicted := setRs_evicted s _
@[simp] theorem inFlight_sqEvents (s : State) (lat : Nat) (a : Land) : (s.inFlight lat a).sqEvents = s.sqEvents := setRs_sqEvents s _
@[simp] theorem inFlight_tevrWait (s : State) (lat : Nat) (a : Land) : (s.inFlight lat a).tevrWait = s.tevrWait := setRs_tevrWait s _
@[simp] theorem inFlight_crossings (s : State) (lat : Nat) (a : Land) : (s.inFlight lat a).crossings = s.crossings := setRs_crossings s _
@[simp] theorem inFlight_queues (s : State) (lat : Nat) (a : Land) : (s.inFlight lat a).queues = s.queues := setRs_queues s _
@[simp] theorem inFlight_kernels (s : State) (lat : Nat) (a : Land) : (s.inFlight lat a).kernels = s.kernels := setRs_kernels s _
@[simp] theorem inFlight_busy (s : State) (lat : Nat) (a : Land) : (s.inFlight lat a).busy = s.busy := setRs_busy s _
@[simp] theorem inFlight_ranges (s : State) (lat : Nat) (a : Land) : (s.inFlight lat a).ranges = s.ranges := setRs_ranges s _
@[simp] theorem inFlight_power (s : State) (lat : Nat) (a : Land) : (s.inFlight lat a).power = s.power := setRs_power s _
@[simp] theorem inFlight_microTag (s : State) (lat : Nat) (a : Land) : (s.inFlight lat a).microTag = s.microTag := setRs_microTag s _
@[simp] theorem inFlight_coreNum (s : State) (lat : Nat) (a : Land) : (s.inFlight lat a).coreNum = s.coreNum := setRs_coreNum s _
@[simp] theorem inFlight_offline (s : State) (lat : Nat) (a : Land) : (s.inFlight lat a).offline = s.offline := setRs_offline s _
@[simp] theorem inFlight_live (s : State) (lat : Nat) (a : Land) : (s.inFlight lat a).live = s.live := setRs_live s _
@[simp] theorem inFlight_mode (s : State) (lat : Nat) (a : Land) : (s.inFlight lat a).mode = s.mode := setRs_mode s _
@[simp] theorem inFlight_parked (s : State) (lat : Nat) (a : Land) : (s.inFlight lat a).parked = s.parked := setRs_parked s _
@[simp] theorem inFlight_preloaded (s : State) (lat : Nat) (a : Land) : (s.inFlight lat a).preloaded = s.preloaded := setRs_preloaded s _
@[simp] theorem inFlight_supBounds (s : State) (lat : Nat) (a : Land) : (s.inFlight lat a).supBounds = s.supBounds := setRs_supBounds s _
@[simp] theorem inFlight_trap (s : State) (lat : Nat) (a : Land) : (s.inFlight lat a).trap = s.trap := setRs_trap s _
@[simp] theorem inFlight_pending (s : State) (lat : Nat) (a : Land) : (s.inFlight lat a).pending = s.pending := setRs_pending s _
@[simp] theorem inFlight_comb (s : State) (lat : Nat) (a : Land) : (s.inFlight lat a).comb = s.comb := setRs_comb s _
@[simp] theorem inFlight_wctx (s : State) (lat : Nat) (a : Land) : (s.inFlight lat a).wctx = s.wctx := setRs_wctx s _
@[simp] theorem inFlight_rgsel (s : State) (lat : Nat) (a : Land) : (s.inFlight lat a).rgsel = s.rgsel := setRs_rgsel s _
@[simp] theorem inFlight_rgbase (s : State) (lat : Nat) (a : Land) : (s.inFlight lat a).rgbase = s.rgbase := setRs_rgbase s _
@[simp] theorem inFlight_rgcfg (s : State) (lat : Nat) (a : Land) : (s.inFlight lat a).rgcfg = s.rgcfg := setRs_rgcfg s _
@[simp] theorem inFlight_stdrop (s : State) (lat : Nat) (a : Land) : (s.inFlight lat a).stdrop = s.stdrop := setRs_stdrop s _
@[simp] theorem inFlight_frec (s : State) (lat : Nat) (a : Land) : (s.inFlight lat a).frec = s.frec := setRs_frec s _
@[simp] theorem inFlight_tevr (s : State) (lat : Nat) (a : Land) : (s.inFlight lat a).tevr = s.tevr := setRs_tevr s _
@[simp] theorem inFlight_ptbase (s : State) (lat : Nat) (a : Land) : (s.inFlight lat a).ptbase = s.ptbase := setRs_ptbase s _
@[simp] theorem inFlight_ptlog (s : State) (lat : Nat) (a : Land) : (s.inFlight lat a).ptlog = s.ptlog := setRs_ptlog s _
@[simp] theorem inFlight_probes (s : State) (lat : Nat) (a : Land) : (s.inFlight lat a).probes = s.probes := setRs_probes s _
@[simp] theorem inFlight_jobs (s : State) (lat : Nat) (a : Land) : (s.inFlight lat a).jobs = s.jobs := setRs_jobs s _
@[simp] theorem inFlight_chan (s : State) (lat : Nat) (a : Land) : (s.inFlight lat a).chan = s.chan := setRs_chan s _
@[simp] theorem inFlight_latches (s : State) (lat : Nat) (a : Land) : (s.inFlight lat a).latches = s.latches := setRs_latches s _
@[simp] theorem inFlight_busSeen (s : State) (lat : Nat) (a : Land) : (s.inFlight lat a).busSeen = s.busSeen := setRs_busSeen s _
@[simp] theorem inFlight_busMissed (s : State) (lat : Nat) (a : Land) : (s.inFlight lat a).busMissed = s.busMissed := setRs_busMissed s _
@[simp] theorem inFlight_ctx_id (s : State) (lat : Nat) (a : Land) : (s.inFlight lat a).ctx.id = s.ctx.id := setRs_ctx_id s _
@[simp] theorem inFlight_ctx_kernel (s : State) (lat : Nat) (a : Land) : (s.inFlight lat a).ctx.kernel = s.ctx.kernel := setRs_ctx_kernel s _
@[simp] theorem inFlight_ctx_cls (s : State) (lat : Nat) (a : Land) : (s.inFlight lat a).ctx.cls = s.ctx.cls := setRs_ctx_cls s _
@[simp] theorem inFlight_ctx_pre (s : State) (lat : Nat) (a : Land) : (s.inFlight lat a).ctx.pre = s.ctx.pre := setRs_ctx_pre s _
@[simp] theorem inFlight_ctx_rank (s : State) (lat : Nat) (a : Land) : (s.inFlight lat a).ctx.rank = s.ctx.rank := setRs_ctx_rank s _
@[simp] theorem inFlight_ctx_task (s : State) (lat : Nat) (a : Land) : (s.inFlight lat a).ctx.task = s.ctx.task := setRs_ctx_task s _
@[simp] theorem inFlight_ctx_core (s : State) (lat : Nat) (a : Land) : (s.inFlight lat a).ctx.core = s.ctx.core := setRs_ctx_core s _
@[simp] theorem inFlight_ctx_pkg (s : State) (lat : Nat) (a : Land) : (s.inFlight lat a).ctx.pkg = s.ctx.pkg := setRs_ctx_pkg s _
@[simp] theorem inFlight_ctx_runTime (s : State) (lat : Nat) (a : Land) : (s.inFlight lat a).ctx.runTime = s.ctx.runTime := setRs_ctx_runTime s _
@[simp] theorem inFlight_ctx_csr (s : State) (lat : Nat) (a : Land) : (s.inFlight lat a).ctx.csr = s.ctx.csr := setRs_ctx_csr s _
@[simp] theorem inFlight_ctx_ports (s : State) (lat : Nat) (a : Land) : (s.inFlight lat a).ctx.ports = s.ctx.ports := setRs_ctx_ports s _
@[simp] theorem inFlight_ctx_latches (s : State) (lat : Nat) (a : Land) : (s.inFlight lat a).ctx.latches = s.ctx.latches := setRs_ctx_latches s _
@[simp] theorem inFlight_ctx_masks (s : State) (lat : Nat) (a : Land) : (s.inFlight lat a).ctx.masks = s.ctx.masks := setRs_ctx_masks s _
@[simp] theorem inFlight_ctx_statq (s : State) (lat : Nat) (a : Land) : (s.inFlight lat a).ctx.statq = s.ctx.statq := setRs_ctx_statq s _
@[simp] theorem inFlight_ctx_rngq (s : State) (lat : Nat) (a : Land) : (s.inFlight lat a).ctx.rngq = s.ctx.rngq := setRs_ctx_rngq s _
@[simp] theorem inFlight_ctx_sqevq (s : State) (lat : Nat) (a : Land) : (s.inFlight lat a).ctx.sqevq = s.ctx.sqevq := setRs_ctx_sqevq s _
@[simp] theorem inFlight_ctx_tapq (s : State) (lat : Nat) (a : Land) : (s.inFlight lat a).ctx.tapq = s.ctx.tapq := setRs_ctx_tapq s _
@[simp] theorem inFlight_ctx_msgin (s : State) (lat : Nat) (a : Land) : (s.inFlight lat a).ctx.msgin = s.ctx.msgin := setRs_ctx_msgin s _
@[simp] theorem inFlight_ctx_msgout (s : State) (lat : Nat) (a : Land) : (s.inFlight lat a).ctx.msgout = s.ctx.msgout := setRs_ctx_msgout s _
@[simp] theorem inFlight_ctx_hostq (s : State) (lat : Nat) (a : Land) : (s.inFlight lat a).ctx.hostq = s.ctx.hostq := setRs_ctx_hostq s _
@[simp] theorem inFlight_ctx_traceq (s : State) (lat : Nat) (a : Land) : (s.inFlight lat a).ctx.traceq = s.ctx.traceq := setRs_ctx_traceq s _
@[simp] theorem inFlight_ctx_rngKey (s : State) (lat : Nat) (a : Land) : (s.inFlight lat a).ctx.rngKey = s.ctx.rngKey := setRs_ctx_rngKey s _
@[simp] theorem inFlight_ctx_rngCtr (s : State) (lat : Nat) (a : Land) : (s.inFlight lat a).ctx.rngCtr = s.ctx.rngCtr := setRs_ctx_rngCtr s _
@[simp] theorem inFlight_ctx_bundleRnd (s : State) (lat : Nat) (a : Land) : (s.inFlight lat a).ctx.bundleRnd = s.ctx.bundleRnd := setRs_ctx_bundleRnd s _
@[simp] theorem inFlight_ctx_xpose (s : State) (lat : Nat) (a : Land) : (s.inFlight lat a).ctx.xpose = s.ctx.xpose := setRs_ctx_xpose s _
@[simp] theorem inFlight_ctx_mp (s : State) (lat : Nat) (a : Land) : (s.inFlight lat a).ctx.mp = s.ctx.mp := setRs_ctx_mp s _
@[simp] theorem inFlight_ctx_ec (s : State) (lat : Nat) (a : Land) : (s.inFlight lat a).ctx.ec = s.ctx.ec := setRs_ctx_ec s _
@[simp] theorem inFlight_ctx_doms (s : State) (lat : Nat) (a : Land) : (s.inFlight lat a).ctx.doms = s.ctx.doms := setRs_ctx_doms s _
@[simp] theorem inFlight_ctx_spm (s : State) (lat : Nat) (a : Land) : (s.inFlight lat a).ctx.spm = s.ctx.spm := setRs_ctx_spm s _
@[simp] theorem inFlight_ctx_spmBanks (s : State) (lat : Nat) (a : Land) : (s.inFlight lat a).ctx.spmBanks = s.ctx.spmBanks := setRs_ctx_spmBanks s _
@[simp] theorem inFlight_ctx_full (s : State) (lat : Nat) (a : Land) : (s.inFlight lat a).ctx.full = s.ctx.full := setRs_ctx_full s _
@[simp] theorem inFlight_ctx_acm (s : State) (lat : Nat) (a : Land) : (s.inFlight lat a).ctx.acm = s.ctx.acm := setRs_ctx_acm s _
@[simp] theorem inFlight_ctx_acmBanks (s : State) (lat : Nat) (a : Land) : (s.inFlight lat a).ctx.acmBanks = s.ctx.acmBanks := setRs_ctx_acmBanks s _
@[simp] theorem inFlight_ctx_regions (s : State) (lat : Nat) (a : Land) : (s.inFlight lat a).ctx.regions = s.ctx.regions := setRs_ctx_regions s _
@[simp] theorem inFlight_ctx_calls (s : State) (lat : Nat) (a : Land) : (s.inFlight lat a).ctx.calls = s.ctx.calls := setRs_ctx_calls s _
@[simp] theorem inFlight_ctx_running (s : State) (lat : Nat) (a : Land) : (s.inFlight lat a).ctx.running = s.ctx.running := setRs_ctx_running s _
@[simp] theorem inFlight_ctx_maskTile (s : State) (lat : Nat) (a : Land) : (s.inFlight lat a).ctx.maskTile = s.ctx.maskTile := setRs_ctx_maskTile s _
@[simp] theorem inFlight_ctx_wb0 (s : State) (lat : Nat) (a : Land) : (s.inFlight lat a).ctx.wb0 = s.ctx.wb0 := setRs_ctx_wb0 s _
@[simp] theorem inFlight_ctx_wb1 (s : State) (lat : Nat) (a : Land) : (s.inFlight lat a).ctx.wb1 = s.ctx.wb1 := setRs_ctx_wb1 s _
@[simp] theorem inFlight_ctx_microWords (s : State) (lat : Nat) (a : Land) : (s.inFlight lat a).ctx.microWords = s.ctx.microWords := setRs_ctx_microWords s _
@[simp] theorem inFlight_ctx_microTable (s : State) (lat : Nat) (a : Land) : (s.inFlight lat a).ctx.microTable = s.ctx.microTable := setRs_ctx_microTable s _
@[simp] theorem inFlight_ctx_snap (s : State) (lat : Nat) (a : Land) : (s.inFlight lat a).ctx.snap = s.ctx.snap := setRs_ctx_snap s _
@[simp] theorem inFlight_ctx_txn (s : State) (lat : Nat) (a : Land) : (s.inFlight lat a).ctx.txn = s.ctx.txn := setRs_ctx_txn s _
@[simp] theorem inFlight_ctx_commit (s : State) (lat : Nat) (a : Land) : (s.inFlight lat a).ctx.commit = s.ctx.commit := setRs_ctx_commit s _
@[simp] theorem inFlight_ctx_taps (s : State) (lat : Nat) (a : Land) : (s.inFlight lat a).ctx.taps = s.ctx.taps := setRs_ctx_taps s _
@[simp] theorem inFlight_ctx_bounds (s : State) (lat : Nat) (a : Land) : (s.inFlight lat a).ctx.bounds = s.ctx.bounds := setRs_ctx_bounds s _
@[simp] theorem inFlight_ctx_sleep (s : State) (lat : Nat) (a : Land) : (s.inFlight lat a).ctx.sleep = s.ctx.sleep := setRs_ctx_sleep s _
@[simp] theorem inFlight_ctx_boost (s : State) (lat : Nat) (a : Land) : (s.inFlight lat a).ctx.boost = s.ctx.boost := setRs_ctx_boost s _
@[simp] theorem inFlight_ctx_pend (s : State) (lat : Nat) (a : Land) : (s.inFlight lat a).ctx.pend = s.ctx.pend := setRs_ctx_pend s _
@[simp] theorem inFlight_ctx_load (s : State) (lat : Nat) (a : Land) : (s.inFlight lat a).ctx.load = s.ctx.load := setRs_ctx_load s _
@[simp] theorem inFlight_ctx_dead (s : State) (lat : Nat) (a : Land) : (s.inFlight lat a).ctx.dead = s.ctx.dead := setRs_ctx_dead s _
@[simp] theorem inFlight_ctx_gopp (s : State) (lat : Nat) (a : Land) : (s.inFlight lat a).ctx.gopp = s.ctx.gopp := setRs_ctx_gopp s _
@[simp] theorem inFlight_ctx_carried (s : State) (lat : Nat) (a : Land) : (s.inFlight lat a).ctx.carried = s.ctx.carried := setRs_ctx_carried s _
@[simp] theorem inFlight_ctx_carriedNext (s : State) (lat : Nat) (a : Land) : (s.inFlight lat a).ctx.carriedNext = s.ctx.carriedNext := setRs_ctx_carriedNext s _
@[simp] theorem inFlight_ctx_estimate (s : State) (lat : Nat) (a : Land) : (s.inFlight lat a).ctx.estimate = s.ctx.estimate := setRs_ctx_estimate s _
@[simp] theorem inFlight_ctx_debit (s : State) (lat : Nat) (a : Land) : (s.inFlight lat a).ctx.debit = s.ctx.debit := setRs_ctx_debit s _
@[simp] theorem inFlight_ctx_later (s : State) (lat : Nat) (a : Land) : (s.inFlight lat a).ctx.later = s.ctx.later := setRs_ctx_later s _
@[simp] theorem inFlight_ctx_bankSet (s : State) (lat : Nat) (a : Land) : (s.inFlight lat a).ctx.bankSet = s.ctx.bankSet := setRs_ctx_bankSet s _
@[simp] theorem inFlight_ctx_acmRes (s : State) (lat : Nat) (a : Land) : (s.inFlight lat a).ctx.acmRes = s.ctx.acmRes := setRs_ctx_acmRes s _
@[simp] theorem inFlight_ctx_spmRes (s : State) (lat : Nat) (a : Land) : (s.inFlight lat a).ctx.spmRes = s.ctx.spmRes := setRs_ctx_spmRes s _
@[simp] theorem landS_eq (s : State) (d : SReg) (lat : Nat) (v : Word) : s.landS d lat v = s.inFlight lat (.sreg d v) := rfl

/-! ### A trap taken, and the return (R246, R247) -/

@[simp] theorem enterTrap_agenda (s : State) (t : Trap) : (s.enterTrap t).agenda = s.agenda := rfl
@[simp] theorem enterTrap_draws (s : State) (t : Trap) : (s.enterTrap t).draws = s.draws := rfl
@[simp] theorem enterTrap_lead (s : State) (t : Trap) : (s.enterTrap t).lead = s.lead := rfl
@[simp] theorem enterTrap_seq (s : State) (t : Trap) : (s.enterTrap t).seq = s.seq := rfl
@[simp] theorem enterTrap_host (s : State) (t : Trap) : (s.enterTrap t).host = s.host := rfl
@[simp] theorem enterTrap_mem (s : State) (t : Trap) : (s.enterTrap t).mem = s.mem := rfl
@[simp] theorem enterTrap_peerMem (s : State) (t : Trap) : (s.enterTrap t).peerMem = s.peerMem := rfl
@[simp] theorem enterTrap_peerWin (s : State) (t : Trap) : (s.enterTrap t).peerWin = s.peerWin := rfl
@[simp] theorem enterTrap_peers (s : State) (t : Trap) : (s.enterTrap t).peers = s.peers := rfl
@[simp] theorem enterTrap_pexb (s : State) (t : Trap) : (s.enterTrap t).pexb = s.pexb := rfl
@[simp] theorem enterTrap_pexl (s : State) (t : Trap) : (s.enterTrap t).pexl = s.pexl := rfl
@[simp] theorem enterTrap_remoteFull (s : State) (t : Trap) : (s.enterTrap t).remoteFull = s.remoteFull := rfl
@[simp] theorem enterTrap_counted (s : State) (t : Trap) : (s.enterTrap t).counted = s.counted := rfl
@[simp] theorem enterTrap_errorLog (s : State) (t : Trap) : (s.enterTrap t).errorLog = s.errorLog := rfl
@[simp] theorem enterTrap_bde (s : State) (t : Trap) : (s.enterTrap t).bde = s.bde := rfl
@[simp] theorem enterTrap_scrub (s : State) (t : Trap) : (s.enterTrap t).scrub = s.scrub := rfl
@[simp] theorem enterTrap_poison (s : State) (t : Trap) : (s.enterTrap t).poison = s.poison := rfl
@[simp] theorem enterTrap_remoteAcm (s : State) (t : Trap) : (s.enterTrap t).remoteAcm = s.remoteAcm := rfl
@[simp] theorem enterTrap_soft (s : State) (t : Trap) : (s.enterTrap t).soft = s.soft := rfl
@[simp] theorem enterTrap_encTags (s : State) (t : Trap) : (s.enterTrap t).encTags = s.encTags := rfl
@[simp] theorem enterTrap_asleep (s : State) (t : Trap) : (s.enterTrap t).asleep = s.asleep := rfl
@[simp] theorem enterTrap_tlb (s : State) (t : Trap) : (s.enterTrap t).tlb = s.tlb := rfl
@[simp] theorem enterTrap_dieTlb (s : State) (t : Trap) : (s.enterTrap t).dieTlb = s.dieTlb := rfl
@[simp] theorem enterTrap_l1 (s : State) (t : Trap) : (s.enterTrap t).l1 = s.l1 := rfl
@[simp] theorem enterTrap_icache (s : State) (t : Trap) : (s.enterTrap t).icache = s.icache := rfl
@[simp] theorem enterTrap_chains (s : State) (t : Trap) : (s.enterTrap t).chains = s.chains := rfl
@[simp] theorem enterTrap_vsuLast (s : State) (t : Trap) : (s.enterTrap t).vsuLast = s.vsuLast := rfl
@[simp] theorem enterTrap_vsuOpen (s : State) (t : Trap) : (s.enterTrap t).vsuOpen = s.vsuOpen := rfl
@[simp] theorem enterTrap_foreignSnaps (s : State) (t : Trap) : (s.enterTrap t).foreignSnaps = s.foreignSnaps := rfl
@[simp] theorem enterTrap_foreignTxns (s : State) (t : Trap) : (s.enterTrap t).foreignTxns = s.foreignTxns := rfl
@[simp] theorem enterTrap_foreignCommits (s : State) (t : Trap) : (s.enterTrap t).foreignCommits = s.foreignCommits := rfl
@[simp] theorem enterTrap_vrcl (s : State) (t : Trap) : (s.enterTrap t).vrcl = s.vrcl := rfl
@[simp] theorem enterTrap_vspl (s : State) (t : Trap) : (s.enterTrap t).vspl = s.vspl := rfl
@[simp] theorem enterTrap_sqSlots (s : State) (t : Trap) : (s.enterTrap t).sqSlots = s.sqSlots := rfl
@[simp] theorem enterTrap_pageStack (s : State) (t : Trap) : (s.enterTrap t).pageStack = s.pageStack := rfl
@[simp] theorem enterTrap_evicted (s : State) (t : Trap) : (s.enterTrap t).evicted = s.evicted := rfl
@[simp] theorem enterTrap_sqEvents (s : State) (t : Trap) : (s.enterTrap t).sqEvents = s.sqEvents := rfl
@[simp] theorem enterTrap_tevrWait (s : State) (t : Trap) : (s.enterTrap t).tevrWait = s.tevrWait := rfl
@[simp] theorem enterTrap_crossings (s : State) (t : Trap) : (s.enterTrap t).crossings = s.crossings := rfl
@[simp] theorem enterTrap_queues (s : State) (t : Trap) : (s.enterTrap t).queues = s.queues := rfl
@[simp] theorem enterTrap_kernels (s : State) (t : Trap) : (s.enterTrap t).kernels = s.kernels := rfl
@[simp] theorem enterTrap_busy (s : State) (t : Trap) : (s.enterTrap t).busy = s.busy := rfl
@[simp] theorem enterTrap_ranges (s : State) (t : Trap) : (s.enterTrap t).ranges = s.ranges := rfl
@[simp] theorem enterTrap_power (s : State) (t : Trap) : (s.enterTrap t).power = s.power := rfl
@[simp] theorem enterTrap_microTag (s : State) (t : Trap) : (s.enterTrap t).microTag = s.microTag := rfl
@[simp] theorem enterTrap_coreNum (s : State) (t : Trap) : (s.enterTrap t).coreNum = s.coreNum := rfl
@[simp] theorem enterTrap_offline (s : State) (t : Trap) : (s.enterTrap t).offline = s.offline := rfl
@[simp] theorem enterTrap_live (s : State) (t : Trap) : (s.enterTrap t).live = s.live := rfl
@[simp] theorem enterTrap_parked (s : State) (t : Trap) : (s.enterTrap t).parked = s.parked := rfl
@[simp] theorem enterTrap_preloaded (s : State) (t : Trap) : (s.enterTrap t).preloaded = s.preloaded := rfl
@[simp] theorem enterTrap_supBounds (s : State) (t : Trap) : (s.enterTrap t).supBounds = s.supBounds := rfl
@[simp] theorem enterTrap_comb (s : State) (t : Trap) : (s.enterTrap t).comb = s.comb := rfl
@[simp] theorem enterTrap_wctx (s : State) (t : Trap) : (s.enterTrap t).wctx = s.wctx := rfl
@[simp] theorem enterTrap_rgsel (s : State) (t : Trap) : (s.enterTrap t).rgsel = s.rgsel := rfl
@[simp] theorem enterTrap_rgbase (s : State) (t : Trap) : (s.enterTrap t).rgbase = s.rgbase := rfl
@[simp] theorem enterTrap_rgcfg (s : State) (t : Trap) : (s.enterTrap t).rgcfg = s.rgcfg := rfl
@[simp] theorem enterTrap_stdrop (s : State) (t : Trap) : (s.enterTrap t).stdrop = s.stdrop := rfl
@[simp] theorem enterTrap_frec (s : State) (t : Trap) : (s.enterTrap t).frec = s.frec := rfl
@[simp] theorem enterTrap_tevr (s : State) (t : Trap) : (s.enterTrap t).tevr = s.tevr := rfl
@[simp] theorem enterTrap_ptbase (s : State) (t : Trap) : (s.enterTrap t).ptbase = s.ptbase := rfl
@[simp] theorem enterTrap_ptlog (s : State) (t : Trap) : (s.enterTrap t).ptlog = s.ptlog := rfl
@[simp] theorem enterTrap_probes (s : State) (t : Trap) : (s.enterTrap t).probes = s.probes := rfl
@[simp] theorem enterTrap_jobs (s : State) (t : Trap) : (s.enterTrap t).jobs = s.jobs := rfl
@[simp] theorem enterTrap_chan (s : State) (t : Trap) : (s.enterTrap t).chan = s.chan := rfl
@[simp] theorem enterTrap_latches (s : State) (t : Trap) : (s.enterTrap t).latches = s.latches := rfl
@[simp] theorem enterTrap_busSeen (s : State) (t : Trap) : (s.enterTrap t).busSeen = s.busSeen := rfl
@[simp] theorem enterTrap_busMissed (s : State) (t : Trap) : (s.enterTrap t).busMissed = s.busMissed := rfl

@[simp] theorem trapReturn_agenda (s : State) : (s.trapReturn).agenda = s.agenda := rfl
@[simp] theorem trapReturn_draws (s : State) : (s.trapReturn).draws = s.draws := rfl
@[simp] theorem trapReturn_lead (s : State) : (s.trapReturn).lead = s.lead := rfl
@[simp] theorem trapReturn_seq (s : State) : (s.trapReturn).seq = s.seq := rfl
@[simp] theorem trapReturn_host (s : State) : (s.trapReturn).host = s.host := rfl
@[simp] theorem trapReturn_mem (s : State) : (s.trapReturn).mem = s.mem := rfl
@[simp] theorem trapReturn_peerMem (s : State) : (s.trapReturn).peerMem = s.peerMem := rfl
@[simp] theorem trapReturn_peerWin (s : State) : (s.trapReturn).peerWin = s.peerWin := rfl
@[simp] theorem trapReturn_peers (s : State) : (s.trapReturn).peers = s.peers := rfl
@[simp] theorem trapReturn_pexb (s : State) : (s.trapReturn).pexb = s.pexb := rfl
@[simp] theorem trapReturn_pexl (s : State) : (s.trapReturn).pexl = s.pexl := rfl
@[simp] theorem trapReturn_remoteFull (s : State) : (s.trapReturn).remoteFull = s.remoteFull := rfl
@[simp] theorem trapReturn_counted (s : State) : (s.trapReturn).counted = s.counted := rfl
@[simp] theorem trapReturn_errorLog (s : State) : (s.trapReturn).errorLog = s.errorLog := rfl
@[simp] theorem trapReturn_bde (s : State) : (s.trapReturn).bde = s.bde := rfl
@[simp] theorem trapReturn_scrub (s : State) : (s.trapReturn).scrub = s.scrub := rfl
@[simp] theorem trapReturn_poison (s : State) : (s.trapReturn).poison = s.poison := rfl
@[simp] theorem trapReturn_remoteAcm (s : State) : (s.trapReturn).remoteAcm = s.remoteAcm := rfl
@[simp] theorem trapReturn_soft (s : State) : (s.trapReturn).soft = s.soft := rfl
@[simp] theorem trapReturn_encTags (s : State) : (s.trapReturn).encTags = s.encTags := rfl
@[simp] theorem trapReturn_asleep (s : State) : (s.trapReturn).asleep = s.asleep := rfl
@[simp] theorem trapReturn_tlb (s : State) : (s.trapReturn).tlb = s.tlb := rfl
@[simp] theorem trapReturn_dieTlb (s : State) : (s.trapReturn).dieTlb = s.dieTlb := rfl
@[simp] theorem trapReturn_l1 (s : State) : (s.trapReturn).l1 = s.l1 := rfl
@[simp] theorem trapReturn_icache (s : State) : (s.trapReturn).icache = s.icache := rfl
@[simp] theorem trapReturn_chains (s : State) : (s.trapReturn).chains = s.chains := rfl
@[simp] theorem trapReturn_vsuLast (s : State) : (s.trapReturn).vsuLast = s.vsuLast := rfl
@[simp] theorem trapReturn_vsuOpen (s : State) : (s.trapReturn).vsuOpen = s.vsuOpen := rfl
@[simp] theorem trapReturn_foreignSnaps (s : State) : (s.trapReturn).foreignSnaps = s.foreignSnaps := rfl
@[simp] theorem trapReturn_foreignTxns (s : State) : (s.trapReturn).foreignTxns = s.foreignTxns := rfl
@[simp] theorem trapReturn_foreignCommits (s : State) : (s.trapReturn).foreignCommits = s.foreignCommits := rfl
@[simp] theorem trapReturn_vrcl (s : State) : (s.trapReturn).vrcl = s.vrcl := rfl
@[simp] theorem trapReturn_vspl (s : State) : (s.trapReturn).vspl = s.vspl := rfl
@[simp] theorem trapReturn_sqSlots (s : State) : (s.trapReturn).sqSlots = s.sqSlots := rfl
@[simp] theorem trapReturn_pageStack (s : State) : (s.trapReturn).pageStack = s.pageStack := rfl
@[simp] theorem trapReturn_evicted (s : State) : (s.trapReturn).evicted = s.evicted := rfl
@[simp] theorem trapReturn_sqEvents (s : State) : (s.trapReturn).sqEvents = s.sqEvents := rfl
@[simp] theorem trapReturn_tevrWait (s : State) : (s.trapReturn).tevrWait = s.tevrWait := rfl
@[simp] theorem trapReturn_crossings (s : State) : (s.trapReturn).crossings = s.crossings := rfl
@[simp] theorem trapReturn_queues (s : State) : (s.trapReturn).queues = s.queues := rfl
@[simp] theorem trapReturn_kernels (s : State) : (s.trapReturn).kernels = s.kernels := rfl
@[simp] theorem trapReturn_busy (s : State) : (s.trapReturn).busy = s.busy := rfl
@[simp] theorem trapReturn_ranges (s : State) : (s.trapReturn).ranges = s.ranges := rfl
@[simp] theorem trapReturn_power (s : State) : (s.trapReturn).power = s.power := rfl
@[simp] theorem trapReturn_microTag (s : State) : (s.trapReturn).microTag = s.microTag := rfl
@[simp] theorem trapReturn_coreNum (s : State) : (s.trapReturn).coreNum = s.coreNum := rfl
@[simp] theorem trapReturn_offline (s : State) : (s.trapReturn).offline = s.offline := rfl
@[simp] theorem trapReturn_live (s : State) : (s.trapReturn).live = s.live := rfl
@[simp] theorem trapReturn_parked (s : State) : (s.trapReturn).parked = s.parked := rfl
@[simp] theorem trapReturn_preloaded (s : State) : (s.trapReturn).preloaded = s.preloaded := rfl
@[simp] theorem trapReturn_supBounds (s : State) : (s.trapReturn).supBounds = s.supBounds := rfl
@[simp] theorem trapReturn_pending (s : State) : (s.trapReturn).pending = s.pending := rfl
@[simp] theorem trapReturn_comb (s : State) : (s.trapReturn).comb = s.comb := rfl
@[simp] theorem trapReturn_wctx (s : State) : (s.trapReturn).wctx = s.wctx := rfl
@[simp] theorem trapReturn_rgsel (s : State) : (s.trapReturn).rgsel = s.rgsel := rfl
@[simp] theorem trapReturn_rgbase (s : State) : (s.trapReturn).rgbase = s.rgbase := rfl
@[simp] theorem trapReturn_rgcfg (s : State) : (s.trapReturn).rgcfg = s.rgcfg := rfl
@[simp] theorem trapReturn_stdrop (s : State) : (s.trapReturn).stdrop = s.stdrop := rfl
@[simp] theorem trapReturn_frec (s : State) : (s.trapReturn).frec = s.frec := rfl
@[simp] theorem trapReturn_tevr (s : State) : (s.trapReturn).tevr = s.tevr := rfl
@[simp] theorem trapReturn_ptbase (s : State) : (s.trapReturn).ptbase = s.ptbase := rfl
@[simp] theorem trapReturn_ptlog (s : State) : (s.trapReturn).ptlog = s.ptlog := rfl
@[simp] theorem trapReturn_probes (s : State) : (s.trapReturn).probes = s.probes := rfl
@[simp] theorem trapReturn_jobs (s : State) : (s.trapReturn).jobs = s.jobs := rfl
@[simp] theorem trapReturn_chan (s : State) : (s.trapReturn).chan = s.chan := rfl
@[simp] theorem trapReturn_latches (s : State) : (s.trapReturn).latches = s.latches := rfl
@[simp] theorem trapReturn_busSeen (s : State) : (s.trapReturn).busSeen = s.busSeen := rfl
@[simp] theorem trapReturn_busMissed (s : State) : (s.trapReturn).busMissed = s.busMissed := rfl

theorem enterTrap_mode (s : State) (t : Trap) : (s.enterTrap t).mode = .s := rfl
theorem trapReturn_mode (s : State) : s.trapReturn.mode = .u := rfl

/-! ### How a slot instruction runs -/

/-- Every instruction that a slot holds runs by its guard and its meaning. -/
theorem exec_slot {i : Instr} {g : Guard} {m : Slot} (h : meaningOf i = some (g, m)) (s : State) : exec i s = runSlot g m s := by
  cases i <;> cases h <;> rfl

end Sys2Proof.Laws
end

