-- ==== Sys2Proof/Machine/AsmText.lean ====
section
/-! DEFINITION. The source text of jorbas: its lexical rules, expressions and symbols (R304, R310, R311). A source is a list of bytes; every
character that the grammar uses is one byte, and the bytes of other characters stand only in comments and strings. -/

namespace Sys2Proof.Machine

/-- Why jorbas rejects a source (R304 to R316). -/
inductive AsmError
  | text        -- not UTF-8, or no token of R304
  | mnemonic    -- an unknown mnemonic, suffix or directive
  | form        -- a form not in Table 16.10, or an unknown option
  | symbol      -- an undefined or doubly defined symbol, or one that spells a reserved word
  | range       -- a value that does not fit its field
  | latency     -- a latency that R308 cannot encode
  | slots       -- a slot conflict under R306
  | uword       -- a field of a .uword list that is out of range
  | exitTask    -- an EXIT naming a task that is not listed
  | layout      -- a directive or statement out of its place (Table 16.11)
  deriving DecidableEq, Repr

/-- A token. A name keeps its parts between full stops, so a directive's first part is empty; a real is m × 10^e. -/
inductive Tok
  | name (parts : List String)
  | int (n : Nat)
  | real (m : Nat) (e : Int)
  | str (bytes : List (BitVec 8))
  | op (s : String)
  deriving DecidableEq, Repr

/-- A list cut at every element of a kind. -/
def pieces {α : Type} (cut : α → Bool) : List α → List (List α)
  | [] => [[]]
  | x :: xs =>
    let ps := pieces cut xs
    if cut x then [] :: ps else (x :: ps.headD []) :: ps.tail

/-! ## UTF-8 -/

/-- The ranges of the continuation bytes that a lead byte calls for. -/
def utf8Lead (b : Nat) : Option (List (Nat × Nat)) :=
  let t := (0x80, 0xBF)
  if b < 0x80 then some []
  else if 0xC2 ≤ b ∧ b ≤ 0xDF then some [t]
  else if b = 0xE0 then some [(0xA0, 0xBF), t]
  else if b = 0xED then some [(0x80, 0x9F), t]
  else if 0xE1 ≤ b ∧ b ≤ 0xEF then some [t, t]
  else if b = 0xF0 then some [(0x90, 0xBF), t, t]
  else if 0xF1 ≤ b ∧ b ≤ 0xF3 then some [t, t, t]
  else if b = 0xF4 then some [(0x80, 0x8F), t, t]
  else none

/-- Whether bytes are UTF-8, with the continuation bytes still due. -/
def utf8Ok : List (Nat × Nat) → List (BitVec 8) → Bool
  | due, [] => due.isEmpty
  | [], b :: bs => match utf8Lead b.toNat with
    | some due => utf8Ok due bs
    | none => false
  | (lo, hi) :: due, b :: bs => decide (lo ≤ b.toNat ∧ b.toNat ≤ hi) && utf8Ok due bs

/-! ## Tokens -/

def isSymStart (c : Char) : Bool := c.isAlpha || c == '_'
def isSymChar (c : Char) : Bool := c.isAlphanum || c == '_'

def digitOf (c : Char) : Nat := if c.isDigit then c.toNat - 48 else if c.isAlpha then c.toLower.toNat - 87 else 99

/-- Digits of a base, with underscores between them alone (R304). -/
def digits (base : Nat) (cs : List Char) : Option Nat :=
  if cs.isEmpty || cs.head? == some '_' || cs.getLast? == some '_' then none
  else (cs.filter (· != '_')).foldl (fun acc c => acc.bind fun n => if digitOf c < base then some (base * n + digitOf c) else none) (some 0)

/-- The fraction and exponent after a decimal's integer digits: a real where either is there. -/
def lexReal (whole : List Char) (cs : List Char) : Option (Tok × List Char) :=
  let (frac, cs, point) := match cs with
    | '.' :: r => (r.takeWhile isSymDigit, r.dropWhile isSymDigit, true)
    | _ => ([], cs, false)
  let (ex, cs) : Option Int × List Char := match cs with
    | c :: r =>
      if c.toLower == 'e' then
        let (neg, r) := match r with | '-' :: r => (true, r) | '+' :: r => (false, r) | _ => (false, r)
        let ds := r.takeWhile isSymDigit
        ((digits 10 ds).map fun n => if neg then -(n : Int) else n, r.dropWhile isSymDigit)
      else (some 0, cs)
    | [] => (some 0, [])
  let n := digits 10 whole
  match n, ex with
  | some n, some e =>
    if point then
      if frac.isEmpty then some (.real n e, cs)
      else (digits 10 frac).map fun f => let k := (frac.filter (· != '_')).length; (.real (n * 10 ^ k + f) (e - k), cs)
    else some (.real n e, cs)
  | _, _ => none
where isSymDigit (c : Char) : Bool := c.isDigit || c == '_'

/-- A number: hexadecimal, binary, decimal or real, with no letter or digit right after it. -/
def lexNumber (cs : List Char) : Option (Tok × List Char) :=
  let r : Option (Tok × List Char) := match cs with
    | '0' :: 'x' :: r => (digits 16 (r.takeWhile isSymChar)).map fun n => (.int n, r.dropWhile isSymChar)
    | '0' :: 'b' :: r => (digits 2 (r.takeWhile isSymChar)).map fun n => (.int n, r.dropWhile isSymChar)
    | _ =>
      let whole := cs.takeWhile fun c => c.isDigit || c == '_'
      let r := cs.dropWhile fun c => c.isDigit || c == '_'
      match r with
      | c :: _ => if c == '.' || c.toLower == 'e' then lexReal whole r else (digits 10 whole).map fun n => (.int n, r)
      | [] => (digits 10 whole).map fun n => (.int n, [])
  r.bind fun (t, r) => match r with
    | c :: _ => if isSymChar c || c == '.' then none else some (t, r)
    | [] => some (t, r)

/-- The double quote. -/
def quoteChar : Char := Char.ofNat 34

/-- The tokens of a line, its comment left out; none where the text holds no token. -/
def lexLine : Nat → List Char → Option (List Tok)
  | 0, _ => none
  | fuel + 1, cs =>
    match cs with
    | [] => some []
    | ';' :: _ => some []
    | '/' :: '/' :: _ => some []
    | '|' :: '|' :: r => (lexLine fuel r).map (.op "||" :: ·)
    | '<' :: '<' :: r => (lexLine fuel r).map (.op "<<" :: ·)
    | '>' :: '>' :: r => (lexLine fuel r).map (.op ">>" :: ·)
    | c :: r =>
      if c == ' ' || c == '\t' || c == '\r' then lexLine fuel r
      else if c == quoteChar then
        if r.contains quoteChar then
          (lexLine fuel (r.dropWhile (· != quoteChar)).tail).map
            (.str ((r.takeWhile (· != quoteChar)).map fun c => BitVec.ofNat 8 c.toNat) :: ·)
        else none
      else if isSymStart c || c == '.' then
        let w := cs.takeWhile fun c => isSymChar c || c == '.'
        (lexLine fuel (cs.dropWhile fun c => isSymChar c || c == '.')).map (.name ((pieces (· == '.') w).map String.ofList) :: ·)
      else if c.isDigit then (lexNumber cs).bind fun (t, r) => (lexLine fuel r).map (t :: ·)
      else if "+-*/%~&^|(),:=![]".toList.contains c then (lexLine fuel r).map (.op (String.ofList [c]) :: ·)
      else none

/-! ## Names -/

def lowerCase (s : String) : String := String.ofList (s.toList.map Char.toLower)

/-- The number of a name such as s12: a prefix, then a number below `n` with no leading zero. -/
def numbered (pre : String) (n : Nat) (w : String) : Option Nat :=
  let ds := w.toList.drop pre.length
  if w.toList.take pre.length != pre.toList || ds.isEmpty || ds.any (!·.isDigit) || (ds.head? == some '0' && ds.length != 1) then none
  else (digits 10 ds).bind fun k => if k < n then some k else none

/-- The aliases of s48 to s63 (R68). -/
def sAliases : List String :=
  ["lc", "lr", "gr", "sr", "tid", "tick", "ctx", "ec", "statq", "rngq", "sqevq", "tapq", "msgin", "msgout", "hostq", "traceq"]

def scopeNames : List (String × BitVec 3) :=
  [("core", 0), ("cluster", 1), ("die", 2), ("package", 3), ("node", 4), ("group", 5), ("fabric", 6), ("system", 7)]

def orderNames : List (String × Order) := [("rlx", .rlx), ("acq", .acq), ("rel", .rel), ("acqrel", .acqrel)]

def roundNames : List (String × RSel) := [("rne", .rne), ("rtz", .rtz), ("rdn", .rdn), ("rup", .rup), ("srnd", .srnd), ("fpcsr", .fpcsr)]

/-- The type names of Table 16.9 by ETYPE, and those of the codes 12 to 15 that only a handle holds (R77). -/
def etypeNames : List (String × EType) :=
  [("f32", .f32), ("bf16", .bf16), ("f16", .f16), ("e4m3", .e4m3), ("e5m2", .e5m2), ("i32", .i32), ("u32", .u32), ("i16", .i16), ("u16", .u16),
   ("i8", .i8), ("u8", .u8), ("i64", .i64)]

def vtypeNames : List (String × VType) :=
  [("f32", .f32), ("bf16", .bf16), ("f16", .f16), ("i32", .i32), ("u32", .u32), ("i16", .i16), ("i8", .i8), ("u8", .u8)]

def condNames : List (String × Cond) :=
  [("eq", .eq), ("ne", .ne), ("lt", .lt), ("ge", .ge), ("ltu", .ltu), ("geu", .geu), ("gt", .gt), ("le", .le), ("gtu", .gtu), ("leu", .leu),
   ("un", .un), ("ord", .ord)]

/-- The words that the forms of Table 16.10 write as options. -/
def optionWords : List String :=
  ["zero", "lane", "latch", "sc", "sx", "nsat", "peek", "leave", "i", "rd", "wr", "lat", "bump", "pop", "any", "ar", "rc", "consume", "keep", "seal",
   "only", "mask", "accept", "pre", "post", "idx", "all", "asid", "page", "here"]

/-- What a symbol must not spell, in any letter case (R304). -/
def reservedWord (s : String) : Bool :=
  let w := lowerCase s
  (sAliases ++ ["l0", "l1", "wb0", "wb1"] ++ optionWords).contains w || (scopeNames.map (·.1)).contains w || (orderNames.map (·.1)).contains w
    || (roundNames.map (·.1)).contains w || (etypeNames.map (·.1)).contains w || (condNames.map (·.1)).contains w
    || [("s", 64), ("g", 16), ("h", 32), ("v", 32), ("mp", 8), ("a", 8), ("ec", 8)].any fun p => (numbered p.1 p.2 w).isSome

/-- A symbol: a letter or underscore and up to 62 letters, digits or underscores, and no reserved word (R304). -/
def symbolOk (s : String) : Bool :=
  (s.toList.head?.map isSymStart).getD false && s.toList.all isSymChar && s.length ≤ 63 && !reservedWord s

/-! ## Expressions -/

/-- What a symbol names (R311). -/
inductive SymKind | code | data | routine | const
  deriving DecidableEq, Repr

structure AsmSymbol where
  name : String
  kind : SymKind
  value : Int
  deriving DecidableEq, Repr

/-- What an expression is read in: the symbols and `here`. -/
structure AsmEnv where
  syms : List AsmSymbol
  here : Int
  deriving DecidableEq, Repr

def AsmEnv.find (env : AsmEnv) (n : String) : Except AsmError AsmSymbol :=
  match env.syms.find? (·.name == n) with
  | some y => .ok y
  | none => .error .symbol

/-- A bitwise operation on unbounded integers in two's complement. -/
def intBits (f : Nat → Nat → Nat) (a b : Int) : Int :=
  let w := a.natAbs.log2 + b.natAbs.log2 + 3
  toInt true w (f (ofIntW w a) (ofIntW w b))

/-- How tightly a binary operator binds (R310). -/
def opLevel (o : String) : Option Nat :=
  if o = "|" then some 0 else if o = "^" then some 1 else if o = "&" then some 2
  else if o = "<<" || o = ">>" then some 3 else if o = "+" || o = "-" then some 4
  else if o = "*" || o = "/" || o = "%" then some 5 else none

def opValue (o : String) (a b : Int) : Except AsmError Int :=
  if o = "|" then .ok (intBits (· ||| ·) a b)
  else if o = "^" then .ok (intBits (· ^^^ ·) a b)
  else if o = "&" then .ok (intBits (· &&& ·) a b)
  else if o = "<<" then (if b < 0 then .error .range else .ok (a * 2 ^ b.toNat))
  else if o = ">>" then (if b < 0 then .error .range else .ok (a.fdiv (2 ^ b.toNat)))
  else if o = "+" then .ok (a + b)
  else if o = "-" then .ok (a - b)
  else if o = "*" then .ok (a * b)
  else if b = 0 then .error .range
  else if o = "/" then .ok (a.tdiv b) else .ok (a.tmod b)

/-- Reads an expression of operators that bind at least as tightly as a level; the left operand where it is read already. -/
def exprGo (env : AsmEnv) : Nat → Nat → Option Int → List Tok → Except AsmError (Int × List Tok)
  | 0, _, _, _ => .error .form
  | fuel + 1, level, none, ts => do
    let (a, rest) ← (match ts with
      | .int n :: r => .ok ((n : Int), r)
      | .name [w] :: r => if lowerCase w = "here" then .ok (env.here, r) else (env.find w).map fun y => (y.value, r)
      | .op "-" :: r => (exprGo env fuel 6 none r).map fun (a, r) => (-a, r)
      | .op "~" :: r => (exprGo env fuel 6 none r).map fun (a, r) => (-a - 1, r)
      | .op "(" :: r => do
        match ← exprGo env fuel 0 none r with
        | (a, .op ")" :: r) => .ok (a, r)
        | _ => .error .form
      | _ => .error .form : Except AsmError (Int × List Tok))
    exprGo env fuel level (some a) rest
  | fuel + 1, level, some a, ts =>
    match ts with
    | .op o :: r =>
      match opLevel o with
      | some k =>
        if level ≤ k then do
          let (b, r) ← exprGo env fuel (k + 1) none r
          let c ← opValue o a b
          exprGo env fuel level (some c) r
        else .ok (a, ts)
      | none => .ok (a, ts)
    | _ => .ok (a, ts)

/-- The value of an expression that takes all the tokens. -/
def expr (env : AsmEnv) (ts : List Tok) : Except AsmError Int := do
  match ← exprGo env (3 * ts.length + 3) 0 none ts with
  | (a, []) => .ok a
  | _ => .error .form

/-- An expression whose value lies in a range. -/
def exprIn (env : AsmEnv) (lo hi : Int) (ts : List Tok) : Except AsmError Int := do
  let a ← expr env ts
  if lo ≤ a ∧ a ≤ hi then .ok a else .error .range

/-- An unsigned field of `w` bits. -/
def ufield (env : AsmEnv) (w : Nat) (ts : List Tok) : Except AsmError (BitVec w) :=
  (exprIn env 0 ((2 ^ w : Nat) - 1) ts).map fun a => BitVec.ofInt w a

/-- A signed field of `w` bits. -/
def sfield (env : AsmEnv) (w : Nat) (ts : List Tok) : Except AsmError (BitVec w) :=
  (exprIn env (-(2 ^ (w - 1) : Nat)) ((2 ^ (w - 1) : Nat) - 1) ts).map fun a => BitVec.ofInt w a

/-! ## Reals -/

/-- m × 10^e rounded RNE to a format (R304, Table 16.11). A negative power of ten is cut far below the format's grid, with a sticky bit. -/
def realBits (f : FFmt) (neg : Bool) (m : Nat) (e : Int) : Nat :=
  if 0 ≤ e then (roundFin f false .rne neg (m * 10 ^ e.toNat) 0).1
  else
    let n : Nat := 400
    let d : Nat := 10 ^ (-e).toNat
    let q : Nat := m * 2 ^ n / d
    (roundFin f false .rne neg (2 * q + (if m * 2 ^ n % d = 0 then 0 else 1)) (-(n : Int) - 1)).1

/-- A real literal with its signs. -/
def realOf (f : FFmt) : Bool → List Tok → Except AsmError Nat
  | neg, .op "-" :: ts => realOf f (!neg) ts
  | neg, [.real m e] => .ok (realBits f neg m e)
  | _, _ => .error .form

end Sys2Proof.Machine
end

