-- ==== Sys2Proof/Machine/AsmForms.lean ====
section
/-! DEFINITION. The instruction forms of jorbas (R306 to R309, Tables 16.9 and 16.10, and the forms that the rules named there give): operands,
options, guards, and the slot word that each instruction assembles to. The encoder of Decode.lean gives the word. -/

namespace Sys2Proof.Machine

/-- The tokens of one operand. -/
abbrev Arg := List Tok

/-- Operands, cut at the commas outside parentheses and brackets. -/
def operandsGo : Nat → List Tok → List Arg
  | _, [] => [[]]
  | depth, t :: ts =>
    if t = .op "," && depth = 0 then [] :: operandsGo 0 ts
    else
      let depth := if t = .op "(" || t = .op "[" then depth + 1 else if t = .op ")" || t = .op "]" then depth - 1 else depth
      let rest := operandsGo depth ts
      (t :: rest.headD []) :: rest.tail

def operandArgs (ts : List Tok) : List Arg := if ts.isEmpty then [] else operandsGo 0 ts

/-! ## Operands (Table 16.9) -/

/-- The word that an operand is, in lower case. -/
def word : Arg → Except AsmError String
  | [.name [w]] => .ok (lowerCase w)
  | _ => .error .form

def pick {α : Type} (names : List (String × α)) (w : String) : Except AsmError α :=
  match names.lookup w with
  | some x => .ok x
  | none => .error .form

def pickArg {α : Type} (names : List (String × α)) (a : Arg) : Except AsmError α := (word a).bind (pick names)

def number (pre : String) (n : Nat) (w : String) : Except AsmError Nat :=
  match numbered pre n w with
  | some k => .ok k
  | none => .error .form

def sregNo (w : String) : Option Nat :=
  match numbered "s" 64 w with
  | some k => some k
  | none => (sAliases.idxOf? w).map (· + 48)

def sreg (a : Arg) : Except AsmError SReg := do
  match sregNo (← word a) with
  | some k => .ok (BitVec.ofNat 6 k)
  | none => .error .form

def regArg (pre : String) (w n : Nat) (a : Arg) : Except AsmError (BitVec w) := do .ok (BitVec.ofNat w (← number pre n (← word a)))
def hreg (a : Arg) : Except AsmError HReg := regArg "h" 5 32 a
def portArg (a : Arg) : Except AsmError PortNo := regArg "v" 5 32 a
def counterArg (a : Arg) : Except AsmError (BitVec 3) := regArg "ec" 3 8 a
def regionArg (a : Arg) : Except AsmError (BitVec 3) := regArg "a" 3 8 a

/-- Broadcasts of s20 to s47 from a code on (Table 16.6). -/
def broadcast (w : String) (first : Nat) : Except AsmError Nat := do
  let k ← number "s" 48 w
  if 20 ≤ k then .ok (first + (k - 20)) else .error .form

def vopd (a : Arg) : Except AsmError VOpd := do
  let w ← word a
  match numbered "v" 32 w, [("l0", 32), ("l1", 33), ("zero", 34), ("lane", 35)].lookup w with
  | some k, _ => .ok (BitVec.ofNat 6 k)
  | none, some k => .ok (BitVec.ofNat 6 k)
  | none, none => do .ok (BitVec.ofNat 6 (← broadcast w 36))

def vopdC (a : Arg) : Except AsmError (BitVec 5) := do
  let w ← word a
  match [("zero", 0), ("l0", 1), ("l1", 2), ("lane", 3)].lookup w with
  | some k => .ok (BitVec.ofNat 5 k)
  | none => do .ok (BitVec.ofNat 5 (← broadcast w 4))

/-- A vector destination: v0 to v30, or latch. -/
def vdest (a : Arg) : Except AsmError PortNo := do
  let w ← word a
  if w = "latch" then .ok 31 else .ok (BitVec.ofNat 5 (← number "v" 31 w))

/-- A guard without its parentheses (R307, R71). -/
def guardCode : List Tok → Except AsmError Guard
  | [.op "!", .name [w]] => (source w).map (32 + ·)
  | [.name [w]] => source w
  | _ => .error .form
where source (w : String) : Except AsmError Guard :=
  match numbered "g" 16 (lowerCase w), numbered "sp" 16 (lowerCase w) with
  | some n, _ => .ok (BitVec.ofNat 6 n)
  | none, some n => .ok (BitVec.ofNat 6 (16 + n))
  | none, none => .error .form

/-- [sa], [sa + e] or [sa - e] (R308). -/
def memArg (env : AsmEnv) : Arg → Except AsmError (SReg × BitVec 16)
  | .op "[" :: .name [w] :: ts =>
    if ts.getLast? = some (.op "]") then do
      let base ← sreg [.name [w]]
      match ts.dropLast with
      | [] => .ok (base, 0)
      | .op "+" :: e => (sfield env 16 e).map fun d => (base, d)
      | .op "-" :: e => do
        let v ← expr env e
        if -(2 ^ 15 : Int) ≤ -v ∧ -v < 2 ^ 15 then .ok (base, BitVec.ofInt 16 (-v)) else .error .range
      | _ => .error .form
    else .error .form
  | _ => .error .form

/-- [sa], the address of an atomic. -/
def addrArg (env : AsmEnv) (a : Arg) : Except AsmError SReg := do
  if a.length = 3 then .ok (← memArg env a).1 else .error .form

/-- lat n: the smallest u, with its c (R308). -/
def latField (n : Int) : Except AsmError Lat :=
  let found := (List.range 4).findSome? fun u =>
    let step : Int := 4 ^ u
    if n % step = 0 ∧ 1 ≤ n / step ∧ n / step ≤ 16 then some (u * 16 + (n / step - 1).toNat) else none
  match found with
  | some f => .ok (BitVec.ofNat 6 f)
  | none => .error .latency

def latArg (env : AsmEnv) : Arg → Except AsmError Lat
  | .name [w] :: e => if lowerCase w = "lat" then (expr env e).bind latField else .error .form
  | _ => .error .form

/-- Options: single words of a set, each at most once, in any order (R309). -/
def optWords (allowed : List String) (as : List Arg) : Except AsmError (List String) := do
  let ws ← as.mapM word
  if ws.all (allowed.contains ·) && ws.Nodup then .ok ws else .error .form

/-- The option of a kind that stands among the options, at most one. -/
def optOne {α : Type} (names : List (String × α)) (dflt : α) (ws : List String) : Except AsmError α :=
  match ws.filterMap (fun w => names.lookup w) with
  | [] => .ok dflt
  | [x] => .ok x
  | _ => .error .form

/-- The options of a memory access: some words, an order (rlx where none stands) and a scope (core where none stands). -/
def memOpts (more : List String) (as : List Arg) : Except AsmError (List String × Order × Scope) := do
  let ws ← optWords (more ++ orderNames.map (·.1) ++ scopeNames.map (·.1)) as
  .ok (ws, ← optOne orderNames .rlx ws, ← optOne scopeNames 0 ws)

def sizeNames : List (String × Size) := [("b", .b), ("h", .h), ("w", .w), ("d", .d)]

/-- The operations of Table 6.6. -/
def atomNames : List (String × AtomOp) :=
  [("swap", .swap), ("add", .add), ("and", .and), ("or", .or), ("xor", .xor), ("min", .min), ("minu", .minu), ("max", .max), ("maxu", .maxu),
   ("fadd", .fadd)]

/-- The fields of a handle by name (R300). -/
def fieldNames : List (String × HField) :=
  [("base", .base), ("kind", .kind), ("etype", .etype), ("flags", .flags), ("dim0", .dim0), ("dim1", .dim1), ("dim2", .dim2), ("stride1", .stride1),
   ("stride2", .stride2), ("slotsz", .slotsz), ("nslot", .nslot), ("head", .head), ("tail", .tail), ("filled", .filled), ("bufver", .bufver),
   ("readers", .readers), ("word0", .word0), ("word1", .word1), ("word2", .word2), ("word3", .word3)]

/-- The CSRs by the names of their defining tables and rules. -/
def csrNames : List (String × Nat) :=
  [("fpcsr", 0x008), ("dmr", 0x010), ("phc0", 0x018), ("phc1", 0x019), ("phc2", 0x01A), ("phc3", 0x01B), ("phc5", 0x01D), ("exp0", 0x020), ("exp1", 0x021),
   ("exp2", 0x022), ("exp3", 0x023), ("exp5", 0x025), ("rgsel", 0x030), ("rgbase", 0x031), ("rglen", 0x032), ("rgcfg", 0x033), ("mbxf", 0x040)]
  ++ [("atp", 0x050), ("wctx", 0x051), ("feop", 0x052), ("rcnt", 0x053), ("msimg", 0x100), ("wbst", 0x101), ("mqst", 0x102), ("ccfg0", 0x200),
   ("ccfg1", 0x201), ("ccfg2", 0x202), ("ccfg3", 0x203), ("ccfg4", 0x204), ("ccfg5", 0x205), ("ccfg6", 0x206), ("ccfg7", 0x207), ("ec0", 0x208),
   ("ec1", 0x209), ("ec2", 0x20A), ("ec3", 0x20B), ("ec4", 0x20C), ("ec5", 0x20D), ("ec6", 0x20E), ("ec7", 0x20F)]
  ++ [("cfst", 0x210), ("cfba", 0x211), ("cfva", 0x212), ("cfoff", 0x213), ("cfch", 0x214), ("cfmask", 0x215), ("cfres", 0x216), ("stdrop", 0x217),
   ("vctx", 0x300), ("vsnap", 0x301), ("tsnap", 0x302), ("txc", 0x303), ("vcur", 0x304), ("vlwm", 0x305), ("vrcl", 0x306), ("vspl", 0x307),
   ("vpuse", 0x308), ("vkill", 0x309), ("sqrole", 0x310), ("tapgnt", 0x320), ("stbase", 0x321), ("stcnt", 0x322), ("tapst", 0x323), ("tevr", 0x324)]
  ++ [("oppst", 0x400), ("oppctl", 0x401), ("stallr", 0x402), ("opplim", 0x403), ("pbtok", 0x404), ("ecnt", 0x410), ("ecbase", 0x411), ("ectag", 0x412),
   ("tcause", 0x500), ("tepc", 0x501), ("tbaddr", 0x502), ("ttick", 0x503), ("tval", 0x504), ("tvec", 0x505), ("tscr", 0x506), ("tstat", 0x507),
   ("bkaddr", 0x508), ("ctxsel", 0x509), ("ctxdat", 0x50A), ("ctxcmd", 0x50B), ("ptbase", 0xF10), ("ptlog", 0xF11), ("ptsync", 0xF12)]
  ++ [("kvwb", 0xF20), ("kvwn", 0xF21), ("kvhb", 0xF22), ("kverr", 0xF23), ("oppflr", 0xF30), ("pbgnt", 0xF31), ("pwt0", 0xF38), ("pwt1", 0xF39),
   ("pwt2", 0xF3A), ("pwt3", 0xF3B), ("pwt4", 0xF3C), ("pwt5", 0xF3D), ("pwt6", 0xF3E), ("pwt7", 0xF3F), ("pexb", 0xF40), ("pexl", 0xF41)]

/-- A CSR by its name, or by its number. -/
def csrArg (env : AsmEnv) (a : Arg) : Except AsmError (BitVec 12) :=
  match a with
  | [.name [w]] => match csrNames.lookup (lowerCase w) with
    | some n => .ok (BitVec.ofNat 12 n)
    | none => ufield env 12 a
  | _ => ufield env 12 a

/-- The offset of a branch to a code label, in bundles (R311). -/
def branchTo (env : AsmEnv) : Arg → Except AsmError (BitVec 30)
  | [.name [w]] => do
    let y ← env.find w
    let off := (y.value - env.here) / 32
    if y.kind ≠ .code then .error .form
    else if -(2 ^ 29 : Int) ≤ off ∧ off < 2 ^ 29 then .ok (BitVec.ofInt 30 off) else .error .range
  | _ => .error .form

/-! ## The S slot -/

def dabNames : List (String × (Guard → SReg → SReg → SReg → Instr)) :=
  [("add", .add), ("sub", .sub), ("mul", .mul), ("mulh", .mulh), ("mulhu", .mulhu), ("div", .div), ("divu", .divu), ("and", .and), ("or", .or),
   ("xor", .xor), ("andn", .andn), ("shl", .shl), ("shr", .shr), ("sra", .sra), ("min", .min), ("minu", .minu), ("max", .max), ("maxu", .maxu),
   ("fadd", .fadd), ("fsub", .fsub), ("fmul", .fmul), ("fmin", .fmin), ("fmax", .fmax), ("sqget", .sqget)]

def daNames : List (String × (Guard → SReg → SReg → Instr)) := [("clz", .clz), ("popc", .popc), ("sqcommit", .sqcommit), ("sqroll", .sqroll)]
def abNames : List (String × (Guard → SReg → SReg → Instr)) := [("maskld", .maskld), ("rngseed", .rngseed), ("cflush", .cflush)]
def dNames : List (String × (Guard → SReg → Instr)) := [("snap", .snap), ("tbegin", .tbegin), ("tcommit", .tcommit), ("mload", .mload), ("tapw", .tapw)]
def bareNames : List (String × (Guard → Instr)) :=
  [("nop", .nop), ("ret", .ret), ("eret", .eret), ("sync", .sync), ("arrive", .arrive), ("yield", .yield), ("snapx", .snapx), ("tabort", .tabort)]
def immNames : List (String × (Guard → SReg → SReg → BitVec 30 → Instr)) := [("addi", .addi), ("andi", .andi), ("ori", .ori), ("xori", .xori)]
def shiftNames : List (String × (Guard → SReg → SReg → BitVec 6 → Instr)) := [("shli", .shli), ("shri", .shri), ("srai", .srai)]
def branchNames : List (String × BrCond) := [("eqz", .eqz), ("nez", .nez), ("ltz", .ltz), ("gez", .gez), ("gtz", .gtz), ("lez", .lez)]
def csrWrites : List (String × (Guard → SReg → BitVec 12 → Instr)) := [("csrw", .csrw), ("csrs", .csrs), ("csrc", .csrc)]

/-- Forms whose operands are registers alone. -/
def formRegs (g : Guard) (m : String) (as : List Arg) : Except AsmError (Option Instr) :=
  match dabNames.lookup m, daNames.lookup m, abNames.lookup m, dNames.lookup m, bareNames.lookup m, as with
  | some k, _, _, _, _, [d, a, b] => do .ok (some (k g (← sreg d) (← sreg a) (← sreg b)))
  | _, some k, _, _, _, [d, a] => do .ok (some (k g (← sreg d) (← sreg a)))
  | _, _, some k, _, _, [a, b] => do .ok (some (k g (← sreg a) (← sreg b)))
  | _, _, _, some k, _, [d] => do .ok (some (k g (← sreg d)))
  | _, _, _, _, some k, [] => .ok (some (k g))
  | _, _, _, _, _, _ => .ok none

/-- The destination of a compare: a gr bit, or a register (Table 16.4). -/
def compareDest (a : Arg) : Except AsmError (Sum (BitVec 4) SReg) := do
  match numbered "g" 16 (← word a) with
  | some n => .ok (.inl (BitVec.ofNat 4 n))
  | none => (sreg a).map .inr

/-- Scalar arithmetic, compares, immediates and conversion. -/
def formArith (env : AsmEnv) (g : Guard) (op : List String) (as : List Arg) : Except AsmError (Option Instr) :=
  match op, as with
  | ["ffma"], [d, a, b, c] => do .ok (some (.ffma g (← sreg d) (← sreg a) (← sreg b) (← sreg c)))
  | ["lea"], [d, a, b, n] => do .ok (some (.lea g (← sreg d) (← sreg a) (← sreg b) (← ufield env 3 n)))
  | ["sel"], [d, a, b, c] => do .ok (some (.sel g (← sreg d) (← sreg a) (← sreg b) (← guardCode c)))
  | ["cmp", cc], [d, a, b] => do
    let cc ← pick condNames cc
    match ← compareDest d with
    | .inl n => .ok (some (.cmpGuard g n (← sreg a) (← sreg b) cc))
    | .inr d => .ok (some (.cmpRegister g d (← sreg a) (← sreg b) cc))
  | ["cmpi", cc], [d, a, e] => do
    let cc ← pick condNames cc
    match ← compareDest d with
    | .inl n => .ok (some (.cmpi g false (n.setWidth 6) (← sreg a) cc (← sfield env 25 e)))
    | .inr _ => .error .form
  | ["fcmp", cc], [d, a, b] => do
    let cc ← pick condNames cc
    match ← compareDest d with
    | .inl n => .ok (some (.fcmp g false (n.setWidth 6) (← sreg a) (← sreg b) cc))
    | .inr d => .ok (some (.fcmp g true d (← sreg a) (← sreg b) cc))
  | ["movi"], [d, e] => do .ok (some (.movi g (← sreg d) (← sfield env 30 e)))
  | ["movk"], [d, e, k] => do .ok (some (.movk g (← sreg d) (← ufield env 16 e) (← ufield env 2 k)))
  | ["ext"], d :: a :: pos :: len :: os => do
    let ws ← optWords ["sx"] os
    .ok (some (.ext g (← sreg d) (← sreg a) (← ufield env 6 pos) (← ufield env 7 len) (ws.contains "sx")))
  | ["ins"], [d, a, pos, len] => do .ok (some (.ins g (← sreg d) (← sreg a) (← ufield env 6 pos) (← ufield env 7 len)))
  | ["fcvt"], d :: a :: dst :: src :: rm :: os => do
    let ws ← optWords ["nsat"] os
    .ok (some (.fcvt g (← sreg d) (← sreg a) (← pickArg etypeNames dst) (← pickArg etypeNames src) (ws.contains "nsat") (← pickArg roundNames rm)))
  | [m], [d, a, e] =>
    match immNames.lookup m, shiftNames.lookup m with
    | some k, _ => do .ok (some (k g (← sreg d) (← sreg a) (← sfield env 30 e)))
    | none, some k => do .ok (some (k g (← sreg d) (← sreg a) (← ufield env 6 e)))
    | none, none => .ok none
  | _, _ => .ok none

/-- Loads, stores, atomics, fences and waits. -/
def formMemory (env : AsmEnv) (g : Guard) (op : List String) (as : List Arg) : Except AsmError (Option Instr) :=
  match op, as with
  | ["ld", z], d :: m :: l :: os => do
    let (base, disp) ← memArg env m
    let (ws, ord, scope) ← memOpts ["sx"] os
    .ok (some (.ld g (← sreg d) base disp (← pick sizeNames z) (ws.contains "sx") ord scope (← latArg env l)))
  | ["ldfe", z], d :: m :: l :: os => do
    let (base, disp) ← memArg env m
    let (ws, ord, scope) ← memOpts ["peek"] os
    .ok (some (.ldfe g (← sreg d) base disp (← pick sizeNames z) (ws.contains "peek") ord scope (← latArg env l)))
  | ["st", z], m :: d :: os => do
    let (base, disp) ← memArg env m
    let (_, ord, scope) ← memOpts [] os
    .ok (some (.st g (← sreg d) base disp (← pick sizeNames z) ord scope))
  | ["stfe", z], m :: d :: os => do
    let (base, disp) ← memArg env m
    let (_, ord, scope) ← memOpts [] os
    .ok (some (.stfe g (← sreg d) base disp (← pick sizeNames z) ord scope))
  | ["amo", o, z], d :: m :: b :: l :: os => do
    let (_, ord, scope) ← memOpts [] os
    .ok (some (.amo g (← sreg d) (← addrArg env m) (← sreg b) (← pick atomNames o) (← pick sizeNames z) ord scope (← latArg env l)))
  | ["red", o, z], m :: b :: os => do
    let (_, ord, scope) ← memOpts [] os
    .ok (some (.red g (← addrArg env m) (← sreg b) (← pick atomNames o) (← pick sizeNames z) ord scope))
  | ["amor", o, z], [m, b, d, r, level] => do
    if (← word r) = "rel" then
      .ok (some (.amor g (← sreg d) (← addrArg env m) (← sreg b) (← pick atomNames o) (← pick sizeNames z)
        (← pickArg (scopeNames.filter fun x => x.2 == 1 || x.2 == 2 || x.2 == 3) level)))      -- cluster, die or package
    else .error .form
  | ["cas", z], [d, m, b, c, succ, fail, scope, l] => do
    let acq ← pickArg [("rlx", false), ("acq", true)] fail
    .ok (some (.cas g (← sreg d) (← addrArg env m) (← sreg b) (← sreg c) acq (← pick sizeNames z) (← pickArg orderNames succ)
      (← pickArg scopeNames scope) (← latArg env l)))
  | ["fence"], [k, scope] => do
    let sc := (← word k) = "sc"
    .ok (some (.fence g sc (← if sc then .ok .acqrel else pickArg (orderNames.filter (·.2 != .rlx)) k) (← pickArg scopeNames scope)))
  | ["waitm", z], [m, d, cc, acq, scope] => do
    let (base, disp) ← memArg env m
    if (← word acq) = "acq" then
      .ok (some (.waitm g (← sreg d) base disp (← pick sizeNames z) (← pickArg scopeNames scope) (← pickArg condNames cc)))
    else .error .form
  | ["waitc"], [n, a, e] => do .ok (some (.waitc g (← counterArg n) (← sreg a) (← ufield env 30 e)))
  | ["waitc"], [n, e] => do .ok (some (.waitc g (← counterArg n) 0 (← ufield env 30 e)))
  | ["grab"], d :: a :: l :: os => do
    let (_, ord, scope) ← memOpts [] os
    .ok (some (.grab g (← sreg d) (← sreg a) ord scope (← latArg env l)))
  | _, _ => .ok none

/-- Control, system and handle instructions. -/
def formSystem (env : AsmEnv) (g : Guard) (op : List String) (as : List Arg) : Except AsmError (Option Instr) :=
  match op, as with
  | ["br"], [l] => do .ok (some (.br g .always 0 (← branchTo env l)))
  | ["br", cc], [a, l] => do .ok (some (.br g (← pick branchNames cc) (← sreg a) (← branchTo env l)))
  | ["jmp"], [a, e] => do .ok (some (.jmp g (← sreg a) (← sfield env 30 e)))
  | ["call"], [l] => do .ok (some (.call g (← branchTo env l)))
  | ["call"], [a, e] => do .ok (some (.callRegister g (← sreg a) (← sfield env 30 e)))
  | ["bloop"], [l] => do .ok (some (.bloop g (← branchTo env l)))
  | ["exit"], [n] => do .ok (some (.exit g (← ufield env 8 n)))
  | ["exit"], [n, l] => do
    if (← word l) = "leave" && (← ufield env 8 n) = 0 then .ok (some (.exitLeave g)) else .error .form
  | ["trap"], [e] => do .ok (some (.trap g (← ufield env 16 e)))
  | ["svc"], [e] => do .ok (some (.svc g (← ufield env 16 e)))
  | ["csrr"], [d, n] => do .ok (some (.csrr g (← sreg d) (← csrArg env n)))
  | ["csrr"], [d, n, m, l] => do .ok (some (.csrrRemote g (← sreg d) (← addrArg env m) (← csrArg env n) (← latArg env l)))
  | ["tlbi"], [w] => do if (← word w) = "all" then .ok (some (.tlbiAll g)) else .error .form
  | ["tlbi"], [w, a] => do if (← word w) = "asid" then .ok (some (.tlbiAsid g (← sreg a))) else .error .form
  | ["tlbi"], [w, a, b] => do if (← word w) = "page" then .ok (some (.tlbiPage g (← sreg a) (← sreg b))) else .error .form
  | ["cinv"], a :: b :: os => do
    let ws ← optWords ["i"] os
    .ok (some (.cinv g (← sreg a) (← sreg b) (ws.contains "i")))
  | ["hld"], h :: m :: os => do
    let (base, disp) ← memArg env m
    let (_, ord, scope) ← memOpts [] os
    .ok (some (.hld g (← hreg h) base disp ord scope))
  | ["hst"], h :: m :: os => do
    let (base, disp) ← memArg env m
    let (_, ord, scope) ← memOpts [] os
    .ok (some (.hst g (← hreg h) base disp ord scope))
  | ["hset"], [[.name [h, f]], a] => do .ok (some (.hset g (← hreg [.name [h]]) (← sreg a) (← pick fieldNames (lowerCase f))))
  | ["hget"], [d, [.name [h, f]]] => do .ok (some (.hget g (← sreg d) (← hreg [.name [h]]) (← pick fieldNames (lowerCase f))))
  | ["hadv"], [[.name [h, f]], a] => do
    if lowerCase f = "head" then .ok (some (.hadvHead g (← hreg [.name [h]]) (← sreg a)))
    else if lowerCase f = "tail" then .ok (some (.hadvTail g (← hreg [.name [h]]) (← sreg a))) else .error .form
  | ["hwait"], [h] => do .ok (some (.hwait g (← hreg h)))
  | ["bind"], p :: h :: d :: os => do
    let wr ← pickArg [("rd", false), ("wr", true)] d
    let ws ← optWords (if wr then [] else ["peek"]) os
    .ok (some (.bind g (← portArg p) (← hreg h) wr (ws.contains "peek")))
  | ["unbind"], [x] => do
    match numbered "v" 32 (← word x) with
    | some n => .ok (some (.unbindPort g (BitVec.ofNat 5 n)))
    | none => .ok (some (.unbindHandle g (← hreg x)))
  | [m], [n, a] =>
    match csrWrites.lookup m with
    | some k => do .ok (some (k g (← sreg a) (← csrArg env n)))
    | none => .ok none
  | _, _ => .ok none

/-- Matrix control, versions, taps, sequences and energy. -/
def formUnits (env : AsmEnv) (g : Guard) (op : List String) (as : List Arg) : Except AsmError (Option Instr) :=
  match op, as with
  | ["mpset"], [n, a] => do .ok (some (.mpset g (← regArg "mp" 3 8 n) (← sreg a)))
  | ["acq"], [k, a] => do .ok (some (.acq g (← regionArg k) (← sreg a)))
  | ["arel"], [k] => do .ok (some (.arel g (← regionArg k)))
  | ["aver"], [x, y] => do
    match numbered "a" 8 (← word x) with
    | some k => .ok (some (.averWait g (BitVec.ofNat 3 k) (← ufield env 8 y)))
    | none => .ok (some (.averRead g (← sreg x) (← regionArg y)))
  | ["vpub"], [h, scope] => do .ok (some (.vpub g (← hreg h) (← pickArg scopeNames scope)))
  | ["vbind"], [hd, hs, a] => do .ok (some (.vbind g (← hreg hd) (← hreg hs) (← sreg a)))
  | ["tapx"], d :: h :: a :: b :: os => do
    let ws ← optWords ["pre", "post"] os
    let post ← optOne [("pre", false), ("post", true)] false ws
    .ok (some (.tapx g (← sreg d) (← regArg "h" 4 16 h) (← sreg a) (← sreg b) post))
  | ["sqnode"], d :: a :: b :: os => do
    let ws ← optWords ["seal", "only"] os
    .ok (some (.sqnode g (← sreg d) (← sreg a) (← sreg b) (ws.contains "seal") (ws.contains "only")))
  | ["sqacc"], [d, a, b, k] => do
    if ← pickArg [("mask", false), ("accept", true)] k then .ok (some (.sqaccAccept g (← sreg d) (← sreg a) (← sreg b)))
    else .ok (some (.sqaccMask g (← sreg d) (← sreg a) (← sreg b)))
  | ["ecmark"], [d] => do .ok (some (.ecmarkRead g (← sreg d)))
  | ["ecmark"], [d, a] => do .ok (some (.ecmarkMark g (← sreg d) (← sreg a)))
  | _, _ => .ok none

/-- The operation of an SQSET: by the name of Table 10.7, or as a number that fits func[2:0]. -/
def sqsetOp (env : AsmEnv) (a : Arg) : Except AsmError (BitVec 3) :=
  let names := [("admit", 0), ("preempt", 1), ("resume", 2), ("release", 3), ("retire", 4), ("pool", (5 : BitVec 3))]
  match a with
  | [.name [w]] => match names.lookup (lowerCase w) with
    | some k => .ok k
    | none => ufield env 3 a
  | _ => ufield env 3 a

def enc (i : Instr) : Except AsmError Enc :=
  match encode i with
  | some e => .ok e
  | none => .error .form

/-- The first reading that a form gives. -/
def firstForm : List (Except AsmError (Option Instr)) → Except AsmError Enc
  | [] => .error .mnemonic
  | .ok (some i) :: _ => enc i
  | .ok none :: rest => firstForm rest
  | .error e :: _ => .error e

/-- An instruction of the S slot. SQSET is encoded from its fields, so that an operation without a name assembles too (R316). -/
def sForm (env : AsmEnv) (g : Guard) (op : List String) (as : List Arg) : Except AsmError Enc :=
  match op, as with
  | ["sqset"], [d, a, b, k] => do .ok (encSR g 0x95 (← sreg d) (← sreg a) (← sreg b) ((← sqsetOp env k).setWidth 8))
  | _, _ => firstForm [match op with | [m] => formRegs g m as | _ => .ok none, formArith env g op as, formMemory env g op as,
      formSystem env g op as, formUnits env g op as]

/-! ## The other slots -/

def vabNames : List (String × (VSlot → Guard → VType → PortNo → VOpd → VOpd → Instr)) :=
  [("vadd", .vadd), ("vsub", .vsub), ("vmul", .vmul), ("vmin", .vmin), ("vmax", .vmax), ("vsel", .vsel), ("vand", .vand), ("vor", .vor), ("vxor", .vxor),
   ("vshl", .vshl), ("vshr", .vshr), ("vperm", .vperm)]

def vaNames : List (String × (VSlot → Guard → VType → PortNo → VOpd → Instr)) :=
  [("vabs", .vabs), ("vneg", .vneg), ("vexp2", .vexp2), ("vlog2", .vlog2), ("vrcp", .vrcp), ("vrsq", .vrsq), ("vrsum", .vrsum), ("vrmax", .vrmax),
   ("vscan", .vscan), ("vmov", .vmov)]

/-- A vector instruction: its form names only the fields that the operation reads (R371). -/
def vForm (env : AsmEnv) (k : VSlot) (g : Guard) (op : List String) (as : List Arg) : Except AsmError Enc :=
  match op, as with
  | ["vnop"], [] => enc (.vnop k g)
  | ["vfma", t], [d, a, b, c] => do enc (.vfma k g (← pick vtypeNames t) (← vdest d) (← vopd a) (← vopd b) (← vopdC c))
  | ["vcvt", t], [d, a, src, rm] => do
    enc (.vcvt k g (← pick vtypeNames t) (← vdest d) (← vopd a) (← pickArg roundNames rm) (← pickArg vtypeNames src))
  | ["vcmp", t], [d, a, b, cc] => do enc (.vcmp k g (← pick vtypeNames t) (← vdest d) (← vopd a) (← vopd b) (← pickArg condNames cc))
  | ["vtopk", t], d :: a :: n :: os => do
    let ws ← optWords ["idx"] os
    enc (.vtopk k g (← pick vtypeNames t) (← vdest d) (← vopd a) (BitVec.ofInt 6 ((← exprIn env 1 64 n) - 1)) (ws.contains "idx"))
  | ["vrng", t], [d] => do enc (.vrng k g (← pick vtypeNames t) (← vdest d))
  | [m, t], [d, a, b] =>
    match vabNames.lookup m with
    | some f => do enc (f k g (← pick vtypeNames t) (← vdest d) (← vopd a) (← vopd b))
    | none => .error .form
  | [m, t], [d, a] =>
    match vaNames.lookup m with
    | some f => do enc (f k g (← pick vtypeNames t) (← vdest d) (← vopd a))
    | none => .error .form
  | _, _ => .error .form

def mForm (env : AsmEnv) (g : Guard) (op : List String) (as : List Arg) : Except AsmError Enc :=
  match op, as with
  | ["mnop"], [] => enc (.mnop g)
  | ["mcall"], k :: r :: v :: os => do
    let ws ← optWords ["bump", "pop"] os
    let ignv := v.length = 1 && word v matches .ok "any"
    enc (.mcall g (← ufield env 8 r) (← if ignv then .ok 0 else ufield env 8 v) (← regionArg k) (ws.contains "pop") (ws.contains "bump") ignv)
  | _, _ => .error .form

/-- The options of CPY: words, and `rc n` with n from 1 to 15 (Table 9.1). -/
def cpyOpts (env : AsmEnv) (as : List Arg) : Except AsmError (List String × BitVec 4) := do
  let isRc (a : Arg) : Bool := match a with | .name [w] :: _ :: _ => lowerCase w = "rc" | _ => false
  let ws ← optWords ["ar", "nsat", "consume"] (as.filter (!isRc ·))
  match as.filter isRc with
  | [] => .ok (ws, 0)
  | [a] => .ok (ws, BitVec.ofInt 4 (← exprIn env 1 15 a.tail))
  | _ => .error .form

def cForm (env : AsmEnv) (c : CSlot) (g : Guard) (op : List String) (as : List Arg) : Except AsmError Enc :=
  match op, as with
  | ["cnop"], [] => enc (.cnop c g)
  | ["cpy"], n :: s :: d :: os => do
    let (ws, rc) ← cpyOpts env os
    enc (.cpy c g (← hreg s) (← hreg d) (← counterArg n) (ws.contains "ar") rc (ws.contains "nsat") (ws.contains "consume"))
  | ["cpyr"], n :: s :: d :: o :: os => do
    let ws ← optWords ["ar"] os
    enc (.cpyr c g (← hreg s) (← hreg d) (← counterArg n) (ws.contains "ar") (← pickArg (atomNames.drop 1) o))
  | ["gath"], n :: s :: d :: x :: os => do
    let ws ← optWords ["ar"] os
    enc (.gath c g (← hreg s) (← hreg d) (← counterArg n) (ws.contains "ar") (← hreg x))
  | ["scat"], n :: s :: d :: x :: os => do
    let ws ← optWords ["ar"] os
    enc (.scat c g (← hreg s) (← hreg d) (← counterArg n) (ws.contains "ar") (← hreg x))
  | ["chain"], [s, ch] => do enc (.chain c g (← hreg s) 0 (← ufield env 3 ch))
  | ["bdrv"], [n, s, mask] => do enc (.bdrv c g (← hreg s) (← counterArg n) (← ufield env 8 mask))
  | ["blat"], [n, d, pos] => do enc (.blat c g (← hreg d) (← counterArg n) (← ufield env 3 pos))
  | ["wstr"], [n, s, d, mask, wb] => do
    enc (.wstr c g (← hreg s) (← hreg d) (← counterArg n) (← pickArg [("wb0", false), ("wb1", true)] wb)
      (← pickArg [("a", 1), ("ab", 2), ("abc", 3)] mask))
  | ["kvcp"], n :: s :: d :: os => do
    let ws ← optWords ["ar"] os
    enc (.kvcp c g (← hreg s) (← hreg d) (← counterArg n) (ws.contains "ar"))
  | ["cnta"], [n, inc] => do enc (.cnta c g (← counterArg n) (← ufield env 8 inc))
  | ["logf"], n :: s :: d :: k :: os => do
    let ws ← optWords ["keep", "ar"] os
    enc (.logf c g (← hreg s) (← hreg d) (← counterArg n) (ws.contains "ar") (ws.contains "keep") (BitVec.ofInt 6 ((← exprIn env 1 64 k) - 1)))
  | _, _ => .error .form

def xForm (env : AsmEnv) (g : Guard) (op : List String) (as : List Arg) : Except AsmError Enc :=
  let latch : List (String × VSlot) := [("l0", .v0), ("l1", .v1)]
  match op, as with
  | ["xnop"], [] => enc (.xnop g)
  | ["xpose"], [d, a, w] => do enc (.xpose g (← portArg d) (← portArg a) (← ufield env 2 w))
  | ["xcvt"], [d, a, pair, h] => do enc (.xcvt g (← portArg d) (← portArg a) (← ufield env 3 pair) ((← ufield env 1 h) = 1))
  | ["xexp"], [d, a, w, l] => do enc (.xexp g (← portArg d) (← portArg a) (← pickArg latch l) (← ufield env 2 w))
  | ["xpack"], [d, a, w, l] => do enc (.xpack g (← portArg d) (← portArg a) (← pickArg latch l) (← ufield env 2 w))
  | _, _ => .error .form

/-! ## Bundle items and their slots (R305, R306) -/

/-- The kinds of slot, and the header. -/
inductive SlotKind | s | v | m | c | x | header
  deriving DecidableEq, Repr

def vNames : List String := ["vnop", "vfma", "vcvt", "vcmp", "vtopk", "vrng"] ++ vabNames.map (·.1) ++ vaNames.map (·.1)
def cNames : List String := ["cnop", "cpy", "cpyr", "gath", "scat", "chain", "bdrv", "blat", "wstr", "kvcp", "cnta", "logf"]

def slotKind (m : String) : SlotKind :=
  if vNames.contains m then .v else if cNames.contains m then .c
  else if m = "mcall" || m = "mnop" then .m
  else if ["xnop", "xpose", "xcvt", "xexp", "xpack"].contains m then .x
  else if m = "opp" then .header else .s

/-- One item of a statement: its guard, the kind of slot it needs, the slot that its suffix claims, its mnemonic's parts and its operands. -/
structure AsmItem where
  g : Guard
  kind : SlotKind
  claim : Option Nat
  op : List String
  args : List Arg
  deriving DecidableEq, Repr

/-- The slot suffix of a vector or copy instruction. -/
def splitClaim (kind : SlotKind) (op : List String) : Option Nat × List String :=
  let names : List (String × Nat) := match kind with | .v => [("v0", 0), ("v1", 1)] | .c => [("c0", 0), ("c1", 1)] | _ => []
  match op.getLast?.bind (fun w => names.lookup w) with
  | some k => (some k, op.dropLast)
  | none => (none, op)

/-- A bundle item: a guard in parentheses, a mnemonic with its suffixes, and operands. -/
def itemOf (ts : List Tok) : Except AsmError AsmItem := do
  let (g, rest) ← (match ts with
    | .op "(" :: r => do .ok (← guardCode (r.takeWhile (· != .op ")")), (r.dropWhile (· != .op ")")).tail)
    | _ => .ok (0, ts) : Except AsmError (Guard × List Tok))
  match rest with
  | .name parts :: r =>
    let parts := parts.map lowerCase
    let kind := slotKind (parts.headD "")
    let (claim, op) := splitClaim kind parts
    if kind = .header && ts != rest then .error .form else .ok ⟨g, kind, claim, op, operandArgs r⟩
  | _ => .error .mnemonic

/-- The slots of a kind for the items of a statement, in the order written: an item without a suffix takes the lowest that no suffix has claimed and no
earlier item has taken. -/
def placeGo (claimed : List Nat) (free : List Nat) : List AsmItem → Except AsmError (List (AsmItem × Nat))
  | [] => .ok []
  | i :: is =>
    match i.claim with
    | some k => (placeGo claimed free is).map ((i, k) :: ·)
    | none => match free.filter (!claimed.contains ·) with
      | k :: _ => (placeGo claimed (free.filter (· != k)) is).map ((i, k) :: ·)
      | [] => .error .slots

def placeKind (n : Nat) (is : List AsmItem) : Except AsmError (List (AsmItem × Nat)) :=
  let claimed := is.filterMap (·.claim)
  if claimed.Nodup then placeGo claimed (List.range n) is else .error .slots

/-- The slot word of a placed item. -/
def itemEnc (env : AsmEnv) (p : AsmItem × Nat) : Except AsmError Enc :=
  let (i, k) := p
  match i.kind with
  | .s => sForm env i.g i.op i.args
  | .v => vForm env (if k = 0 then .v0 else .v1) i.g i.op i.args
  | .m => mForm env i.g i.op i.args
  | .c => cForm env (if k = 0 then .c0 else .c1) i.g i.op i.args
  | .x => xForm env i.g i.op i.args
  | .header => match i.op, i.args with
    | ["opp"], [n] => do enc (.oppRequest (← ufield env 3 n))
    | _, _ => .error .form

/-- A statement without its label: the bundle that its items make, every other slot its NOP. -/
def statementBundle (env : AsmEnv) (ts : List Tok) : Except AsmError BundleBits := do
  let items ← (pieces (· == .op "||") ts).mapM itemOf
  let kinds : List (SlotKind × Nat) := [(.s, 1), (.v, 2), (.m, 1), (.c, 2), (.x, 1), (.header, 1)]
  let placed ← kinds.mapM fun (k, n) => placeKind n (items.filter (·.kind = k))
  let encs ← placed.flatten.mapM (itemEnc env)
  .ok (encs.foldl (fun b e => b ||| e.bundle) 0)

end Sys2Proof.Machine
end

