-- ==== Sys2Proof/Machine/Assembler.lean ====
section
/-! DEFINITION. Jorbas from source to kernel image: statements, labels, directives, and the image with its launch record, task table, micro-image,
code and data (R304 to R316, R29, R31, R169, R172, R77). A pass reads the whole source with the symbols and addresses that the pass before it found,
until they no longer change, so that a label may be defined later in the source. -/

namespace Sys2Proof.Machine

/-- Bytes of a number, least significant first. -/
def leBytes (n v : Nat) : List (BitVec 8) := (List.range n).map fun i => BitVec.ofNat 8 (v / 2 ^ (8 * i))

/-- The least multiple of `n` at or above a number. -/
def alignUp (n v : Nat) : Nat := (v + n - 1) / n * n

/-! ## Items written name = value -/

/-- Items of a directive: values by name, and flags written alone; none twice. -/
def namedItems (as : List Arg) : Except AsmError (List (String × Arg)) := do
  let its ← as.mapM fun a => match a with
    | .name [w] :: .op "=" :: v => .ok (lowerCase w, v)
    | [.name [w]] => .ok (lowerCase w, ([] : Arg))
    | _ => .error .form
  .ok its

def itemsOk (values flags : List String) (its : List (String × Arg)) : Bool :=
  its.all (fun i => if i.2.isEmpty then flags.contains i.1 else values.contains i.1) && ((its.map (·.1)).filter (· != "dep")).Nodup

/-- A value by name, with what an omitted item means. -/
def itemIn (env : AsmEnv) (its : List (String × Arg)) (n : String) (dflt lo hi : Int) : Except AsmError Nat :=
  match its.lookup n with
  | some a => (exprIn env lo hi a).map Int.toNat
  | none => .ok dflt.toNat

def flagOf (its : List (String × Arg)) (n : String) : Nat := if (its.lookup n).isSome then 1 else 0

/-! ## The launch record (R313) -/

/-- The record's words that .kernel gives; NTASK, TTAB and MIMG come from the image, ARGS and DONE from the runtime. -/
structure KernelRec where
  word0 : Nat
  word5 : Nat
  deps : List (Nat × Nat)
  deriving DecidableEq, Repr

/-- (address, value). -/
def depOf (env : AsmEnv) (a : Arg) : Except AsmError (Nat × Nat) :=
  match a with
  | .op "(" :: r =>
    match r.getLast?, operandArgs r.dropLast with
    | some (.op ")"), [x, y] => do .ok ((← ufield env 64 x).toNat, (← ufield env 64 y).toNat)
    | _, _ => .error .form
  | _ => .error .form

def kernelOf (env : AsmEnv) (as : List Arg) : Except AsmError KernelRec := do
  let its ← namedItems as
  if !itemsOk ["class", "dies", "cpd", "cpc", "spm", "acm", "tlim", "gdom", "gcnt", "dep"] ["pre", "pld"] its then .error .form
  else do
    let deps ← (its.filter (·.1 = "dep")).mapM fun i => depOf env i.2
    let cls ← itemIn env its "class" 0 0 7
    let dies ← itemIn env its "dies" 1 1 8
    let cpd ← itemIn env its "cpd" 1 1 4
    let cpc ← itemIn env its "cpc" 1 1 8
    let spm ← itemIn env its "spm" 0 0 32
    let acm ← itemIn env its "acm" 0 0 24
    let tlim ← itemIn env its "tlim" 0 0 0xFFFF
    let gdom ← itemIn env its "gdom" 0 0 0xFFFF
    let gcnt ← itemIn env its "gcnt" 0 0 16
    if 4 < deps.length || (gdom = 0) != (gcnt = 0) then .error .range
    else .ok { word0 := acm * 2 ^ 38 + spm * 2 ^ 32 + dies * 2 ^ 24 + cpd * 2 ^ 20 + cpc * 2 ^ 16 + deps.length * 2 ^ 8
                 + flagOf its "pld" * 2 ^ 4 + flagOf its "pre" * 2 ^ 3 + cls
               word5 := tlim * 2 ^ 32 + gcnt * 2 ^ 16 + gdom, deps := deps }

/-! ## Micro-words (R314, Table 8.3) -/

def codeIn (its : List (String × Arg)) (n : String) (names : List String) : Except AsmError Nat :=
  match its.lookup n with
  | none => .ok 0
  | some [.name [w]] => match names.idxOf? (lowerCase w) with
    | some k => .ok k
    | none => .error .uword
  | some _ => .error .uword

/-- A field of a .uword list that takes an expression. -/
def uwordIn (env : AsmEnv) (its : List (String × Arg)) (n : String) (w : Nat) : Except AsmError Nat :=
  match itemIn env its n 0 0 ((2 ^ w : Nat) - 1) with
  | .error .range => .error .uword
  | r => r

def uwordFlags : List String := ["popa", "popb", "drain", "bump", "end"]

/-- Whether .uword holds a list of fields, not one expression. -/
def uwordList (as : List Arg) : Bool :=
  match as with
  | [a] => a.contains (.op "=") || (match a with | [.name [w]] => uwordFlags.contains (lowerCase w) | _ => false)
  | _ => true

def uwordOf (env : AsmEnv) (as : List Arg) : Except AsmError Word := do
  if !uwordList as then ufield env 64 (as.headD [])
  else do
    let its ← namedItems as
    if !itemsOk ["cellop", "asrc", "bsrc", "count", "accsel", "next", "loop", "codew", "atype"] uwordFlags its then .error .form
    else do
      let cellop ← codeIn its "cellop" ["mac", "admac", "csmax", "csmin", "set", "maskneg", "scale", "zero"]
      let asrc ← uwordIn env its "asrc" 1
      let bsrc ← codeIn its "bsrc" ["wb0", "wb1", "ring2", "ring3", "tring2"]
      let count ← uwordIn env its "count" 8
      let accsel ← uwordIn env its "accsel" 4
      let codew ← codeIn its "codew" ["plain", "q2", "q4", "q8"]
      let atype ← codeIn its "atype" ["e4m3", "e5m2", "bf16", "f16"]
      let next ← uwordIn env its "next" 8
      let loop ← uwordIn env its "loop" 3
      .ok (BitVec.ofNat 64 (cellop * 2 ^ 60 + asrc * 2 ^ 57 + bsrc * 2 ^ 54 + count * 2 ^ 46 + accsel * 2 ^ 42 + codew * 2 ^ 40 + atype * 2 ^ 38
        + next * 2 ^ 30 + loop * 2 ^ 27 + flagOf its "popa" * 2 ^ 26 + flagOf its "popb" * 2 ^ 25 + flagOf its "drain" * 2 ^ 24
        + flagOf its "bump" * 2 ^ 23 + flagOf its "end" * 2 ^ 22))

/-! ## Handle images (R315, Table 3.5) -/

def kindNames : List String := ["invalid", "spm", "ring", "mem", "wdesc", "acm", "stage", "peer", "window"]
def handleTypes : List (String × EType) := etypeNames ++ [("q2", .q2), ("q4", .q4), ("q8", .q8), ("bytes", .bytes)]

/-- Name, lowest bit, width and signedness of the fields that take an expression. -/
def handleFields (wdesc : Bool) : List (String × Nat × Nat × Bool) :=
  [("base", 0, 48, false), ("dim0", 64, 16, false), ("dim1", 80, 16, false), ("dim2", 96, 16, false)]
  ++ (if wdesc then [("planeb", 112, 22, false), ("planec", 134, 22, false), ("scales", 156, 20, false)]
      else [("stride1", 112, 32, true), ("stride2", 144, 32, true)])
  ++ [("slotsz", 176, 16, false), ("nslot", 192, 8, false), ("head", 200, 8, false), ("tail", 208, 8, false), ("filled", 216, 8, false),
      ("bufver", 224, 8, false), ("readers", 232, 8, false)]

def handleOf (env : AsmEnv) (as : List Arg) : Except AsmError Handle := do
  let its ← namedItems as
  let kind ← match its.lookup "kind" with
    | none => .ok 0
    | some [.name [w]] => match kindNames.idxOf? (lowerCase w) with
      | some k => .ok k
      | none => .error .form
    | some _ => .error .form
  let etype ← match its.lookup "etype" with
    | none => .ok (0 : BitVec 4)
    | some a => (pickArg handleTypes a).map EType.bits
  let fields := handleFields (kind = 4)
  if !itemsOk (fields.map (·.1) ++ ["kind", "etype"]) ["fe", "vers", "wrap", "rc"] its then .error .form
  else do
    let vs ← fields.mapM fun (n, lo, w, signed) => match its.lookup n with
      | none => .ok 0
      | some a => (if signed then sfield env w a else ufield env w a).map fun v => v.toNat * 2 ^ lo
    .ok (BitVec.ofNat 256 (vs.foldl (· + ·) 0 + kind * 2 ^ 48 + etype.toNat * 2 ^ 52 + flagOf its "fe" * 2 ^ 56 + flagOf its "vers" * 2 ^ 57
      + flagOf its "wrap" * 2 ^ 58 + flagOf its "rc" * 2 ^ 59))

/-! ## A pass -/

/-- Where a line stands: before .kernel, in code, in data, or in a micro-routine. -/
inductive Sect | start | code | data | routine
  deriving DecidableEq, Repr

/-- What the pass before found: the image's address, where code and data lie in it, and the symbols. -/
structure AsmPlace where
  base : Nat
  code : Nat
  data : Nat
  syms : List AsmSymbol
  deriving DecidableEq, Repr

/-- A task: its number, its entry bundle, and its SPM image's address and length. -/
structure AsmTask where
  n : Nat
  entry : Nat
  image : Nat
  len : Nat
  deriving DecidableEq, Repr

/-- A pass in progress. Lists are held last element first. `opened` is a .task whose entry bundle is still to come. -/
structure Asm where
  sect : Sect
  kernel : Option KernelRec
  code : List BundleBits
  data : List (BitVec 8)
  routines : List (Nat × List Word)
  syms : List AsmSymbol
  tasks : List AsmTask
  opened : Option AsmTask
  task : Nat
  listed : List (Nat × List Nat)
  exits : List (Nat × Nat)
  ended : Bool
  errs : List AsmError
  deriving DecidableEq, Repr

def Asm.empty : Asm :=
  { sect := .start, kernel := none, code := [], data := [], routines := [], syms := [], tasks := [], opened := none, task := 0, listed := [],
    exits := [], ended := false, errs := [] }

def Asm.fail (a : Asm) (e : AsmError) : Asm := { a with errs := e :: a.errs }

/-- Go on with a value, or with a stand-in beside the error. -/
def Asm.with_ {α : Type} (a : Asm) (r : Except AsmError α) (dflt : α) (f : Asm → α → Asm) : Asm :=
  match r with
  | .ok x => f a x
  | .error e => f (a.fail e) dflt

/-- The address of the next bundle or byte, or the offset of the next micro-word (R310, R311). -/
def Asm.here (p : AsmPlace) (a : Asm) : Nat :=
  match a.sect with
  | .start => 0
  | .code => p.base + p.code + 32 * a.code.length
  | .data => p.base + p.data + a.data.length
  | .routine => ((a.routines.head?.map (·.2.length)).getD 0)

def Asm.env (p : AsmPlace) (a : Asm) : AsmEnv := { syms := p.syms, here := a.here p }

/-- Define a symbol, once. -/
def Asm.define (a : Asm) (n : String) (k : SymKind) (v : Int) : Asm :=
  let a := if symbolOk n && !(a.syms.any (·.name == n)) then a else a.fail .symbol
  { a with syms := { name := n, kind := k, value := v } :: a.syms }

def Asm.label (p : AsmPlace) (a : Asm) (n : String) : Asm :=
  match a.sect with
  | .start => a.fail .layout
  | .code => a.define n .code (a.here p)
  | .data => a.define n .data (a.here p)
  | .routine => a.define n .routine (a.here p)

/-- The bundle of a statement; it is the entry of a task that waits for it, and its EXITs are noted for the task it stands in. -/
def Asm.bundle (p : AsmPlace) (a : Asm) (ts : List Tok) : Asm :=
  let exits : List Nat := (pieces (· == .op "||") ts).filterMap fun t => match itemOf t with
    | .ok i => if i.op = ["exit"] then ((expr (a.env p) (i.args.headD [])).toOption.map Int.toNat) else none
    | .error _ => none
  let tasks := match a.opened with
    | some t => { t with entry := a.code.length } :: a.tasks
    | none => a.tasks
  a.with_ (statementBundle (a.env p) ts) 0 fun a b =>
    { a with code := b :: a.code, tasks := tasks, opened := none, exits := exits.map (a.task, ·) ++ a.exits }

def Asm.bytes (a : Asm) (bs : List (BitVec 8)) : Asm := { a with data := bs.reverse ++ a.data }

/-- Zero bytes up to a multiple of an alignment, counted from the image base. -/
def Asm.padData (p : AsmPlace) (a : Asm) (n : Nat) : Asm :=
  let off := p.data + a.data.length
  a.bytes (List.replicate (alignUp n off - off) 0)

/-- A .byte, .half, .word or .dword: integers that fit as signed or unsigned; .byte also takes strings. -/
def Asm.ints (p : AsmPlace) (w : Nat) (a : Asm) (as : List Arg) : Asm :=
  as.foldl (fun (a : Asm) arg => match arg with
    | [.str bs] => if w = 1 then a.bytes bs else a.fail .form
    | _ => a.with_ (exprIn (a.env p) (-(2 ^ (8 * w - 1) : Nat)) ((2 ^ (8 * w) : Nat) - 1) arg) 0 fun a v => a.bytes (leBytes w (ofIntW (8 * w) v))) a

def Asm.reals (f : FFmt) (a : Asm) (as : List Arg) : Asm :=
  as.foldl (fun (a : Asm) arg => a.with_ (realOf f false arg) 0 fun a v => a.bytes (leBytes (f.width / 8) v)) a

/-- .task n, with an image and its length or without (Table 16.11). -/
def Asm.openTask (p : AsmPlace) (a : Asm) (as : List Arg) : Asm :=
  let env := a.env p
  let t : Except AsmError AsmTask := match as with
    | [n] => do .ok { n := (← exprIn env 1 255 n).toNat, entry := 0, image := 0, len := 0 }
    | [n, i, l] => do .ok { n := (← exprIn env 1 255 n).toNat, entry := 0, image := (← ufield env 48 i).toNat, len := (← ufield env 64 l).toNat }
    | _ => .error .form
  a.with_ t { n := 1, entry := 0, image := 0, len := 0 } fun a t =>
    let a := if a.opened.isSome || a.tasks.any (·.n == t.n) then a.fail .layout else a
    { a with opened := some t, task := t.n }

/-- A directive (Table 16.11), its name in lower case. -/
def Asm.directive (p : AsmPlace) (a : Asm) (d : String) (as : List Arg) : Asm :=
  let env := a.env p
  if a.sect = .start then
    match d, as with
    | "kernel", [.name [n]] :: its =>
      (if symbolOk n then a else a.fail .symbol).with_ (kernelOf env its) ⟨0, 0, []⟩ fun a k => { a with kernel := some k, sect := .code }
    | "kernel", _ => a.fail .form
    | _, _ => a.fail .layout
  else match d with
    | "code" => if as.isEmpty then { a with sect := .code } else a.fail .form
    | "data" => if as.isEmpty then { a with sect := .data } else a.fail .form
    | "end" => if as.isEmpty then { a with ended := true } else a.fail .form
    | "equ" => match as with
      | [[.name [n]], e] => a.with_ (expr env e) 0 fun a v => a.define n .const v
      | _ => a.fail .form
    | "routine" => match as with
      | [n] => a.with_ (exprIn env 0 255 n) 0 fun a v =>
        { (if a.routines.any (·.1 == v.toNat) then a.fail .layout else a) with sect := .routine, routines := (v.toNat, []) :: a.routines }
      | _ => a.fail .form
    | "task" => if a.sect = .code then a.openTask p as else a.fail .layout
    | "successor" =>
      if a.sect = .code then a.with_ (as.mapM (exprIn env 0 255)) [] fun a ns => { a with listed := (a.task, ns.map Int.toNat) :: a.listed }
      else a.fail .layout
    | "align" => match as with
      | [n] => a.with_ (exprIn env 1 (2 ^ 48) n) 32 fun a n =>
        let n := n.toNat
        if n ≠ 2 ^ n.log2 then a.fail .range
        else match a.sect with
          | .data => a.padData p n
          | .code =>
            let off := p.code + 32 * a.code.length
            if n < 32 then a.fail .range else { a with code := List.replicate ((alignUp n off - off) / 32) 0 ++ a.code }
          | _ => a.fail .layout
      | _ => a.fail .form
    | "uword" => match a.sect, a.routines with
      | .routine, (n, ws) :: rs => a.with_ (uwordOf env as) 0 fun a w => { a with routines := (n, w :: ws) :: rs }
      | _, _ => a.fail .layout
    | _ =>
      if a.sect ≠ .data then a.fail (if ["byte", "half", "word", "dword", "f32", "bf16", "f16", "space", "handle"].contains d then .layout else .mnemonic)
      else match d, as with
        | "byte", _ => a.ints p 1 as
        | "half", _ => a.ints p 2 as
        | "word", _ => a.ints p 4 as
        | "dword", _ => (a.padData p 8).ints p 8 as
        | "f32", _ => a.reals fmtF32 as
        | "bf16", _ => a.reals fmtBF16 as
        | "f16", _ => a.reals fmtF16 as
        | "space", [n] => a.with_ (exprIn env 0 (2 ^ 48) n) 0 fun a n => a.bytes (List.replicate n.toNat 0)
        | "handle", _ => (a.padData p 32).with_ (handleOf env as) 0 fun a h => a.bytes (leBytes 32 h.toNat)
        | "space", _ => a.fail .form
        | _, _ => a.fail .mnemonic

/-- A statement without its label: a directive, or a bundle. -/
def Asm.statement (p : AsmPlace) (a : Asm) (ts : List Tok) : Asm :=
  match ts with
  | .name ["", d] :: r => a.directive p (lowerCase d) (operandArgs r)
  | _ => if a.sect = .code then a.bundle p ts else a.fail .layout

def Asm.line (p : AsmPlace) (a : Asm) (ts : List Tok) : Asm :=
  match ts with
  | [] => a
  | .name [n] :: .op ":" :: r => if r.isEmpty then a.label p n else (a.label p n).statement p r
  | _ => a.statement p ts

/-- The lines of a source; one that ends in the bundle separator continues on the next (R305). -/
def Asm.lines (p : AsmPlace) : Asm → List Tok → List (List Char) → Asm
  | a, pend, [] => if pend.isEmpty then a else a.line p pend
  | a, pend, l :: ls =>
    if a.ended then a
    else match lexLine (l.length + 1) l with
      | none => (a.fail .text).lines p [] ls
      | some ts =>
        let ts := pend ++ ts
        if ts.getLast? = some (.op "||") then a.lines p ts ls else (a.line p ts).lines p [] ls

/-! ## The image (R316) -/

/-- A kernel image at its address: its bytes, with the launch record first, and where its parts begin. -/
structure KernelImage where
  bytes : List (BitVec 8)
  table : Nat
  micro : Option Nat
  code : Nat
  data : Nat
  deriving DecidableEq, Repr

def Asm.ntask (a : Asm) : Nat := (a.tasks.map (·.n)).foldl max 0
def Asm.nwords (a : Asm) : Nat := (a.routines.map (·.2.length)).foldl (· + ·) 0

/-- The parts' places in the image: record, task table at 128, micro-image on 64 bytes, code on 32, data on 256 (log 54). -/
def Asm.microAt (a : Asm) : Nat := alignUp 64 (128 + 32 * a.ntask)
def Asm.codeAt (a : Asm) : Nat := alignUp 32 (a.microAt + (if a.routines.isEmpty then 0 else 1032 + 8 * a.nwords))
def Asm.dataAt (a : Asm) : Nat := alignUp 256 (a.codeAt + 32 * a.code.length)

def Asm.place (base : Nat) (a : Asm) : AsmPlace := { base := base, code := a.codeAt, data := a.dataAt, syms := a.syms }

/-- The launch record template. -/
def Asm.record (base : Nat) (a : Asm) (k : KernelRec) : List (BitVec 8) :=
  leBytes 8 (a.ntask * 2 ^ 48 + k.word0) ++ leBytes 8 (base + 128) ++ leBytes 8 (if a.routines.isEmpty then 0 else base + a.microAt)
    ++ leBytes 8 0 ++ leBytes 8 0 ++ leBytes 8 k.word5
    ++ (List.range 4).flatMap (fun i => let d := k.deps.getD i (0, 0); leBytes 8 d.1 ++ leBytes 8 d.2) ++ leBytes 16 0

/-- The task table (R31). -/
def Asm.tableBytes (base : Nat) (a : Asm) : List (BitVec 8) :=
  (List.range a.ntask).flatMap fun i => match a.tasks.find? (·.n == i + 1) with
    | some t => leBytes 8 (base + a.codeAt + 32 * t.entry) ++ leBytes 8 t.image ++ leBytes 8 t.len ++ leBytes 8 0
    | none => leBytes 32 0

/-- The micro-image (R169): routines take BASE in order of appearance. -/
def Asm.microBytes (a : Asm) : List (BitVec 8) :=
  if a.routines.isEmpty then []
  else
    let rs := a.routines.reverse
    let entry (n : Nat) : Nat := match rs.findIdx? (·.1 == n) with
      | some i => ((rs.take i).map (·.2.length)).foldl (· + ·) 0 + ((rs.getD i (0, [])).2.length) * 2 ^ 12
      | none => 0
    leBytes 8 a.nwords ++ (List.range 256).flatMap (fun n => leBytes 4 (entry n)) ++ rs.flatMap (fun r => r.2.reverse.flatMap fun w => leBytes 8 w.toNat)

/-- What is found once the whole source is read. -/
def Asm.faults (a : Asm) : List AsmError :=
  let bad (c : Bool) (e : AsmError) : List AsmError := if c then [e] else []
  a.errs.reverse ++ bad (a.kernel.isNone || a.opened.isSome) .layout ++ bad (a.tasks.isEmpty || 4096 < a.nwords) .range
    ++ bad (a.routines.any fun r => r.2.isEmpty || 256 < r.2.length) .layout
    ++ bad (a.exits.any fun x => x.2 != 0 && !(match a.listed.lookup x.1 with | some ns => ns.contains x.2 | none => a.tasks.any (·.n == x.2))) .exitTask

def padTo (n : Nat) (bs : List (BitVec 8)) : List (BitVec 8) := bs ++ List.replicate (n - bs.length) 0

/-- The image, or the first error. -/
def Asm.image (base : Nat) (a : Asm) : Except AsmError KernelImage :=
  match a.faults, a.kernel with
  | e :: _, _ => .error e
  | [], none => .error .layout
  | [], some k =>
    let head := padTo a.microAt (a.record base k ++ a.tableBytes base)
    let code := padTo a.codeAt (head ++ a.microBytes) ++ a.code.reverse.flatMap fun b => leBytes 32 b.toNat
    .ok { bytes := padTo a.dataAt code ++ a.data.reverse, table := 128, micro := if a.routines.isEmpty then none else some a.microAt,
          code := a.codeAt, data := a.dataAt }

/-- Passes until the symbols and places stand. -/
def settle (ls : List (List Char)) : Nat → AsmPlace → Except AsmError Asm
  | 0, _ => .error .layout
  | fuel + 1, p =>
    let a := Asm.lines p .empty [] ls
    if a.place p.base = p then .ok a else settle ls fuel (a.place p.base)

/-- The image that a source makes at an address: where the runtime places it, every field that holds a label's value holds it there (R316). -/
def assembleAt (base : Nat) (source : List (BitVec 8)) : Except AsmError KernelImage :=
  if !utf8Ok [] source then .error .text
  else
    let ls := pieces (· == Char.ofNat 10) (source.map fun b => Char.ofNat b.toNat)
    (settle ls (ls.length + 3) { base := base, code := 0, data := 0, syms := [] }).bind (Asm.image base)

/-- Jorbas: the kernel image of a source, relative to an image base of 0. -/
def jorbas (source : List (BitVec 8)) : Except AsmError KernelImage := assembleAt 0 source

end Sys2Proof.Machine
end

