-- ==== Sys2Proof/Tests/Slice0.lean ====
section
/-! SUPPORT. The model's own tests: what well-formedness and decoding refuse, words written out from the encoding tables, one step of
instructions, and for each statement with hypotheses states that meet them. -/

set_option maxRecDepth 20000
set_option Elab.async false

namespace Sys2Proof.Tests

open Sys2Proof Sys2Proof.Machine Sys2Proof.Claims

/-! ## Small states -/

/-- A context runs in U mode, every register at its reset value. -/
def u0 : State := { State.reset with live := true }

/-- Its core is in S mode after a trap. -/
def k0 : State := { u0 with mode := .s, trap := { u0.trap with tcause := 0x19, busy := true } }

/-- A register given a value. -/
def reg (s : State) (n : SReg) (v : Word) : State := s.setRs (s.rs.set n v)

/-- A handle register given a value. -/
def hnd (s : State) (h : HReg) (v : Handle) : State := s.setRs (s.rs.setH h v)

/-- The running context changed. -/
def withC (s : State) (f : Ctx → Ctx) : State := { s with ctx := f s.ctx }

/-- The CSRs of the running context changed. -/
def withCsr (s : State) (f : CtxCsr → CtxCsr) : State := { s with ctx := { s.ctx with csr := f s.ctx.csr } }

/-- The 64 KiB page at `va` mapped to `pa`, readable, writable and executable in both modes, with these other flags. -/
def page (s : State) (va : BitVec 48) (pa : BitVec 40) (flags : BitVec 9 := 0) : State :=
  { s with tlb := ⟨0, va, 16, pa, 0x03D ||| flags, 0⟩ :: s.tlb }

/-- A handle image from its words. -/
def img (w3 w2 w1 w0 : BitVec 64) : Handle := w3 ++ w2 ++ w1 ++ w0

/-- A port bound to handle register `h`. -/
def bound (wr : Bool) (h : HReg) : Port := { Port.unbound with bound := true, wr := wr, h := h }

def port (s : State) (n : PortNo) (p : Port) : State := { s with ctx := { s.ctx with ports := s.ctx.ports.set n.toNat p } }

/-- The state of an outcome, the first one where there is none. -/
def after (s : State) (i : Instr) : State := match exec i s with | .next t => t | _ => s

theorem turn_of {g : Guard} {s : State} (h : guardOn g s = true) (w : s.rs.wait = .none) : Turn g s :=
  ⟨h, fun n => by rw [w]; exact Wait.noConfusion⟩

theorem operable_of {srcs dsts : List SReg} {s : State}
    (h : (srcs.all (!isPush ·) && dsts.all (!isPop ·) && (s.mode == .u || (srcs ++ dsts).all (!isQueue ·)) && operandsReady srcs s) = true) :
    Operable srcs dsts s := by
  simp only [Bool.and_eq_true, Bool.or_eq_true, List.all_eq_true, Bool.not_eq_true', beq_iff_eq] at h
  exact ⟨h.1.1.1, h.1.1.2, fun m => h.1.2.resolve_left (by rw [m]; exact Mode.noConfusion), h.2⟩

/-- So can the operands of several instructions. -/
theorem operables_of {ps : List (List SReg × List SReg)} {s : State} (h : (ps.all fun p => p.1.all (!isPush ·) && p.2.all (!isPop ·)
    && (s.mode == .u || (p.1 ++ p.2).all (!isQueue ·)) && operandsReady p.1 s) = true) : ∀ p ∈ ps, Operable p.1 p.2 s :=
  fun p m => operable_of (List.all_eq_true.mp h p m)

theorem ok_of {ε α : Type} {x : Except ε α} {a : α} (h : x.toOption = some a) : x = .ok a := by
  cases x with
  | ok b => cases h; rfl
  | error e => cases h

/-- The failure of an access, if it fails. -/
def failure {ε α : Type} : Except ε α → Option ε
  | .ok _ => none
  | .error e => some e

theorem error_of {ε α : Type} {x : Except ε α} {e : ε} (h : failure x = some e) : x = .error e := by
  cases x with
  | ok b => cases h
  | error f => cases h; rfl

/-! ## Well-formedness: an ill-formed term for each check, and a well-formed neighbour -/

theorem test_wf_compares : Instr.wf (.cmpGuard 0 0 1 2 .un) = false ∧ Instr.wf (.cmpRegister 0 0 1 2 .ord) = false
    ∧ Instr.wf (.cmpi 0 false 16 1 .eq 0) = false ∧ Instr.wf (.cmpi 0 false 15 1 .un 0) = false ∧ Instr.wf (.cmpi 0 true 16 1 .eq 0) = true
    ∧ Instr.wf (.fcmp 0 false 3 1 2 .ltu) = false ∧ Instr.wf (.fcmp 0 false 16 1 2 .lt) = false ∧ Instr.wf (.fcmp 0 false 15 1 2 .un) = true := by decide

theorem test_wf_fields : Instr.wf (.ext 0 1 2 0 0 false) = false ∧ Instr.wf (.ext 0 1 2 1 64 true) = false ∧ Instr.wf (.ext 0 1 2 0 64 true) = true
    ∧ Instr.wf (.ins 0 1 2 63 2) = false ∧ Instr.wf (.ins 0 1 2 63 1) = true := by decide

theorem test_wf_fcvt : Instr.wf (.fcvt 0 1 2 .q4 .f32 false .rne) = false ∧ Instr.wf (.fcvt 0 1 2 .f32 .bytes false .rne) = false
    ∧ Instr.wf (.fcvt 0 1 2 .e4m3 .f32 true .rne) = false ∧ Instr.wf (.fcvt 0 1 2 .e5m2 .i64 true .srnd) = true := by decide

theorem test_wf_accesses : Instr.wf (.ld 0 1 2 0 .w false .rel 0 0) = false ∧ Instr.wf (.ld 0 1 2 0 .d true .rlx 0 0) = false
    ∧ Instr.wf (.st 0 1 2 0 .w .acq 0) = false ∧ Instr.wf (.ldfe 0 1 2 0 .w false .acqrel 0 0) = false ∧ Instr.wf (.stfe 0 1 2 0 .w .acqrel 0) = false
    ∧ Instr.wf (.hld 0 1 2 0 .rel 0) = false ∧ Instr.wf (.hst 0 1 2 0 .acq 0) = false ∧ Instr.wf (.grab 0 1 2 .rel 0 0) = false
    ∧ Instr.wf (.ld 0 1 2 0 .w true .acq 0 0) = true := by decide

theorem test_wf_atomics : Instr.wf (.amo 0 1 2 3 .fadd .d .rlx 0 0) = false ∧ Instr.wf (.amo 0 1 2 3 .add .h .rlx 0 0) = false
    ∧ Instr.wf (.amor 0 1 2 3 .add .b 1) = false ∧ Instr.wf (.cas 0 1 2 3 4 false .h .rlx 0 0) = false
    ∧ Instr.wf (.red 0 1 2 .add .w .acq 0) = false ∧ Instr.wf (.red 0 1 2 .fadd .d .rlx 0) = false ∧ Instr.wf (.waitm 0 1 2 0 .h 0 .eq) = false
    ∧ Instr.wf (.waitm 0 1 2 0 .w 0 .un) = false ∧ Instr.wf (.amo 0 1 2 3 .fadd .w .acqrel 0 0) = true := by decide

theorem test_wf_control : Instr.wf (.fence 0 false .rlx 0) = false ∧ Instr.wf (.fence 0 true .acq 0) = false ∧ Instr.wf (.br 0 .always 3 0) = false
    ∧ Instr.wf (.csrr 0 1 0x011) = false ∧ Instr.wf (.csrrRemote 0 1 2 0x405 0) = false ∧ Instr.wf (.csrw 0 1 0x218) = false
    ∧ Instr.wf (.csrs 0 1 0xF42) = false ∧ Instr.wf (.csrc 0 1 0x50C) = false ∧ Instr.wf (.bind 0 1 2 true true) = false
    ∧ Instr.wf (.fence 0 true .acqrel 0) = true := by decide

theorem test_wf_vectors : Instr.wf (.vexp2 .v0 0 .i32 1 2) = false ∧ Instr.wf (.vlog2 .v0 0 .u8 1 2) = false ∧ Instr.wf (.vrcp .v1 0 .i8 1 2) = false
    ∧ Instr.wf (.vrsq .v1 0 .u32 1 2) = false ∧ Instr.wf (.vcmp .v0 0 .f32 1 2 3 .ltu) = false ∧ Instr.wf (.vcmp .v0 0 .i32 1 2 3 .un) = false
    ∧ Instr.wf (.vshl .v0 0 .f16 1 2 3) = false ∧ Instr.wf (.vshr .v0 0 .bf16 1 2 3) = false ∧ Instr.wf (.vcmp .v0 0 .u8 1 2 3 .leu) = true := by decide

theorem test_wf_engines : Instr.wf (.cpyr .c0 0 1 2 3 false .swap) = false ∧ Instr.wf (.wstr .c0 0 1 2 3 false 0) = false
    ∧ Instr.wf (.xpose 0 1 2 3) = false ∧ Instr.wf (.xexp 0 1 2 .v0 3) = false ∧ Instr.wf (.xpack 0 1 2 .v1 3) = false
    ∧ Instr.wf (.xpose 0 1 2 2) = true := by decide

/-! ## Words written out from the encoding tables: fields from the top, as Tables 16.3 to 16.8 and R303 give them -/

/-- Table 16.4 and chapter 17: guard, opcode, d, a, b, func, 16 reserved bits. -/
theorem test_decode_alu : decodeS 0b000011_00000010_000101_000110_000111_00000000_0000000000000000#56 = .ok (.sub 3 5 6 7)
    ∧ decodeS 0b000000_00100000_000001_000010_111111111111111111111111111111#56 = .ok (.addi 0 1 2 (-1))
    ∧ decodeS 0b000000_00010110_000100_000001_000010_00000010_0000000000000000#56 = .ok (.cmpGuard 0 4 1 2 .lt) := ⟨rfl, rfl, rfl⟩

theorem test_decode_float : decodeS 0b000000_00110010_000101_000110_000111_00000000_0000000000000000#56 = .ok (.fmul 0 5 6 7) := rfl

/-- Format SL: disp16, size 2 (w), sx, order, scope, latency field. -/
theorem test_decode_memory : decodeS 0b000000_01000001_000101_000110_0000000000001000_11_0_10_001_000000#56 = .ok (.st 0 5 6 8 .d .rel 1)
    ∧ decodeS 0b000000_01001000_000000_000000_0000000000000000_00_1_11_011_000000#56 = .ok (.fence 0 true .acqrel 3) := ⟨rfl, rfl⟩

theorem test_decode_control : decodeS 0b000000_01010111_000000_000000_00000000000000_0000000100000010#56 = .ok (.svc 0 0x102)
    ∧ decodeS 0b000000_01011010_000011_000100_000000000000000000000000000101#56 = .ok (.waitc 0 3 4 5) := ⟨rfl, rfl⟩

theorem test_decode_system : decodeS 0b000000_01100100_000000_000111_001000_00000010_0000000000000000#56 = .ok (.tlbiPage 0 7 8)
    ∧ decodeS 0b000000_01100000_000101_000000_010100000000_000000000000000000#56 = .ok (.csrr 0 5 0x500) := ⟨rfl, rfl⟩

theorem test_decode_handles : decodeS 0b000000_01110110_001000_000000_01001_00000_00000001_000_000_000000#56 = .ok (.bind 0 8 9 true false) := rfl

theorem test_decode_matrix : decodeS 0b000000_01111001_000010_000101_000000_00000000_0000000000000000#56 = .ok (.acq 0 2 5)
    ∧ decodeM 0b000001_01_00000010_00000011_100_00_1_0_0#32 = .ok (.mcall 1 2 3 4 true false false) := ⟨rfl, rfl⟩

theorem test_decode_versions : decodeS 0b000000_10000010_000110_000000_000000_00000000_0000000000000000#56 = .ok (.tbegin 0 6) := rfl

theorem test_decode_taps_and_sequences : decodeS 0b000000_10001001_000000_000011_000000_00000000_0000000000000000#56 = .ok (.tapw 0 3)
    ∧ decodeS 0b000000_10010011_000100_000101_000000_00000000_0000000000000000#56 = .ok (.sqcommit 0 4 5) := ⟨rfl, rfl⟩

/-- Table 16.6: guard, op, type, d, a, b, c. -/
theorem test_decode_vector : decodeV .v0 0b000000_00100_011_00011_000100_100001_00010#36 = .ok (.vfma .v0 0 .i32 3 4 33 2) := rfl

/-- Table 16.8: guard, op, hs, hd, n, mode. -/
theorem test_decode_copy : decodeC .c1 0b000000_01010_00000_00000_011_00000111#32 = .ok (.cnta .c1 0 3 7) := rfl

theorem test_decode_transform : decodeX 0b000000_0001_00001_00010_0010#24 = .ok (.xpose 0 1 2 2) := rfl

theorem test_decode_header : decodeHeader 0b1_011_0000#8 = .ok (some (.oppRequest 3)) := rfl

/-- What no table lists is refused by name. -/
theorem test_decode_refuses : decodeS 0b000000_01011111_000000_000000_000000000000000000000000000000#56 = .error .illop
    ∧ decodeS 0b000000_00000001_000101_000110_000111_00000001_0000000000000000#56 = .error .illslot
    ∧ decodeX 0b000000_0101_00000_00000_0000#24 = .error .illop ∧ decodeHeader 0b0_000_0001#8 = .error .illslot := ⟨rfl, rfl, rfl, rfl⟩

/-! ## One step: values from the manual's definitions and its worked examples -/

/-- What an instruction puts in flight: landing ticks and results. -/
def lands (s : State) (i : Instr) : List (Nat × Land) := (after s i).rs.flights.map fun f => (f.due, f.act)

/-- s1 = 7, s2 = -3 (R319, R345, R367). -/
def ab : State := reg (reg u0 1 7) 2 (-3)

theorem test_add_sub : lands ab (.add 0 3 1 2) = [(1, .sreg 3 4)] ∧ lands ab (.sub 0 3 2 1) = [(1, .sreg 3 (-10))] := by decide +kernel
theorem test_div_by_zero : lands ab (.div 0 3 1 0) = [(20, .sreg 3 0xFFFFFFFFFFFFFFFF)] ∧ lands ab (.div 0 3 1 2) = [(20, .sreg 3 (-2))] := by decide +kernel
theorem test_mulh : lands ab (.mulh 0 3 1 2) = [(3, .sreg 3 (-1))] ∧ lands ab (.mulhu 0 3 1 2) = [(3, .sreg 3 6)] := by decide +kernel
theorem test_shifts : lands ab (.sra 0 3 2 1) = [(1, .sreg 3 (-1))] ∧ lands ab (.shr 0 3 2 1) = [(1, .sreg 3 0x1FFFFFFFFFFFFFF)] := by decide +kernel
theorem test_ext_signed : lands ab (.ext 0 3 1 1 2 true) = [(1, .sreg 3 (-1))] ∧ lands ab (.ext 0 3 1 1 2 false) = [(1, .sreg 3 3)] := by decide +kernel
theorem test_compare_signs : lands ab (.cmpGuard 0 2 1 2 .gt) = [(1, .greg 2 true)]
    ∧ lands ab (.cmpGuard 0 2 1 2 .gtu) = [(1, .greg 2 false)] := by decide +kernel
/-- 1.0 + 2.0 = 3.0; 2^24 + 1 rounds to even 2^24, inexact (R85, R89). -/
theorem test_fadd : (fpAdd fmtF32 false .rne 0x3F800000 0x40000000).1 = 0x40400000 ∧ (fpAdd fmtF32 false .rne 0x4B800000 0x3F800000).1 = 0x4B800000
    ∧ (fpAdd fmtF32 false .rup 0x4B800000 0x3F800000).1 = 0x4B800001 := by decide +kernel
/-- A register branch to an address that is no bundle's (R332). -/
theorem test_ret_align : (after (reg u0 49 0x1010) (.ret 0)).trap.tcause = 0x04 ∧ (after (reg u0 49 0x1010) (.ret 0)).mode = .s
    ∧ (after (reg u0 49 0x1020) (.ret 0)).ctx.rs.npc = 0x1020 := by decide +kernel
theorem test_pop_port : (after (withC u0 fun c => { c with statq := [5, 9] }) (.add 0 3 56 56)).rs.flights.map (·.act) = [.sreg 3 14] := by decide +kernel
theorem test_guard_off : lands ab (.add 0x20 3 1 2) = [] ∧ lands ab (.add 1 3 1 2) = [] ∧ lands ab (.add 0x21 3 1 2) = [(1, .sreg 3 4)] := by decide +kernel
theorem test_csrw_privileged : (after ab (.csrw 0 1 0x505)).trap.tcause = 0x03 ∧ (after ab (.csrw 0 1 0x505)).trap.tval = 0x505 := by decide +kernel
theorem test_misaligned_load_traps : failure ((page u0 0x10000 0x10000).translate 0 .u .read true 0x10002 4) = some (.align, none) := by decide +kernel
theorem test_oppsettle : (after { u0 with power := { u0.power with settling := true, rem := 5 } } (.oppRequest 3)).trap.tcause = 0x70B := by decide +kernel
/-- An image of each die that the boot checks accept (R290). -/
def goodImage : DieImage := ⟨7, true, 0, 0, false, false⟩
def goodImages : List (Option DieImage) := List.replicate 8 (some goodImage)

theorem test_bring_up : (after State.reset .powerOn).host.devst = 1 ∧ (after (after State.reset .powerOn) (.diesReady goodImages [])).host.devst = 2
    ∧ (after (after State.reset .powerOn) (.diesReady (goodImages.set 5 (some { goodImage with keyHash := 1 })) [])).host.devst = 4
    ∧ (after (after State.reset .powerOn) (.diesReady (goodImages.set 5 (some { goodImage with keyHash := 1 })) [])).host.booterr = 0x2002 := by decide +kernel

/-! ## Witnesses: each statement's hypotheses are met, clause by clause -/

theorem witness_IntegerResults : Turn 0 ab ∧ Operable [1, 2] [3] ab ∧ Turn 0x21 ab
    ∧ Operable [56, 57] [61] (withC u0 fun c => { c with statq := [5], rngq := [6] }) ∧ Operable [1, 2] [3] k0 :=
  ⟨turn_of (by decide) rfl, operable_of (by decide), turn_of (by decide) rfl, operable_of (by decide), operable_of (by decide)⟩

/-- s1 = 0, s3 all ones. -/
def ones : State := reg u0 3 (-1)

theorem witness_IntegerFieldResults : Turn 0 ones ∧ (∀ p ∈ [([1], [3]), ([3, 1], [3]), ([], [3]), ([3], ([3] : List SReg))], Operable p.1 p.2 ones)
    ∧ fieldOk 63 1 = true ∧ fieldOk 0 64 = true
    ∧ (∀ i < 64, (0xFFFFFFFFFFFFF00F#64).getLsbD i = if 4 ≤ i ∧ i < 4 + 8 then (src [3, 1] ones 1).getLsbD (i - 4) else (src [3, 1] ones 0).getLsbD i)
    ∧ ∀ i < 64, (0x1234FFFFFFFFFFFF#64).getLsbD i = if 48 ≤ i ∧ i < 64 then (0x1234#16).getLsbD (i - 48) else (src [3] ones 0).getLsbD i :=
  ⟨turn_of (by decide) rfl, operables_of (by decide), by decide +kernel⟩

theorem witness_CompareAndSelect : Turn 0 ab ∧ (∀ p ∈ [([1, 2], []), ([1], []), ([1, 2], [3]), ([1], ([3] : List SReg))], Operable p.1 p.2 ab)
    ∧ (src [1, 2] ab 1).toInt < (src [1, 2] ab 0).toInt ∧ ¬(src [1, 2] ab 1).toNat < (src [1, 2] ab 0).toNat ∧ (15 : SReg).toNat < 16 :=
  ⟨turn_of (by decide) rfl, operables_of (by decide), by decide +kernel⟩

/-- A word stands in rngq. -/
def rnd : State := withC ab fun c => { c with rngq := [7] }

theorem witness_FloatResults : Turn 0 ab ∧ (∀ p ∈ [([1, 2], [3]), ([1, 2], []), ([1, 2, 4], ([3] : List SReg))], Operable p.1 p.2 ab)
    ∧ Operable [1] [3] rnd ∧ rnd.ctx.bundleRnd = none ∧ (popped [1] rnd).ctx.rngq = [7] :=
  ⟨turn_of (by decide) rfl, operables_of (by decide), operable_of (by decide), by decide +kernel⟩

theorem witness_FloatSpecialCases : (fmtF32.decode 0x7F800001).isNaN = true ∧ (fmtF32.decode 0x7F800001).isSNaN = true
    ∧ (fmtF32.decode 0x7FC00000).isSNaN = false ∧ 0x7F < 2 ^ fmtE4M3.width ∧ (fmtE4M3.decode 0x7E).isNaN = false ∧ (fmtF16.decode 0x7C00).isNaN = false := by
  decide +kernel

/-- s48 = 1: the inner loop count; s55 the outer. -/
def inner : State := reg u0 48 1
def outer : State := reg u0 55 1

theorem witness_Branches : Turn 0 u0 ∧ (∀ p ∈ [([], []), ([49], []), ([48, 55, 51], ([] : List SReg))], Operable p.1 p.2 u0) ∧ Operable [1] [] ab
    ∧ 0 < (src [1] ab 0).toInt ∧ src [1] u0 0 = 0
    ∧ (src [1] (reg u0 1 0x20) 0 + 32 * (-1#30).signExtend 64).toNat % 32 = 0 ∧ (src [1] ab 0 + 32 * (0#30).signExtend 64).toNat % 32 ≠ 0
    ∧ (u0.sreg 49).toNat % 32 = 0 ∧ ((reg u0 49 16).sreg 49).toNat % 32 ≠ 0
    ∧ inner.sreg 48 ≠ 0 ∧ outer.sreg 48 = 0 ∧ outer.sreg 55 ≠ 0 ∧ u0.sreg 48 = 0 ∧ u0.sreg 55 = 0 :=
  ⟨turn_of (by decide) rfl, operables_of (by decide), operable_of (by decide), by decide +kernel⟩

theorem witness_TrapAndSvc : Turn 0 u0 ∧ u0.mode = .u := ⟨turn_of (by decide) rfl, rfl⟩

/-- A kernel of 2 tasks, placed on core 0. -/
def kern : Kernel := { Kernel.fresh 1 0 0 0 with id := 1, st := .placed, cores := [0], live := [0] }

/-- A context of `kern` runs, with DMR naming domains of each level up to the package's. -/
def inDomain : State := { withC u0 (fun c => { c with kernel := 1, doms := c.doms.map fun d => { d with exp := 2 } }) with kernels := [kern] }
def joined : State := withCsr inDomain fun k => { k with dmr := 0x0000000101010003 }

/-- A parked context of class 1. -/
def other : Ctx := { Ctx.reset with id := 7, cls := 1 }

theorem witness_ExitWaitsAndArrivals : Turn 0 joined ∧ Operable [1] [] ab ∧ Operable [2, 1] [] (page u0 0x10000 0x10000)
    ∧ (page u0 0x10000 0x10000).translate 0 .u .read true (0x10000 + (8#16).signExtend 64) 8 = .ok ⟨0x10008, false, false, 0⟩
    ∧ joined.mode = .u ∧ (0 : BitVec 8).toNat ≤ joined.ntask ∧ u0.rs.reqs = [] ∧ u0.comb = []
    ∧ 0 ≤ ((withC ab fun c => { c with ec := c.ec.set 3 12 }).ctx.ec[3] - ((src [1] ab 0).setWidth 32 + (5#30).setWidth 32)).toInt
    ∧ waitmTrue .eq 8 ((page u0 0x10000 0x10000).numPa 0x10008 8) 0 = true
    ∧ (joined.ctx.levelOk 3 = true ∧ (joined.ctx.dom 3).own < 2)
    ∧ (∀ c ∈ u0.parked, u0.wakes c = false ∨ c.effClass < u0.ctx.effClass)
    ∧ (({ u0 with parked := [other] } : State).wakes other = true ∧ u0.ctx.effClass ≤ other.effClass) :=
  ⟨turn_of (by decide) rfl, operable_of (by decide), operable_of (by decide), ok_of (by decide +kernel), by decide +kernel⟩

theorem witness_ScalarAccesses : Turn 0 ab
    ∧ (∀ p ∈ [([1], [3]), ([1], [0]), ([1, 2], []), ([1, 2], [3]), ([1, 2, 4], ([3] : List SReg))], Operable p.1 p.2 ab)
    ∧ (3 : SReg) ≠ 0 ∧ (src [1] (reg u0 1 0x800000) 0).toNat % 2 ^ 23 = 0 ∧ (src [1] ab 0).toNat % 2 ^ 23 ≠ 0 ∧ (0xEFF : BitVec 12).toNat < 0xF00
    ∧ 0xF00 ≤ (0xF00 : BitVec 12).toNat :=
  ⟨turn_of (by decide) rfl, operables_of (by decide), by decide +kernel⟩

/-- A relaxed RED to 0x10000 meets an empty combining buffer, and one that holds a RED of the same word. -/
def reducing (es : List Req) : State := { page (reg (reg u0 1 0x10000) 2 5) 0x10000 0x10000 with comb := es }
def inComb : Req := { id := 1, kind := .red .add 3, va := 0x10000, bytes := 8, ord := .rlx, scope := 1, rcn := 0, bundle := 0, tick := 0, mode := .u,
                      pa := some ⟨0x10000, false, false, 0⟩, reply := none, gate := none, txn := none, view := none }

theorem witness_RedsCombine : Turn 0 (reducing [inComb]) ∧ Operable [1, 2] [] (reducing [inComb])
    ∧ (∀ es ∈ [[], [inComb]], ∀ q ∈ [(popped [1, 2] (reducing es)).newReq (.red .add 5) (src [1, 2] (reducing es) 0) 8 .rlx 1 0],
      ((popped [1, 2] (reducing es)).resolve q).toOption = some ⟨0x10000, false, false, 0⟩)
    ∧ (let s := page (reducing []) 0x10000 0x10000 0x040
      (((popped [1, 2] s).resolve ((popped [1, 2] s).newReq (.red .add 5) (src [1, 2] s 0) 8 .rlx 1 0)).toOption.map (·.v)) = some true)
    ∧ inComb.kind = .red .add 3 ∧ inComb.pa.map (·.pa) = some 0x10000 ∧ inComb.bytes = sizeBytes .d :=
  ⟨turn_of (by decide) rfl, operable_of (by decide), by decide +kernel⟩

/-- A store that has not been performed, and a load. -/
def aStore : Req := { id := 9, kind := .store 5, va := 0x10000, bytes := 8, ord := .rlx, scope := 0, rcn := 0, bundle := 0, tick := 0, mode := .u,
                      pa := none, reply := none, gate := none, txn := none, view := none }
def aLoad : Req := { aStore with kind := .load false }
def sent (q : Req) : State := withC u0 fun c => { c with rs := { c.rs with reqs := [q] } }

theorem witness_DomainAtomicsImagesAndFences : Turn 0 joined ∧ Operable [1, 2, 3] [] joined ∧ Operable [1] [] u0
    ∧ Turn 0 (sent aStore) ∧ Turn 0 (sent aLoad) ∧ (1 : BitVec 3) ∈ [1, 2, (3 : BitVec 3)]
    ∧ joined.ctx.levelOk 1 = true ∧ (joined.ctx.dom 1).own < 2 ∧ u0.handleInUse 5 = none ∧ u0.rs.reqs = [] ∧ u0.comb = []
    ∧ (∃ q ∈ (sent aStore).rs.reqs, q.reply = none ∧ q.kind.writes = true) ∧ (∃ q ∈ (sent aLoad).rs.reqs, q.reply = none ∧ q.kind.reads = true)
    ∧ ordReleases .rel = true ∧ ordAcquires .acq = true :=
  ⟨turn_of (by decide) rfl, operable_of (by decide), operable_of (by decide), turn_of (by decide) rfl, turn_of (by decide) rfl, by decide +kernel⟩

/-- The first and last numbers of each range that U mode may read or write; SPM bounds of FEOP at the end of the banks. -/
theorem witness_CsrAccess : Turn 0 u0 ∧ Turn 0 k0 ∧ Operable [] [3] u0 ∧ Operable [1] [] u0 ∧ Operable [] [3] k0
    ∧ (∀ k ∈ [0x008, 0x051, 0x20F, 0x217, 0x323, 0x4FF], k ≠ 0x050 ∧ ¬(0x210 ≤ k ∧ k ≤ 0x216) ∧ k ≠ 0x324 ∧ ¬(0x500 ≤ k ∧ k ≤ 0x50B) ∧ k < 0xF00)
    ∧ (∀ k ∈ [0x050, 0x210, 0x216, 0x324, 0x500, 0x50B, 0xF00], ¬(k ≠ 0x050 ∧ ¬(0x210 ≤ k ∧ k ≤ 0x216) ∧ k ≠ 0x324 ∧ ¬(0x500 ≤ k ∧ k ≤ 0x50B) ∧ k < 0xF00))
    ∧ (let s := withC (reg u0 1 0x400000000003FFFF) fun c => { c with spmBanks := 32 }
       (src [1] s 0).toNat / 2 ^ 62 = 1 ∧ (src [1] s 0).toNat % 2 ^ 18 + (src [1] s 0).toNat / 2 ^ 24 % 2 ^ 20 ≤ s.ctx.spmBanks * 8192) :=
  ⟨turn_of (by decide) rfl, turn_of (by decide) rfl, operable_of (by decide), operable_of (by decide), operable_of (by decide), by decide +kernel⟩

theorem witness_CsrWritesLand : u0.mode = .u ∧ k0.mode = .s ∧ 0x210 ≤ (0x210 : BitVec 12).toNat ∧ u0.power.reach ≤ u0.limit
    ∧ (0x10007 : Word).extractLsb' 16 2 = 1 ∧ (7 : Word).extractLsb' 16 2 = 0 := by decide +kernel

/-- In S mode, a context stands at 0x1000 after SVC. -/
def trapped : State := { k0 with trap := { k0.trap with tcause := 0x18, tepc := 0x1000 } }

theorem witness_TranslationsCachesAndEret : Turn 0 trapped ∧ Turn 0 u0 ∧ (∀ p ∈ [([1], []), ([1, 2], ([] : List SReg))], Operable p.1 p.2 trapped)
    ∧ Operable [1, 2] [] u0 ∧ trapped.mode = .s ∧ trapped.liveReqs = [] ∧ trapped.comb = [] ∧ u0.mode = .u
    ∧ (src [1, 2] (reg trapped 1 0xFFFFFFFFFFFF) 0).toNat < 2 ^ 48
    ∧ trapped.trap.tcause.extractLsb' 0 8 ≠ 0 ∧ trapped.trap.ctxcmd = none ∧ trapped.trap.tepc.toNat % 32 = 0 ∧ trapped.ctx.load = .none
    ∧ trapped.ctx.rs.wait = .none ∧ trapped.ctx.csr.msimg = 0 :=
  ⟨turn_of (by decide) rfl, turn_of (by decide) rfl, operables_of (by decide), operable_of (by decide), by decide +kernel⟩

/-- Handle images: an SPM ring of 4 slots of 64 bytes with 1 filled, an SPM region of 64 f32 elements, a writer handle of a versioned buffer of 2 slots. -/
def ring : Handle := img 0x0000000001000104 0x0001000000000000 0x0000000000010040 0x0002000000020000
def region : Handle := img 0 0 0x0000000000010040 0x0001000000020000
def writer : Handle := img 0x0000000000000002 0x0001000000000000 0x0000000000010040 0x0201000000020000

/-- The core's SPM is mapped at 0x20000, with 32 banks. -/
def spm (s : State) : State := withC (page s 0x20000 0xFE00000000) fun c => { c with spmBanks := 32 }

theorem witness_HandlesAndPorts : (let s := reg (hnd u0 5 ring) 1 1
      Turn 0 s ∧ (∀ p ∈ [([1], []), ([], ([3] : List SReg))], Operable p.1 p.2 s)
      ∧ s.handleInUse 5 = none ∧ handleOk (s.hreg 5) = true ∧ hKind (s.hreg 5) = 2 ∧ s.portBound 5 = false
      ∧ s.namedByCopy 5 = false ∧ (∀ e ∈ s.ctx.allCalls, CallEntry.hd e ≠ some 5) ∧ hHead (s.hreg 5) < hNslot (s.hreg 5)
      ∧ hTail (s.hreg 5) < hNslot (s.hreg 5) ∧ hFilled (s.hreg 5) ≤ hNslot (s.hreg 5) ∧ s.namedByCall 5 = false
      ∧ (src [1] s 0).toNat ≤ hFilled (s.hreg 5) ∧ (src [1] (reg s 1 3) 0).toNat + hFilled (s.hreg 5) ≤ hNslot (s.hreg 5) ∧ ringOk (s.hreg 5) = true)
    ∧ (let s := hnd u0 5 region
      s.mode = .u ∧ s.ctx.ports[(31 : PortNo).toNat].bound = false ∧ handleOk (s.hreg 5) = true ∧ ringOk (s.hreg 5) = true ∧ hKind (s.hreg 5) ∈ [1, 2, 5, 6, 8]
      ∧ hVERS (s.hreg 5) = false ∧ ∀ q ∈ s.ctx.ports.toList, q.bound = true → q.wr = true → q.h ≠ 5)
    ∧ (let s := hnd (spm u0) 5 writer
      hVERS (s.hreg 5) = true ∧ s.writerHandle (s.hreg 5) = true ∧ s.vbound 5 = false)
    ∧ (let s := port u0 31 (bound true 5)
      s.ctx.ports[(31 : PortNo).toNat].bound = true ∧ ∀ f ∈ s.ctx.rs.flights, f.due ≤ s.ctx.rs.tick) :=
  ⟨⟨turn_of (by decide) rfl, operables_of (by decide), by decide +kernel⟩, by decide +kernel⟩

/-- A reader handle bound to slot 3 of the buffer whose header stands at SPM offset 0. -/
def readerBound : State := withC (spm u0) fun c => { c with bounds := [⟨5, 0x20000, 3⟩], spm := [(3, 1)] }

theorem witness_VersionedBuffers : (let s := hnd (spm u0) 5 writer
      Turn 0 s ∧ Operable [1] [] s ∧ Safety.memOk s = true ∧ s.mode = .u ∧ handleOk (s.hreg 5) = true ∧ s.writerHandle (s.hreg 5) = true
      ∧ s.portBound 5 = false ∧ hVERS (s.hreg 5) = true ∧ (hBase (s.hreg 5)).toNat % 64 = 0
      ∧ (hKind (s.hreg 5) = 1 ∧ 2 ≤ hNslot (s.hreg 5) ∧ hNslot (s.hreg 5) ≤ 4 ∧ hSlotsz (s.hreg 5) ≠ 0) ∧ s.handleInUse 6 = none)
    ∧ (let s := readerBound
      Turn 0 s ∧ Safety.memOk s = true ∧ s.portBound 5 = false ∧ 3 < 4
      ∧ (s.translate s.ctx.csr.atp .u .write true 0x20000 8).toOption = some ⟨0xFE00000000, false, false, 0⟩
      ∧ placeOf 0xFE00000000 = .window s.coreNum.toNat 0 ∧ winPart 0 = .spm 0 ∧ s.wctx = s.ctx.id ∧ s.live = true
      ∧ 1 ≤ (Memory.get s.ctx.spm (0 + 3)).toNat) :=
  ⟨⟨turn_of (by decide) rfl, operable_of (by decide), by decide +kernel⟩, turn_of (by decide) rfl, by decide +kernel⟩

/-- A region of banks 0 and 1 at version 9 under number 2; 24 banks, the rest free. -/
def matrix : State := withC (spm u0) fun c =>
  { c with acmBanks := List.range 24, regions := c.regions.set 2 (some ⟨[0, 1], 9⟩), microTable := List.replicate 256 0 }

/-- An image of 0 words stands at 0x10000. -/
def image : State := reg (page u0 0x10000 0x10000) 1 0x10000

theorem witness_MatrixControl : Turn 0 matrix ∧ (∀ p ∈ [([1], []), ([], ([3] : List SReg))], Operable p.1 p.2 matrix)
    ∧ Operable [1, 2] [] (reg (reg matrix 1 0x20000) 2 0x206) ∧ matrix.mode = .u
    ∧ (matrix.ctx.callNames 7 = false ∧ matrix.ctx.regions[(7 : BitVec 3).toNat] = none ∧ (src [1] (reg matrix 1 1) 0).toNat = 1
      ∧ (src [1] (reg matrix 1 22) 0).toNat ≤ matrix.ctx.freeBanks.length)
    ∧ (matrix.ctx.regions[(2 : BitVec 3).toNat] = some ⟨[0, 1], 9⟩ ∧ matrix.ctx.callNames 2 = false ∧ (8 : BitVec 8) ≠ 9)
    ∧ (image.ctx.callCount = 0 ∧ (src [1] image 0).toNat % 64 = 0 ∧ (image.readImage 0 0x10000).toOption = some (List.replicate 256 0, []))
    ∧ (let s := reg (reg matrix 1 0x20000) 2 0x206
      s.ctx.callCount < 4 ∧ (src [1, 2] s 1).toNat < 1024 ∧ (src [1, 2] s 1).toNat / 16 % 16 = 0 ∧ (src [1, 2] s 1).toNat / 2 % 8 ≤ 3
      ∧ (src [1, 2] s 0).toNat % 64 = 0 ∧ s.inOwnSpm (src [1, 2] s 0) 512 = true)
    ∧ ∀ h ∈ namedOf (matrix.ctx.routineWords 0) false matrix.ctx.mp, ringOk (matrix.hreg h) = true :=
  ⟨turn_of (by decide) rfl, operables_of (by decide), operable_of (by decide), by decide +kernel⟩

/-- A transaction is open; a snapshot is held. -/
def aTxn : Txn := { num := 1, tid := 3, tsnap := 0, doom := none, slices := 0, lines := 0 }
def open3 : State := withC u0 fun c => { c with txn := some aTxn }
def snapped : State := withC u0 fun c => { c with snap := some 0 }

/-- A notice about a context that gave way: the supervisor acts for it. -/
def servedFor (c : Ctx) : State :=
  { u0 with mode := .s, parked := [{ c with id := 7 }], trap := { u0.trap with tcause := 0, ctxsel := 7, busy := true } }

theorem witness_Transactions : Turn 0 u0 ∧ Turn 0 snapped ∧ Turn 0 open3 ∧ Operable [] [3] u0 ∧ Operable [] [3] open3 ∧ (∃ tid, u0.freeTid = some tid)
    ∧ u0.behalf = u0.ctx.id ∧ snapped.served.snap ≠ none ∧ open3.behalf = open3.ctx.id ∧ open3.served.txn ≠ none
    ∧ u0.ctx.snap = none ∧ u0.ctx.txn = none ∧ u0.snapRoom = true ∧ open3.ctx.txn = some aTxn :=
  ⟨turn_of (by decide) rfl, turn_of (by decide) rfl, turn_of (by decide) rfl, operable_of (by decide), operable_of (by decide), ⟨_, rfl⟩, by decide +kernel⟩

theorem witness_Transactions_served : Turn 0 (servedFor u0.ctx) ∧ Turn 0 (servedFor open3.ctx) ∧ Operable [] [3] (servedFor u0.ctx)
    ∧ (∃ tid, (servedFor u0.ctx).freeTid = some tid) ∧ (servedFor u0.ctx).behalf ≠ (servedFor u0.ctx).ctx.id ∧ (servedFor u0.ctx).served.snap = none
    ∧ (servedFor u0.ctx).served.txn = none ∧ (servedFor u0.ctx).snapRoom = true ∧ (servedFor open3.ctx).behalf ≠ (servedFor open3.ctx).ctx.id
    ∧ (servedFor open3.ctx).served.txn = some aTxn :=
  ⟨turn_of (by decide) rfl, turn_of (by decide) rfl, operable_of (by decide), ⟨_, rfl⟩, by decide +kernel⟩

/-- Both roles of the sequence manager. -/
def roles : State := withCsr (spm u0) fun k => { k with sqrole := 3 }

theorem witness_SequenceRequests : Turn 0 roles ∧ Turn 0 k0 ∧ (∀ p ∈ [([1, 2], [3]), ([1], ([3] : List SReg))], Operable p.1 p.2 roles) ∧ Operable [1, 2] [3] k0
    ∧ roles.ctx.csr.sqrole.getLsbD 0 = true ∧ roles.ctx.csr.sqrole.getLsbD 1 = true
    ∧ (let s := reg (reg roles 1 0x20000) 2 0x4000
      (src [1, 2] s 1).toNat < 2 ^ 15 ∧ (src [1, 2] s 1).toNat / 256 % 128 = 64 ∧ (src [1, 2] s 0).toNat % 32 = 0 ∧ s.inOwnSpm (src [1, 2] s 0) (32 * 64) = true)
    ∧ (let s := reg (reg roles 1 4095) 2 0x20000
      (src [1, 2] s 0).toNat < 4096 ∧ (src [1, 2] s 1).toNat < 2 ^ 60 ∧ (src [1, 2] s 1).toNat % 64 = 0 ∧ s.inOwnSpm (src [1, 2] s 1) 512 = true)
    ∧ (src [1, 2] k0 0) = 0 ∧ (src [1, 2] k0 1) = 0 ∧ (src [1, 2] (reg k0 2 1) 1).toNat < 2 :=
  ⟨turn_of (by decide) rfl, turn_of (by decide) rfl, operables_of (by decide), operable_of (by decide), by decide +kernel⟩

/-- The register set holds for something. -/
def holding (s : State) (w : Wait) : State := s.setRs { s.rs with wait := w }

theorem witness_HeldInstructionsGoOn : (∃ v t, (holding roles (.sq 3 .mask 0 0)).sqRun (sqRequest .mask 0 0) = some (v, t))
    ∧ (holding (sent aStore) (.requests [8])).rs.wait = .requests [8]
    ∧ (∀ q ∈ (holding (sent aStore) (.requests [8])).liveReqs, q.reply = none → q.id ∉ [8]) ∧ (∀ q ∈ (sent aStore).comb, q.id ∉ [8])
    ∧ (∃ q ∈ (holding (sent aStore) (.requests [9])).liveReqs, q.reply = none ∧ q.id ∈ [9])
    ∧ (∀ q ∈ (holding (sent aStore) (.performed 8)).liveReqs, q.id ≠ 8) ∧ 0 ≤ ((joined.ctx.dom 1).phc - 0).toInt
    ∧ (((joined.ctx.dom 1).phc - 1).toInt < 0 ∧ (joined.ctx.dom 1).broken = false) ∧ (holding snapped (.snapx [])).rs.wait = .snapx []
    ∧ (∃ q ∈ (holding (sent aLoad) (.sq 3 .mask 0 0)).liveReqs, q.reply = none)
    ∧ (∀ q ∈ (holding roles (.sq 3 .mask 0 0)).liveReqs, q.reply ≠ none) ∧ roles.comb = [] ∧ SqOp.mask ≠ .accept :=
  ⟨⟨_, _, Option.eq_some_of_isSome (o := (holding roles (.sq 3 .mask 0 0)).sqRun (sqRequest .mask 0 0)) (by decide +kernel)⟩, by decide +kernel⟩

/-- TAPS accepted; a tap handle of one row of 64 f32 elements in h2, the map at 0x20800. -/
def tapping : State :=
  let s := reg (hnd (spm u0) 2 (img 0 0 0x0100000000010040 0x0001000000020000)) 1 0x20800
  { withCsr s fun k => { k with tapgnt := 1 } with host := { s.host with accepted := 2 } }

theorem witness_TapsGeneratorAndEnergy : Turn 0 tapping ∧ (∀ p ∈ [([1, 2], [3]), ([1], []), ([1, 2], []), ([], [3]), ([1], ([3] : List SReg))], Operable p.1 p.2 tapping)
    ∧ tapping.feature featTAPS = true ∧ tapping.ctx.taps.length < 4 ∧ tapTrap 2 (src [1, 2] tapping 0) (src [1, 2] tapping 1) tapping = none
    ∧ tapping.ctx.tapPending ((src [1] tapping 0).setWidth 16) = false ∧ tapping.mode = .u ∧ tapping.live = true ∧ tapping.probes = [] ∧ tapping.sqSlots = [] :=
  ⟨turn_of (by decide) rfl, operables_of (by decide), by decide +kernel⟩

/-- Beats wait at ports v1 and v2, and v3 takes beats. -/
def streams : State :=
  let s := hnd (hnd (hnd u0 1 region) 2 region) 3 region
  port (port (port s 1 { bound false 1 with beats := [7], pos := 1 }) 2 { bound false 2 with beats := [9], pos := 1 }) 3 (bound true 3)

theorem witness_VectorLanes : Turn 0 streams ∧ ReadsAndPushes [1, 2] 3 streams ∧ ReadsAndPushes [1, 1] 31 streams ∧ ReadsAndPushes [32, 63] 31 streams
    ∧ VType.fmt? .i8 = none ∧ VType.fmt? .f32 = some fmtF32 := by
  refine ⟨turn_of (by decide) rfl, ?_, ?_, ?_, rfl, rfl⟩ <;> (unfold ReadsAndPushes Pushes; decide +kernel)

theorem witness_VectorUnary : Turn 0 streams ∧ ReadsAndPushes [1] 3 streams ∧ ReadsAndPushes [] 3 streams
    ∧ (let s := withC streams fun c => { c with rngq := [5] }
      Turn 0 s ∧ ReadsAndPushes [1] 3 s ∧ ReadsAndPushes [] 3 s ∧ s.ctx.bundleRnd = none ∧ s.ctx.rngq = [5]) := by
  refine ⟨turn_of (by decide) rfl, ?_, ?_, turn_of (by decide) rfl, ?_, ?_, rfl, rfl⟩ <;> (unfold ReadsAndPushes Pushes; decide +kernel)

/-- A pattern of 64 rows of one beat each, for a transpose of 32-bit lanes: 64 beats. -/
def wide : State := hnd streams 3 (img 0 0 0x0100000000400040 0x0001000000020000)

theorem witness_Transforms : Turn 0 streams ∧ streams.ctx.xpose = none ∧ ReadsAndPushes [(1 : PortNo).setWidth 6] 31 streams ∧ Pushes 3 streams
    ∧ (2 : BitVec 2) ≠ 3 ∧ Turn 0 wide ∧ ReadsAndPushes [(1 : PortNo).setWidth 6] 31 wide ∧ Pushes 3 wide
    ∧ wide.pushTrap 6 3 (2 * (32 / 2 ^ (0 : BitVec 2).toNat)) = none := by
  refine ⟨turn_of (by decide) rfl, rfl, ?_, ?_, by decide, turn_of (by decide) rfl, ?_, ?_, by decide +kernel⟩ <;>
    (first | unfold ReadsAndPushes Pushes | unfold Pushes) <;> decide +kernel

/-- Handle images in memory at 0x10000 and 0x10400: 64 i32 elements; indices, a weight descriptor with its request, rows for KVCP and LOGF. -/
def memA : Handle := img 0 0 0x0100000000010040 0x0053000000010000
def memB : Handle := img 0 0 0x0100000000010040 0x0053000000010400
def oneIdx : Handle := img 0 0 0x0000000000010001 0x0051000000020000
def oneRow : Handle := img 0 0 0x0000000000010001 0x0051000000020040
def desc : Handle := img 0 0 0x0000000100400001 0x0004000000010000
def request : Handle := img 0 0 0x0000000100000000 0x0008000000000000
def kvDst : Handle := img 0 0 0x0000000000000040 0x0053000000000000
def logits : Handle := img 0 0 0x0000000000010040 0x0003000000010000
def kept : Handle := img 0 0x0000000006400000 0 0x0003000000010400

def copying : State := hnd (hnd (spm u0) 1 memA) 2 memB

theorem witness_CopiesEnter : Turn 0 copying ∧ copying.engineFull .c0 = false
    ∧ (copying.copyHandle memA = true ∧ copying.copyHandle memB = true ∧ ringOk memA = true ∧ ringOk memB = true ∧ cpyIllop memA memB false = false
      ∧ hCount memA = hCount memB ∧ cpyrShape memA memB .maxu = true)
    ∧ (copying.copyHandle oneRow = true ∧ copying.gatherShape oneRow oneRow oneIdx = true)
    ∧ (handleOk region = true ∧ hKind region ∈ [1, 2] ∧ ringOk region = true ∧ (7 : BitVec 3) ≠ copying.position ∧ handleOk ring = true ∧ hKind ring ∈ [1, 2])
    ∧ (handleOk desc = true ∧ handleOk request = true ∧ weightOk desc = true ∧ requestOk desc request = true)
    ∧ (hKind memA ∈ [1, 3] ∧ handleOk kvDst = true ∧ kvcpShape memA kvDst = true)
    ∧ (handleOk logits = true ∧ handleOk kept = true ∧ logfHs logits 64 = true ∧ logfHs logits 1 = true ∧ logfHd logits kept true 6 = true
      ∧ logfHd logits kept false 64 = true)
    ∧ (let s := { copying with jobs := List.replicate 36 ((after copying (.cpy .c0 0 1 2 0 false 0 false false)).jobs.head (by decide +kernel)) }
      s.engineFull .c0 = true)
    ∧ (copying.chan[(7 : BitVec 3).toNat].walking = false ∧ handleOk memA = true ∧ hKind memA = 3 ∧ (hBase memA).toNat % 128 = 0) :=
  ⟨turn_of (by decide) rfl, by decide +kernel⟩

theorem witness_GuardsAndNops : meaningOf (.add 0x20 1 2 3) = some (0x20, meaningAdd 1 2 3) ∧ guardOn 0x20 u0 = false ∧ guardOn 1 u0 = false ∧ Turn 0 u0 :=
  ⟨rfl, by decide +kernel, by decide +kernel, turn_of (by decide) rfl⟩

/-- A result is due, another is not. -/
def flying (due : Nat) (req : Option Nat) (a : Land) : State :=
  withC u0 fun c => { c with rs := { c.rs with tick := 4, flights := [⟨due, 1, 0, req, a⟩, ⟨5, 1, 1, none, .sreg 9 1⟩] } }

theorem witness_ResultsLand : (∀ n ∈ ([0, 7, 50, 51, 52, 53, 54, 60, 61] : List SReg),
      (flying 4 none (.sreg n 5)).rs.flights = [⟨4, 1, 0, none, .sreg n 5⟩, ⟨5, 1, 1, none, .sreg 9 1⟩] ∧ 4 ≤ (flying 4 none (.sreg n 5)).rs.tick)
    ∧ (∀ q ∈ (flying 4 none (.sreg 7 5)).rs.reqs, q.lost = none) ∧ u0.ctx.later = []
    ∧ (∀ x ∈ [(⟨5, 1, 1, none, .sreg 9 1⟩ : Flight)], 4 < x.due) ∧ isPush 60 = false ∧ isPop 60 = true ∧ isPush 61 = true ∧ u0.ctx.msgout.length < 32
    ∧ (∃ f ∈ (flying 4 (some 3) (.sreg 7 5)).rs.flights, f.due ≤ (flying 4 (some 3) (.sreg 7 5)).rs.tick ∧ f.req ≠ none)
    ∧ (∀ f ∈ (flying 5 none (.sreg 7 5)).rs.flights, (flying 5 none (.sreg 7 5)).rs.tick < f.due)
    ∧ (let s := withC (flying 4 (some 9) (.sreg 7 5)) fun c => { c with rs := { c.rs with reqs := [aLoad] } }
      s.mode = .u ∧ s.rs.reqs = [aLoad] ∧ aLoad.lost = none ∧ s.pending = [] ∧ ∃ f ∈ s.rs.flights, f.due ≤ s.rs.tick ∧ f.req = some aLoad.id) := by
  decide +kernel

theorem witness_TickEnds : let s := withC (flying 6 none (.sreg 7 5)) fun c => { c with rs := { c.rs with tick := 3 } }
    (∀ f ∈ s.rs.flights, 3 + 1 < f.due) ∧ s.rs.tick = 3 ∧ s.mode = .u ∧ s.ctx.later = [] := by decide +kernel

/-- The mapped page, and a request with its address found. -/
def mapped (q : Req) : State := page (sent q) 0x10000 0x10000
def found (q : Req) : Req := { q with pa := some ⟨0x10000, false, false, 0⟩ }

theorem witness_RequestsTranslate : (let s := mapped aLoad
      s.mode = .u ∧ s.live = true ∧ s.ctx.rs.reqs = [aLoad] ∧ s.sup.reqs = [] ∧ aLoad.pa = none ∧ s.faulted aLoad = false ∧ aLoad.mode = .u
      ∧ aLoad.lost = none ∧ aLoad.kind = .load false ∧ (s.resolve aLoad).toOption = some ⟨0x10000, false, false, 0⟩)
    ∧ (failure ((sent aLoad).resolve aLoad) = some (.tfault, none) ∧ (Cause.tfault ≠ .mchk) ∧ (sent aLoad).faulted aLoad = false)
    ∧ (let q := { aLoad with kind := .touch }
      failure ((sent q).resolve q) = some (.tfault, none) ∧ (sent q).faulted q = false ∧ q.kind ≠ .grab)
    ∧ (let s := { withC (mapped aLoad) fun c => { c with rs := { c.rs with mid := true } } with poison := [0x10000] }
      failure (s.resolve aLoad) = some (.mchk, some 0x10000) ∧ s.kvBad 0x10000 = false ∧ s.rs.mid = true ∧ s.faulted aLoad = false) := by decide +kernel

theorem witness_RequestsArePerformed : (let q := found aStore
      let s := mapped q
      Safety.memOk s = true ∧ s.mode = .u ∧ s.live = true ∧ s.ctx.rs.reqs = [q] ∧ s.sup.reqs = [] ∧ s.comb = [] ∧ q.reply = none ∧ q.last = 0
      ∧ s.faulted q = false ∧ (0x10000 : Nat) < 0x8000000000 ∧ s.feature featKVC = false ∧ q.kind = .store 5)
    ∧ (let q := found aLoad
      let s := mapped q
      s.faulted q = false ∧ q.kind = .load false ∧ q.ord = .rlx ∧ s.counted = [] ∧ (∀ w ∈ s.l1, w.addr.toNat ≠ 0x10000)
      ∧ ({ s with l1 := [⟨0x10000, 5, false, 0⟩] } : State).l1.find? (·.addr.toNat == 0x10000 / 8 * 8) = some ⟨0x10000, 5, false, 0⟩) := by
  decide +kernel

/-- An atomic, a reduction, and a CAS that expects 0 of the same place. -/
def updating (k : ReqKind) : State := mapped { found aStore with kind := k }

theorem witness_UpdatesArePerformed : (updating (.atomic .maxu 0xFFFFFFFFFFFFFFFF)).faulted { found aStore with kind := .atomic .maxu 0xFFFFFFFFFFFFFFFF } = false
    ∧ (updating (.red .maxu 0xFFFFFFFFFFFFFFFF)).faulted { found aStore with kind := .red .maxu 0xFFFFFFFFFFFFFFFF } = false
    ∧ (updating (.cas 0 2 false)).faulted { found aStore with kind := .cas 0 2 false } = false
    ∧ aStore.bytes ∈ [4, 8] ∧ (0xFFFFFFFFFFFFFFFF : Word).toNat < 256 ^ aStore.bytes ∧ (updating (.cas 0 2 false)).counted = []
    ∧ natOf (Memory.read (updating (.cas 0 2 false)).mem 0x10000 aStore.bytes) = (0 : Word).toNat % 256 ^ aStore.bytes
    ∧ natOf (Memory.read (updating (.cas 1 2 false)).mem 0x10000 aStore.bytes) ≠ (1 : Word).toNat % 256 ^ aStore.bytes
    ∧ (((updating (.cas 0 2 false)).leafIn (updating (.cas 0 2 false)).ctx.csr.atp aStore.va.toNat).map (·.flags.getLsbD 3)) = some true := by decide +kernel

theorem witness_DataArrives : let q := { aLoad with reply := some 5 }
    let s := withC u0 fun c => { c with rs := { c.rs with reqs := [q], flights := [⟨1, 0, 0, some 9, .sreg 3 0⟩] } }
    s.mode = .u ∧ s.live = true ∧ s.ctx.rs.reqs = [q] ∧ s.sup.reqs = [] ∧ q.reply = some 5 ∧ q.lost = none ∧ s.ctx.later = []
      ∧ s.ctx.rs.flights = [⟨1, 0, 0, some q.id, .sreg 3 0⟩] ∧ s.ctx.rs.tick < 1 := by decide +kernel

theorem witness_CachesMailboxesAndQueues : ((∀ l ∈ u0.icache, l.pa.toNat ≠ (0x10020 : BitVec 40).toNat / 32 * 32) ∧ u0.icache.length < 4096)
    ∧ u0.live = true ∧ u0.mode = .u ∧ u0.wctx = u0.ctx.id
    ∧ (let s := withC u0 fun c => { c with later := [.mailbox 7 0x81 5] }
      s.mode = .u ∧ (∀ f ∈ s.ctx.rs.flights, s.ctx.rs.tick < f.due) ∧ s.ctx.later = [.mailbox 7 0x81 5])
    ∧ (262143 + 1 ≤ (spm u0).ctx.spmBanks * 8192) ∧ u0.trap.ctxsel.setWidth 16 = u0.ctx.id ∧ u0.ctx.rngq.length < 32 ∧ u0.ctx.msgin.length < 32
    ∧ 32 ≤ (withC u0 fun c => { c with msgin := List.replicate 32 1 }).ctx.msgin.length
    ∧ (withC u0 fun c => { c with msgout := [0x2000000000000005] }).ctx.msgout = [0x2000000000000005]
    ∧ (0x2000000000000005 : Word).extractLsb' 61 3 ≠ u0.coreNum.setWidth 3
    ∧ (withC u0 fun c => { c with hostq := [1], traceq := [2] }).ctx.hostq = [1] := by decide +kernel

/-- A full instruction cache: 4,096 bundles from 0x100000 on. -/
def fullCache : List ICacheLine := (List.range 4096).map fun i => ⟨BitVec.ofNat 40 (0x100000 + 32 * i), 0⟩

theorem fullCache_length : fullCache.length = 4096 := by rw [fullCache, List.length_map, List.length_range]

theorem fullCache_addresses : ∀ l ∈ fullCache, l.pa.toNat ≠ 0x10020 := by
  intro l m
  obtain ⟨i, hi, rfl⟩ := List.mem_map.mp m
  have := List.mem_range.mp hi
  rw [BitVec.toNat_ofNat, Nat.mod_eq_of_lt (by omega)]
  omega

theorem witness_InstructionCacheFull : (0x10020 : BitVec 40).toNat / 32 * 32 = 0x10020 ∧ fullCache.length = 4096
    ∧ (∀ l ∈ fullCache, l.pa.toNat ≠ 0x10020) ∧ ({ u0 with icache := fullCache } : State).icache = fullCache :=
  ⟨by decide, fullCache_length, fullCache_addresses, rfl⟩

/-- The core has arrived at level 2 of 3 members, or as the last of 1. -/
def arriving (exp : BitVec 32) : State :=
  withC joined fun c => { c with doms := c.doms.set 2 { Dom.reset with exp := exp, own := 1, held := [0] } }

theorem witness_DomainArrivals : (arriving 3).live = true ∧ (2 : BitVec 3) ∈ [0, 1, 2, (3 : BitVec 3)]
    ∧ (arriving 3).ctx.dom 2 = { Dom.reset with exp := 3, own := 1, held := [0] } ∧ (arriving 1).ctx.dom 2 = { Dom.reset with exp := 1, own := 1, held := [0] }
    ∧ (∀ q ∈ (arriving 3).ctx.rs.reqs ++ (arriving 3).sup.reqs, q.reply ≠ none) ∧ (arriving 3).comb = [] ∧ ((arriving 3).ctx.dom 2).arrived + 1 < ((arriving 3).ctx.dom 2).exp.toNat
    ∧ ((arriving 1).ctx.dom 2).arrived + 1 = ((arriving 1).ctx.dom 2).exp.toNat := by decide +kernel

/-- A boundary cause waits, with one of each other class behind it. -/
def waiting : Trap := { cause := .align, kind := .boundary, slot := 0, tbaddr := 0x40, ttick := 3, tval := 5 }

theorem witness_PendingTrapsAreTaken : (let s := { u0 with pending := [waiting] }
      s.live = true ∧ s.mode = .u ∧ s.trap.skipBreak = false ∧ s.ctx.rs.wait = .none ∧ s.pending = [waiting] ∧ waiting.tepc = none ∧ waiting.kind = .boundary)
    ∧ (let x : Trap := { waiting with cause := .probehalt }
      x.tepc = none ∧ ∀ f ∈ (flying 5 none (.sreg 7 5)).ctx.rs.flights, (flying 5 none (.sreg 7 5)).ctx.rs.tick < f.due)
    ∧ firstTrap [{ cause := .busmiss, kind := .imprecise }, { waiting with ttick := 4 }, waiting, { cause := .copyfault, kind := .asynchronous }] = some waiting
    ∧ firstTrap [waiting, { cause := .mchk, kind := .imprecise }] = some { cause := .mchk, kind := .imprecise } := by decide +kernel

/-- The core's point, floor and tokens. -/
def atPoint (point floor : BitVec 3) (f : Power → Power := id) : State := { u0 with power := f { u0.power with point := point, floor := floor } }

/-- Tokens of every point of the table: the ceiling is 7. -/
def rich (p : Power) : Power := { p with pbgnt := 0xFFFFFFFF, held := 0xFFFFFFFF, group := 0xFFFFFFFF }

theorem witness_OperatingPointRequests : (let s := { u0 with power := { u0.power with settling := true, rem := 1 } }
      s.power.settling = true)
    ∧ (atPoint 1 1 rich).power.settling = false ∧ (atPoint 1 1 rich).ctx.csr.oppctl.getLsbD 0 = false
    ∧ ((7 : BitVec 3) ≠ (atPoint 1 1 rich).power.point ∧ (atPoint 1 1 rich).power.floor ≤ 7 ∧ 7 ≤ (atPoint 1 1 rich).ceiling)
    ∧ (∀ f ∈ [0, (1 : BitVec 3)], (atPoint 2 f (fun p => { rich p with notices := [(1, 3)] })).power.floor ≤ 5
      ∧ (atPoint 2 f (fun p => { rich p with notices := [(1, 3)] })).limit = 3)
    ∧ (atPoint 2 6 (fun p => { rich p with notices := [(1, 3)] })).limit = 6 ∧ (atPoint 3 0 (fun p => { rich p with notices := [(1, 3)] })).limit = 3
    ∧ ((0 : BitVec 3) < (atPoint 2 1 rich).power.floor ∧ 0 ≠ (atPoint 2 1 rich).power.point)
    ∧ (atPoint 0 0).power.reach ≤ (atPoint 0 0).limit ∧ (atPoint 5 1 fun p => { p with notices := [(1, 3)] }).limit < 5 := by decide +kernel

theorem witness_PowerController : (let s := { u0 with power := { u0.power with settling := true, rem := 1, tgt := 3 } }
      s.settlingHold = true ∧ s.power.droop = false)
    ∧ ({ u0 with live := false } : State).live = false ∧ u0.power.stage < 3 ∧ ((1 : BitVec 2).toNat + 1 = ({ u0.power with stage := 2 } : Power).stage.toNat)
    ∧ ((atPoint 7 0 rich).power.notices = [] ∧ (atPoint 7 0 rich).power.floor ≤ 0 ∧ 7 ≤ (atPoint 7 0 rich).ceiling)
    ∧ (let s := atPoint 4 1 fun p => { rich p with settling := true, rem := 9, tgt := 6, granted := 6 }
      s.power.notices = [] ∧ s.power.floor ≤ 4 ∧ 4 ≤ s.ceiling ∧ 4 ≤ s.power.point ∧ s.power.settling = true ∧ 4 < s.power.tgt)
    ∧ (let s := atPoint 1 0 fun p => { rich p with notices := [(4, 1)], earlier := some 7 }
      s.power.notices = [(4, 1)] ∧ s.power.earlier = some 7 ∧ 7 ≤ ({ s with power := { s.power with notices := [] } } : State).limit ∧ s.power.floor ≤ 7)
    ∧ ((atPoint 6 0 rich).power.point < 7 ∧ 7 ≤ (atPoint 6 0 rich).ceiling)
    ∧ (let s := atPoint 1 1 fun p => { rich p with notices := [(0, 3)] }
      s.power.point < 5 ∧ s.ceiling < 5 ∧ s.power.floor < 5 ∧ s.power.slowdown = false)
    ∧ (1 ≤ (atPoint 2 1).power.floor ∧ 1 ≤ (atPoint 2 1).power.point ∧ (atPoint 2 1).power.settling = false)
    ∧ (5 : BitVec 32) ≤ (atPoint 0 0 rich).power.held ∧ (atPoint 0 0).power.held < 1
    ∧ (atPoint 0 0).power.held.toNat + (9 : BitVec 32).toNat ≤ (atPoint 0 0 fun p => { p with group := 9 }).power.group.toNat
    ∧ (let s := withC u0 fun c => { c with estimate := 8 }
      s.live = true ∧ s.parked = [] ∧ 0 < s.ctx.estimate ∧ s.ctx.debit = 0 ∧ s.ctx.estimate ≤ 8 ∧ 7 < s.ctx.estimate) := by decide +kernel

/-- The host's registers changed. -/
def host (f : HostIf → HostIf) : State := { u0 with host := f u0.host }

theorem witness_BringUpAndHost : State.reset.host.devst = 0 ∧ (after State.reset .powerOn).host.devst = 1
    ∧ ((host fun h => { h with devst := 2, stg := 10, vpool := 32 }).host.devst = 2 ∧ (1 : Word).getLsbD 0 = true)
    ∧ 10 < (host fun h => { h with devst := 2, stg := 11 }).host.stg.toNat ∧ 32 < (host fun h => { h with devst := 2, vpool := 33 }).host.vpool.toNat
    ∧ (host fun h => { h with attestReq := true }).host.attestReq = true ∧ (host fun h => { h with devst := 4 }).host.devst = 4
    ∧ u0.host.devst ≠ 4 ∧ u0.host.frozen = false ∧ (host fun h => { h with frozen := true }).host.frozen = true := by decide +kernel

/-- KV pages: the first page of stack 0 at 0x100000, its header at 0x200000, asked to be sealed. -/
def kv : State := { host (fun h => { h with accepted := 1 }) with
  bde := u0.bde.set 0 { kvwb := 0x100000, kvwn := 1, kvhb := 0x200000, kverr := 0 }, mem := [(0x200028, 1)] }

theorem witness_WindowPortsAndErrors : Safety.memOk u0 = true
    ∧ ((0xFFFFFFFF8 : BitVec 36).toNat % sizeBytes .d = 0 ∧ u0.host.apbase.toNat * 2 ^ 36 + (0xFFFFFFFF8 : BitVec 36).toNat < 0x8000000000
      ∧ u0.feature featKVC = false ∧ u0.counted = [] ∧ u0.poison = []
      ∧ u0.fwHeld (u0.host.apbase.toNat * 2 ^ 36 + (0xFFFFFFFF8 : BitVec 36).toNat) (sizeBytes .d) = false)
    ∧ ({ u0 with ptbase := 0x40000 } : State).fwHeld (u0.host.apbase.toNat * 2 ^ 36 + 0x40000) 8 = true
    ∧ (7 : BitVec 8) ≠ u0.coreNum
    ∧ (u0.peers[(15 : BitVec 4).toNat].up = true ∧ u0.peers[(15 : BitVec 4).toNat].replays ≤ 8)
    ∧ (let s := { u0 with peers := u0.peers.set 15 ⟨15, true, 3, 9⟩ }
      s.peers[(15 : BitVec 4).toNat].up = true ∧ 2 < s.peers[(15 : BitVec 4).toNat].number ∧ 8 < s.peers[(15 : BitVec 4).toNat].replays)
    ∧ ({ u0 with peers := u0.peers.set 0 ⟨0, false, 3, 9⟩ } : State).peers[(0 : BitVec 4).toNat].up = false
    ∧ u0.scrub[(0x7000000000 : BitVec 40).toNat / 2 ^ 36].pointer = (0x7000000000 : BitVec 40).setWidth 36
    ∧ ({ u0 with poison := [0x7000000000] } : State).poisoned 0x7000000000 128 = true ∧ u0.poisoned 0x7000000000 128 = false
    ∧ (Safety.memOk kv = true ∧ kv.kvPageHeader 0x100000 = some (0x200000, 0) ∧ (Memory.get kv.mem (0x200000 + 40)).getLsbD 0 = true) := by decide +kernel

/-- A port at v3, its handle a memory-like region of one beat in the page at 0x10000. -/
def reading (wr : Bool) : State :=
  port (hnd (page u0 0x10000 0x10000) 5 (img 0 0 0x0000000000010040 0x0001000000010000)) 3 (bound wr 5)
def writing : State := port (reading true) 3 { bound true 5 with beats := [7], pos := 1, pushers := [(1, 0x40, 2)] }

/-- The two lines of 256 bytes at 0x10000. -/
def lines2 : List (Pa × Nat) := [(⟨0x10000, false, false, 0⟩, 128), (⟨0x10080, false, false, 0⟩, 128)]

theorem witness_PortsFetchAndWrite : Safety.memOk (reading false) = true ∧ (reading false).fetchReady (reading false).ctx.ports[(3 : PortNo).toNat] = true
    ∧ (reading false).portAddr (reading false).ctx.ports[(3 : PortNo).toNat] 0 = some (0x10000, 256)
    ∧ ((reading false).span 0 .u .read 0x10000 256).toOption = some lines2 ∧ Laid (reading false) 0x10000 0x10000 256 lines2
    ∧ hFE ((reading false).portH (reading false).ctx.ports[(3 : PortNo).toNat]) = false
    ∧ (failure (({ reading false with tlb := [] } : State).span 0 .u .read 0x10000 256)).isSome = true
    ∧ (reading true).fetchReady (reading true).ctx.ports[(3 : PortNo).toNat] = false
    ∧ (let q := writing.ctx.ports[(3 : PortNo).toNat]
      q.beats = [7] ∧ q.pushers = [(1, 0x40, 2)] ∧ q.bound = true ∧ q.wr = true ∧ q.fault = none ∧ writing.portAddr q 0 = some (0x10000, 256)
      ∧ hRing (writing.portH q) = false)
    ∧ (writing.span 0 .u .write 0x10000 256).toOption = some lines2 ∧ Laid writing 0x10000 0x10000 256 lines2 := by
  unfold Laid; decide +kernel

/-- A copy of 64 i32 elements from 0x10000 to 0x10400 that has begun. -/
def aJob : Job :=
  { id := 5, op := .cpy 0 false false, slot := .c0, ctx := 0, atp := 0, sup := false, bundle := 0, src := memA, dst := memB, idx := 0, named := [], hs := none,
    hd := none, ctr := 7, cfg := 0, inc := 1, ar := false, before := 0, view := none, chain := none, nch := 1, done := [], path := [], acc := 0, ready := true,
    fail := none, failed := [], addPending := false, orphan := false }

/-- With jobs under way, the page of 0x10000 mapped. -/
def working (js : List Job) : State := { page u0 0x10000 0x10000 with jobs := js, mem := [(0x10000, 9)] }

def dst2 : List (Pa × Nat) := [(⟨0x10400, false, false, 0⟩, 128), (⟨0x10480, false, false, 0⟩, 128)]

theorem witness_CopyChunksMove : (let s := working [aJob]
      Safety.memOk s = true ∧ s.findJob 5 = some aJob ∧ s.started aJob = true ∧ s.gateOpen aJob = true ∧ aJob.mayRun 0 = true ∧ aJob.ready = true
      ∧ s.ctx.boost = [] ∧ aJob.fail = none
      ∧ hEtypeBits memA = hEtypeBits memB ∧ hFE memA = false ∧ hKind memA ≠ 7 ∧ hKind memB ≠ 7 ∧ hElemBits memB = 32
      ∧ mergeRuns 32 ((chunkElems 0 (hCount memB) 32).map fun e => posOf (walkElem memA (srcBase memA) e) e) = [⟨0x10000, 0, 2048, List.range 64⟩]
      ∧ mergeRuns 32 ((chunkElems 0 (hCount memB) 32).map fun e => posOf (walkElem memB (dstBase memB) e) e) = [⟨0x10400, 0, 2048, List.range 64⟩]
      ∧ (s.span 0 .u .write 0x10400 256).toOption = some dst2 ∧ Laid s 0x10400 0x10400 256 dst2
      ∧ (s.span 0 .u .read 0x10000 256).toOption = some lines2 ∧ Laid s 0x10000 0x10000 256 lines2)
    ∧ (let s := working [{ aJob with src := img 0 0 0x0100000000010040 0x0053000000030000 }]
      failure (s.span 0 .u .read 0x30000 256) = some ⟨.tfault, 0x30000⟩ ∧ Cause.tfault ≠ .mchk) := by
  unfold Laid; decide +kernel

def doneJob : Job := { aJob with done := [0] }
def failedJob : Job := { aJob with fail := some ⟨.tfault, 0x10000, 0, 0, 1⟩, failed := [0] }

theorem witness_CopiesEnd : (let s := working [aJob]
      s.findJob 5 = some aJob ∧ s.live = true ∧ aJob.ctx = s.ctx.id ∧ aJob.op = .cpy 0 false false ∧ hRing memA = false ∧ s.jobDone aJob = false ∧ s.ctx.boost = []
      ∧ s.ctx.later = [] ∧ s.mode = .u)
    ∧ (let s := working [doneJob]
      s.findJob 5 = some doneJob ∧ s.jobDone doneJob = true ∧ s.gateOpen doneJob = true ∧ hRing memB = false ∧ doneJob.cfg.getLsbD 63 = false)
    ∧ (let j := { doneJob with cfg := 0x8000000000010000 }
      (working [j]).jobDone j = true ∧ j.cfg.getLsbD 63 = true ∧ j.inc ≠ 0 ∧ ((working [j]).translate 0 .u .atomic true 0x10000 8).toOption = some ⟨0x10000, false, false, 0⟩
      ∧ Plain (working [j]) ⟨0x10000, false, false, 0⟩)
    ∧ (let s := working [failedJob]
      s.findJob 5 = some failedJob ∧ failedJob.addPending = false ∧ (∀ c < 1, c ∈ failedJob.done ∨ c ∈ failedJob.failed) ∧ s.frec.valid = false ∧ s.frec.job ≠ some 5)
    ∧ (let s := { working [failedJob] with frec := { FaultRec.empty with valid := true, job := some 5 } }
      s.findJob 5 = some failedJob ∧ s.frec.valid = true ∧ s.frec.job = some 5) := by
  unfold Plain; decide +kernel

/-- Channel 7 walks from 0x10080; the record there is a CPY of one element from 0x10000 to 0x10400, next none. -/
def chained (own : Bool) : State :=
  let one : BitVec 256 := 0x0053000000010000 ||| (1 <<< 64)
  let r : BitVec 1024 := (if own then 0x8800000000000100 else 0) ||| (one.setWidth 1024 <<< 128) ||| ((one ||| 0x400).setWidth 1024 <<< 384)
  { working [] with mem := Memory.setNum [] 0x10080 128 r.toNat, chan := u0.chan.set 7 { Chain.idle with walking := true, next := 0x10080 } }

theorem witness_ChainsWalk : u0.chan[(0 : BitVec 3).toNat].walking = false
    ∧ (let s := chained true
      s.chan[(7 : BitVec 3).toNat].walking = true ∧ s.jobs = [] ∧ s.chan[(7 : BitVec 3).toNat].next ≠ 0
      ∧ (s.span 0 .u .read 0x10080 128).toOption = some [(⟨0x10080, false, false, 0⟩, 128)] ∧ Plain s ⟨0x10080, false, false, 0⟩
      ∧ (BitVec.ofNat 1024 (Memory.num s.mem 0x10080 128)).getLsbD 63 = true
      ∧ (s.recordJob 7 s.chan[(7 : BitVec 3).toNat] (BitVec.ofNat 1024 (Memory.num s.mem 0x10080 128))).isSome = true)
    ∧ (BitVec.ofNat 1024 (Memory.num (chained false).mem 0x10080 128)).getLsbD 63 = false
    ∧ ((chained true).recordJob 7 (chained true).chan[(7 : BitVec 3).toNat] (1 <<< 63)).isNone = true
    ∧ ({ working [] with chan := u0.chan.set 7 { Chain.idle with walking := true } } : State).chan[(7 : BitVec 3).toNat].next = 0 := by
  unfold Plain; decide +kernel

/-- A WSTR of one block for this core: its source page is not writable. -/
def weightJob : Job :=
  { aJob with op := .wstr true 1, src := img 0 0x0000000005000000 0x0000000100400001 0x0004000000010000, dst := request, acc := 1 }
def weights (js : List Job) : State := { working js with tlb := [⟨0, 0x10000, 16, 0x10000, 0x35, 0⟩], mem := [] }

theorem witness_WeightsEnter : (let s := weights [weightJob]
      s.jobs = [weightJob] ∧ s.started weightJob = true ∧ weightJob.fail = none ∧ weightJob.ready = true ∧ s.live = true
      ∧ s.ctx.dead = false ∧ weightJob.acc = s.ctx.id.toNat + 1 ∧ weightJob.done.length < weightJob.nch ∧ (s.ctx.wb true).length < 4
      ∧ (s.weightUnit weightJob 1 (hDim0 request) (hDim1 request + 0)).toOption.isSome = true)
    ∧ (let w : WstrIn := ⟨0, desc, request, 0, false, none, false, 1⟩
      (weights [weightJob]).ctx.kernel = w.kernel ∧ handleOk w.src = true ∧ weightOk w.src = true ∧ handleOk w.req = true ∧ requestOk w.src w.req = true)
    ∧ 4 ≤ (withC (weights [weightJob]) fun c => { c with wb1 := List.replicate 4 ⟨1, 0, 0, 0, 0, 0⟩ }).ctx.wb1.length := by decide +kernel

/-- A BLAT for driver 3, armed; a BDRV of one beat. -/
def latchJob : Job := { aJob with op := .blat 3, src := 0, dst := img 0 0 0x0100000000020040 0x0003000000010000, nch := 2 }
def driveJob : Job := { aJob with op := .bdrv 2, src := memA, dst := 0 }

theorem witness_BusSlots : (let s := { working [latchJob] with latches := [⟨5, 3, 0⟩] }
      Safety.memOk s = true ∧ s.live = true ∧ (3 : BitVec 3) ≠ s.position ∧ s.busMissed.getLsbD 3 = false ∧ s.jobs = [latchJob] ∧ hRing latchJob.dst = false
      ∧ latchJob.done.length + 1 < latchJob.nch ∧ 0 + 1 < latchJob.nch ∧ s.ctx.boost = [] ∧ beatOffset latchJob.dst 0 = (0, 256)
      ∧ (s.span 0 .u .write 0x10000 256).toOption = some lines2 ∧ Laid s 0x10000 0x10000 256 lines2)
    ∧ ((working []).latches = [] ∧ (working []).busMissed.getLsbD 3 = false)
    ∧ ({ driveJob with ready := false }.ready = false ∧ (2 : BitVec 8) &&& (1 : Beat).setWidth 8 ≠ 2)
    ∧ (let s := working [driveJob]
      0 = s.position ∧ s.jobs = [driveJob] ∧ (2 : BitVec 8) ≠ 0 ∧ s.started driveJob = true ∧ s.gateOpen driveJob = true ∧ driveJob.fail = none
      ∧ driveJob.ready = true ∧ driveJob.done.length < driveJob.nch ∧ hRing memA = false ∧ hFE memA = false ∧ beatOffset memA 0 = (0, 256)
      ∧ (s.span 0 .u .read 0x10000 256).toOption = some lines2 ∧ Laid s 0x10000 0x10000 256 lines2) := by
  unfold Laid; decide +kernel

/-- Parameters of one row of two columns, drained through h5. -/
def params : Vector Word 8 := ((Vector.replicate 8 0).set 4 0x0201).set 5 5
def aCall (ignv : Bool) : CallEntry := .call 0 9 2 false true ignv params [] none 0x40 3 0
/-- A routine of one word: op 7 (clear), END. -/
def routine (w : BitVec 64) (calls : List CallEntry) (run : Option Running) : State :=
  withC matrix fun c => { c with microTable := (List.replicate 256 0).set 0 0x1000, microWords := [w], calls := calls, running := run }
def clearWord : BitVec 64 := 0x7000000000400000
def run1 (stage : WordStage) (drains : List Drain) (ended : Bool) : Running := ⟨aCall false, Vector.replicate 8 0, 0, stage, drains, ended⟩
def oneDrain : Drain := ⟨0, 0, 0, 0⟩

theorem witness_CallsStartAndEnd : (let s := routine clearWord [aCall false] none
      s.ctx.running = none ∧ s.ctx.calls = [aCall false] ∧ s.ctx.region 2 = some ⟨[0, 1], 9⟩ ∧ s.ctx.routineLen 0 ≠ 0 ∧ (8 : BitVec 8) ≠ 9)
    ∧ (routine clearWord [] none).ctx.region 3 = none
    ∧ (let s := routine clearWord [.mask 0x20000 6 0 0] none
      (s.mxSpan .read 0x20000 512).toOption = some [(⟨0xFE00000000, false, false, 0⟩, 128), (⟨0xFE00000080, false, false, 0⟩, 128),
        (⟨0xFE00000100, false, false, 0⟩, 128), (⟨0xFE00000180, false, false, 0⟩, 128)]
      ∧ s.counted = [] ∧ (6 : Word).getLsbD 9 = false ∧ (6 : Word).toNat / 2 % 8 = 3
      ∧ (s.readPieces none [(⟨0xFE00000000, false, false, 0⟩, 128), (⟨0xFE00000080, false, false, 0⟩, 128),
        (⟨0xFE00000100, false, false, 0⟩, 128), (⟨0xFE00000180, false, false, 0⟩, 128)]).1.length = 512)
    ∧ (let r := run1 .waiting [] true
      (routine clearWord [] (some r)).ctx.running = some r ∧ r.ended = true ∧ (routine clearWord [] (some r)).ctx.region 2 = some ⟨[0, 1], 9⟩ ∧ r.drains = [])
    ∧ (run1 .waiting [oneDrain] true).drains ≠ [] := by decide +kernel

/-- Whether a look lets a word go with `n` blocks, or wait. -/
def goes : WordLook → Option Nat
  | .go n => some n
  | _ => none
theorem go_of {l : WordLook} {n : Nat} (h : goes l = some n) : l = .go n := by
  cases l with
  | go m => cases h; rfl
  | _ => cases h

theorem witness_MatrixWords : (let r := run1 .waiting [] false
      let s := routine clearWord [] (some r)
      Safety.memOk s = true ∧ s.power.droop = false ∧ s.ctx.microWord r.entry.routineNo r.off = clearWord ∧ s.ctx.running = some r ∧ goes (s.wordLook r clearWord) = some 0
      ∧ mwOp clearWord ≠ 6 ∧ s.ctx.region r.entry.regionNo = some ⟨[0, 1], 9⟩ ∧ [0, 1].Nodup)
    ∧ (∃ b, (routine clearWord [] (some (run1 .waiting [] false))).wordBlocks params clearWord 0 0
        = .ok (b, routine clearWord [] (some (run1 .waiting [] false))))
    ∧ (let r := run1 .waiting [oneDrain] false
      match (routine clearWord [] (some r)).wordLook r clearWord with | .wait => True | _ => False)
    ∧ (mwLoop clearWord = 0 ∧ mwPopA clearWord = false ∧ mwPopB clearWord = false ∧ mwBump clearWord = false ∧ mwEnd clearWord = true)
    ∧ (mwEnd 0x7000000000000000 = false ∧ mwNext 0x7000000000000000 < (routine 0x7000000000000000 [] none).ctx.routineLen 0) :=
  ⟨by decide +kernel, ⟨_, rfl⟩, trivial, by decide +kernel, by decide +kernel⟩

/-- A drain of one row of two f32 elements to 0x10000. -/
def draining : State := hnd (page (routine clearWord [] (some (run1 .waiting [oneDrain] true))) 0x10000 0x10000) 5 (img 0 0 0x40 0x0003000000010000)

theorem witness_DrainsStore : Safety.memOk draining = true ∧ draining.power.droop = false
    ∧ (draining.writeLost [(⟨0x10000, false, false, 0⟩, 8)] = none ∧ ({ draining with poison := [0x10000] } : State).writeLost [(⟨0x10000, false, false, 0⟩, 8)] = some 0x10000)
    ∧ (({ draining with poison := [0x10000] } : State).mxSpan .write 0x10000 (2 * 4)).toOption = some [(⟨0x10000, false, false, 0⟩, 8)] ∧ draining.live = true ∧ draining.parked = []
    ∧ draining.ctx.running = some (run1 .waiting [oneDrain] true) ∧ hregOf params[5] = 5 ∧ drainType (draining.ctx.rs.h[5]) = some (.f32, 4)
    ∧ handleOk (draining.ctx.rs.h[5]) = true ∧ hKind (draining.ctx.rs.h[5]) = 3 ∧ mCols params = 2 ∧ mCols params ≤ hDim0 (draining.ctx.rs.h[5])
    ∧ mRows params = 1 ∧ mClr params = false ∧ draining.ctx.region 2 = some ⟨[0, 1], 9⟩
    ∧ (draining.mxSpan .write 0x10000 (2 * 4)).toOption = some [(⟨0x10000, false, false, 0⟩, 8)] ∧ Laid draining 0x10000 0x10000 (2 * 4) [(⟨0x10000, false, false, 0⟩, 8)] := by
  unfold Laid; decide +kernel

/-- The line at 0x10000, homed at slice 2, with a tentative entry of TID 3. -/
def entries (others : List VEntry) : List VEntry := ⟨0, 3, .tentative, 7, false⟩ :: others
def committing (es : List VEntry) (c : Commit) : State :=
  { withC u0 (fun x => { x with txn := some aTxn, commit := some c }) with chains := [⟨0x10000, es⟩] }
def aCommit (v f : List Nat) (abort : Bool) : Commit := ⟨5, v, f, abort⟩

theorem witness_CommitsValidateAndFinalise : (let s := committing (entries []) (aCommit [0] [0] false)
      Safety.memOk s = true ∧ s.live = true ∧ s.ctx.txn = some aTxn ∧ s.ctx.commit = some (aCommit [0] [0] false) ∧ s.linesOf 3 0 = [0x10000]
      ∧ (0 : BitVec 7).toNat ∈ (aCommit [0] [0] false).toValidate ∧ voteLine 3 0 5 (s.lineEntries 0x10000) = .lock)
    ∧ voteLine 3 0 5 ((committing (entries [⟨1, 0, .committed, 0, false⟩]) (aCommit [0] [0] false)).lineEntries 0x10000) = .abort
    ∧ (committing (entries []) (aCommit [0] [0] false)).foreignCommits = []
    ∧ voteLine 3 0 5 ((committing (entries [⟨4, 2, .locked, 0, false⟩]) (aCommit [0] [0] false)).lineEntries 0x10000) = .wait
    ∧ voteLine 3 0 5 ((committing (entries [⟨6, 2, .locked, 0, false⟩]) (aCommit [0] [0] false)).lineEntries 0x10000) = .abort
    ∧ (let s := committing (entries [⟨4, 0, .committed, 0, false⟩]) (aCommit [] [0] false)
      s.linesOf 3 0 = [0x10000] ∧ entryOf 3 (s.lineEntries 0x10000) = some ⟨0, 3, .tentative, 7, false⟩
      ∧ newestUpTo none (s.lineEntries 0x10000) = some ⟨4, 0, .committed, 0, false⟩ ∧ 4 < (aCommit [] [0] false).stamp)
    ∧ (aCommit [] [0] true).abort = true := by decide +kernel

theorem witness_VersionsAreReclaimed : (open3.live = true ∧ open3.ctx.txn = some aTxn ∧ open3.ctx.commit = none)
    ∧ (let s := { u0 with foreignTxns := [⟨7, 0, false⟩] }
      s.foreignTxns = [⟨7, 0, false⟩] ∧ s.foreignCommits = [] ∧ ∀ c ∈ s.contexts, c.txn = none)
    ∧ (committing (entries []) (aCommit [0] [0] false)).chains = [⟨0x10000, entries []⟩] := by decide +kernel

/-- The ring of TEVR in the page of 0x10000: 2^1 entries, the head at 0 and the tail at `t`. -/
def tevr (tail : Byte) : State :=
  { page u0 0x10000 0x10000 with tevr := 0x0001000000010000, tevrWait := [5], mem := if tail = 0 then [] else [(0x10008, tail)] }
def crossing : Crossing := { slot := 0x1FFF, node := 1, pos := 0, set := 2, probe := 3, action := 1, layer := 4, ctx := 0 }
def evicting (st : Nat) : State := { page u0 0x10000 0x10000 with evicted := [(0x20000, st)], pageStack := some (0x10000, 0) }

theorem witness_SequenceManagerSteps : Safety.memOk (tevr 1) = true
    ∧ (∃ v t, (evicting 0).sqRun (sqMove 4) = some (v, t)) ∧ u0.sqSlot 4 = none
    ∧ ((evicting 1).evicted = [(0x20000, 1)] ∧ (evicting 1).pageStack = some (0x10000, 0) ∧ (evicting 1).lwm < 1 ∧ 0 ≤ (evicting 0).lwm)
    ∧ (∃ t, ({ evicting 0 with evicted := [] } : State).sqRun (sqReturnPage 0x10000 0 0x20000) = some (0, t))
    ∧ (({ u0 with sqEvents := [(0, 6)] } : State).sqEvents = (u0.ctx.id, 6) :: [] ∧ u0.ctx.sqevq.length < 32
      ∧ 32 ≤ (withC u0 fun c => { c with sqevq := List.replicate 32 1 }).ctx.sqevq.length)
    ∧ crossing.slot = 0x1FFF ∧ u0.tevrWait = [] ∧ ({ tevr 0 with tevr := 0 } : State).tevr.extractLsb' 0 48 = 0
    ∧ ({ tevr 0 with sqEvents := [(0, 0x2005)] } : State).eventWaits 5 = true
    ∧ ((tevr 1).tevrWait = [5] ∧ (tevr 1).chains = [] ∧ (tevr 1).eventWaits 5 = false ∧ Plain (tevr 1) ⟨0x10000, false, false, 0⟩ ∧ Plain (tevr 1) ⟨0x10008, false, false, 0⟩
      ∧ Plain (tevr 1) ⟨0x10060, false, false, 0⟩ ∧ 2 ^ ((tevr 1).tevr.extractLsb' 48 5).toNat = 2
      ∧ (Memory.num (tevr 1).mem 0x10008 8 + 2 ^ 64 - Memory.num (tevr 1).mem 0x10000 8) % 2 ^ 64 = 1
      ∧ (Memory.num (tevr 2).mem 0x10008 8 + 2 ^ 64 - Memory.num (tevr 2).mem 0x10000 8) % 2 ^ 64 = 2) := by
  refine ⟨by decide +kernel, ?_, by decide +kernel, by decide +kernel, ?_, by decide +kernel, by decide +kernel, by decide +kernel, by decide +kernel, ?_⟩
  · exact ⟨_, _, Option.eq_some_of_isSome (o := (evicting 0).sqRun (sqMove 4)) (by decide +kernel)⟩
  · have h : (({ evicting 0 with evicted := [] } : State).sqRun (sqReturnPage 0x10000 0 0x20000)).map (·.1) = some 0 := by decide +kernel
    obtain ⟨⟨v, t⟩, e, rfl⟩ := Option.map_eq_some_iff.mp h
    exact ⟨t, e⟩
  · unfold Plain; decide +kernel

/-- An aligned piece within a line of the mapped page is one piece, whatever stands in memory. -/
theorem ring_piece {u : State} (h : { u with
      mem := (tevr 1).mem, l1 := (tevr 1).l1, asleep := (tevr 1).asleep, tevrWait := (tevr 1).tevrWait, vsuLast := (tevr 1).vsuLast } = tevr 1) (acc : Acc) (ha : acc ≠ .exec) (va : Word) (n : Nat)
    (hv : (va, n) ∈ [((0x10000 : Word), 8), (0x10008, 8), (0x10060, 32)]) :
    u.span 0 .s acc va n = .ok [(⟨va.setWidth 40, false, false, 0⟩, n)] := by
  have h1 : u.tlb = (tevr 1).tlb := by have e := congrArg State.tlb h; exact e
  have h2 : u.host = (tevr 1).host := by have e := congrArg State.host h; exact e
  have h3 : u.ptbase = (tevr 1).ptbase := by have e := congrArg State.ptbase h; exact e
  have h4 : u.ptlog = (tevr 1).ptlog := by have e := congrArg State.ptlog h; exact e
  have h5 : u.probes = (tevr 1).probes := by have e := congrArg State.probes h; exact e
  have h6 : u.poison = (tevr 1).poison := by have e := congrArg State.poison h; exact e
  have h7 : u.bde = (tevr 1).bde := by have e := congrArg State.bde h; exact e
  have h8 : u.encTags = (tevr 1).encTags := by have e := congrArg State.encTags h; exact e
  have hit : ∀ x : Nat, x / 2 ^ 16 = 1 → u.tlbHit 0#16 x = some ⟨0, 0x10000, 16, 0x10000, 0x03D, 0⟩ := by
    intro x hx
    have hx' : 1 = x / 65536 := by omega
    simp [State.tlbHit, TlbEntry.covers, h1, tevr, page, u0, State.reset, ← hx']
  have fw : ∀ pa k, u.fwHeld pa k = false := by
    intro pa k
    simp [State.fwHeld, h3, h4, h5, tevr, page, u0, State.reset]
  have page' : ∀ pa, u.kvHeaderPage pa = none ∧ u.kvPageHeader pa = none := by
    intro pa
    have b : ∀ st, (u.bdeOf st).kvwn = 0 := by
      intro st
      rw [State.bdeOf, h7]
      by_cases z : st < 8
      · exact (show ∀ x : Fin 8, ((tevr 1).bde.toList.getD x.val ⟨0, 0, 0, 0⟩).kvwn = 0 by decide +kernel) ⟨st, z⟩
      · rw [List.getD_eq_getElem?_getD, List.getElem?_eq_none (by simpa using z)]; rfl
    constructor <;> simp [State.kvPageHeader, State.kvHeaderPage, b]
  have kv : ∀ pa, u.kvBad pa = false := by intro pa; simp [State.kvBad, page']
  have cell : ∀ pa, u.kvCell pa = false := by intro pa; simp [State.kvCell, page']
  have line : ∀ pa, u.kvLine pa = false := by intro pa; simp [State.kvLine, cell]
  have lost : ∀ a pa k, u.readLost a pa k = false := by
    intro a pa k
    simp [State.readLost, State.lostAt, State.poisoned, h6, kv, tevr, page, u0, State.reset]
  have enc : ∀ pa, u.encLost 0#4 pa = false := by
    intro pa
    simp [State.encLost, State.encOf, h8, tevr, page, u0, State.reset]
  have pl : ∀ x : Nat, x < 0x8000000000 → placeOf x = .hbm := by intro x hx; simp [placeOf, hx]
  simp only [List.mem_cons, Prod.mk.injEq, List.not_mem_nil, or_false] at hv
  rcases hv with ⟨rfl, rfl⟩ | ⟨rfl, rfl⟩ | ⟨rfl, rfl⟩ <;>
    (simp only [State.span, piecesOf, linePieces, State.spanGo, State.translate]
     cases acc <;> first | exact absurd rfl ha | skip) <;>
    simp [linePieces, State.spanGo, State.translate, State.tableLost, State.leafIn, hit, permOk, State.checkPlace, State.placeFail, State.paOf, fw, lost,
      cell, line, enc, pl, State.viewOk, Leaf.addr, canonPa]

/-! ### Parts of the SQM's transactions -/

/-- A part that runs: its value and the state it leaves. -/
theorem runs_of {α : Type} {m : SqM α} {s : State} (h : (m s).toOption.isSome = true) : ∃ a t, m s = .ok (a, t) := by
  cases e : m s with
  | ok p => exact ⟨p.1, p.2, rfl⟩
  | error f => rw [e] at h; cases h

theorem unit_of {m : SqM Unit} {s : State} (h : (m s).toOption.isSome = true) : ∃ t, m s = .ok ((), t) := by
  obtain ⟨_, t, e⟩ := runs_of h
  exact ⟨t, e⟩

theorem value_of {α : Type} [DecidableEq α] {m : SqM α} {s : State} {a : α} (h : (m s).toOption.map (·.1) = some a) : ∃ t, m s = .ok (a, t) := by
  cases e : m s with
  | ok p => rw [e] at h; cases h; exact ⟨p.2, rfl⟩
  | error f => rw [e] at h; cases h

/-- Of a part that runs, its first part runs, and then the rest. -/
theorem bind_of {α β : Type} {m : SqM α} {k : α → SqM β} {s : State} (h : ((m >>= k) s).toOption.isSome = true) :
    ∃ a t, m s = .ok (a, t) ∧ (k a t).toOption.isSome = true := by
  cases e : m s with
  | ok p => exact ⟨p.1, p.2, rfl, by simpa [bind, StateT.bind, e, Except.bind] using h⟩
  | error f => simp [bind, StateT.bind, e, Except.bind, Except.toOption] at h

/-- The value of what follows a first part. -/
theorem value_bind {α β : Type} [DecidableEq β] {m : SqM α} {k : α → SqM β} {s t : State} {a : α} {b : β} (e : m s = .ok (a, t))
    (h : ((m >>= k) s).toOption.map (·.1) = some b) : ∃ u, k a t = .ok (b, u) :=
  value_of (by simpa [bind, StateT.bind, e, Except.bind] using h)

theorem unit_bind {β : Type} {m : SqM Unit} {k : SqM β} {s : State} (h : ((do m; k) s).toOption.isSome = true) :
    ∃ t, m s = .ok ((), t) ∧ (k t).toOption.isSome = true := by
  obtain ⟨_, t, e, r⟩ := bind_of h
  exact ⟨t, e, r⟩

/-- A descriptor of slot 5 in a state, with this many nodes, and other fields. -/
def descriptor (st ncnt : Nat) (more : List (DField × Nat) := []) : Desc :=
  ([(dSTATE, st), (dNCNT, ncnt), (dKSL, 4), (dMAXD, 4), (dMAXN, 8), (dNKV, 1), (dL, 8), (dCL, 8), (dLMAX, 16), (dEOS, 0xFFFFF), (dHINT, 7), (dKVPT, 0x11000),
    (dREMAP, 0x11100), (dSCORE, 0x11200), (dTREE, 0x12000), (dACCREC, 0x12800), (dDRING, 0x12900)] ++ more).foldl (fun d f => dSet d f.1 f.2) 0
def slot5 : SqSlot := ⟨5, 0x10000, 0, 0, [], 0, none, []⟩

/-- Slot 5 is admitted with its descriptor at 0x10000; node 0 has token 7 and no parent; an acceptance of node 0 with its KV written stands; page 8 exists;
the shortlist record at 0x13000 has four entries; the page stack at 0x14000 has one page. -/
def sequence (d : Desc) (q : SqSlot := slot5) : State :=
  { page (spm u0) 0x10000 0x10000 with
    sqSlots := [q], pageStack := some (0x14000, 0),
    mem := [(0x10000, 256, d.toNat), (0x11040, 8, 0x20000), (0x12000, 16, 7 + 0xFF * 2 ^ 32 + 2 ^ 40), (0x12800, 32, 1 + 2 ^ 16 + 2 ^ 24), (0x13008, 4, 4),
      (0x14000, 8, 1), (0x14040, 8, 0x30000)].foldl (fun m w => Memory.setNum m w.1 w.2.1 w.2.2) [] }

/-- All 4,096 TIDs are in use. -/
def noTid : State := { u0 with foreignTxns := (List.range 4096).map fun i => ⟨BitVec.ofNat 12 i, 0, false⟩ }

theorem freeTidFrom_none {used : List (BitVec 12)} (h : ∀ x, x ∈ used) : ∀ (n : Nat) (start : BitVec 12), freeTidFrom used start n = none
  | 0, _ => rfl
  | n + 1, start => by simp [freeTidFrom, h start, freeTidFrom_none h n]

theorem witness_Requests : u0.freeTid ≠ none ∧ noTid.freeTid = none
    ∧ (∀ d ∈ [descriptor 1 0, descriptor 2 0], (let s := sequence d
      s.sqSlots = [slot5] ∧ s.descOf slot5 = some d ∧ ∃ t, sqBytes 0 0x10000 256 s = .ok (bytesOf 256 d.toNat, t)))
    ∧ (let d := descriptor 1 0
      dGet d dSTATE = 1 ∧ dGet d dPOOL = (0x100 : Word).toNat % 256 ∧ 1 ≤ (0x100 : Word).toNat / 256 % 128
      ∧ ∃ s1 s2, sqClose 1 slot5 d (dSet (dSet d dSTATE 2) dNCNT 0) (sequence d) = .ok ((), s1)
        ∧ sqSpm 0x20000 (bytesOf 2 5 ++ bytesOf 1 (dGet d dMAXN) ++ bytesOf 1 (dGet d dMAXD) ++ bytesOf 4 (dGet d dL) ++ bytesOf 4 (dGet d dHINT)
              ++ bytesOf 4 0 ++ bytesOf 8 slot5.desc.toNat ++ bytesOf 8 (dGet d dSTAGE)) s1 = .ok ((), s2))
    ∧ dGet (descriptor 2 0) dSTATE ≠ 1 := by
  refine ⟨fun h => ?_, freeTidFrom_none (fun x => ?_) _ _, ?_, ⟨by decide +kernel, by decide +kernel, by decide +kernel, ?_⟩, by decide +kernel⟩
  · have : u0.freeTid = some (BitVec.ofNat 12 (Config.pickTid u0.draws)) := rfl
    rw [this] at h; cases h
  · have e : noTid.usedTids = (List.range 4096).map (BitVec.ofNat 12) := by
      simp [State.usedTids, State.contexts, noTid, u0, State.reset, Ctx.reset, Function.comp_def]
    rw [e]
    exact List.mem_map.mpr ⟨x.toNat, List.mem_range.mpr x.isLt, by simp⟩
  · intro d m
    simp only [List.mem_cons, List.not_mem_nil, or_false] at m
    rcases m with rfl | rfl <;> exact ⟨rfl, by decide +kernel, value_of (by decide +kernel)⟩
  · obtain ⟨s1, h1, h⟩ := unit_bind (m := sqClose 1 slot5 (descriptor 1 0) (dSet (dSet (descriptor 1 0) dSTATE 2) dNCNT 0)) (s := sequence (descriptor 1 0))
      (k := sqSpm 0x20000 (bytesOf 2 5 ++ bytesOf 1 (dGet (descriptor 1 0) dMAXN) ++ bytesOf 1 (dGet (descriptor 1 0) dMAXD) ++ bytesOf 4 (dGet (descriptor 1 0) dL)
        ++ bytesOf 4 (dGet (descriptor 1 0) dHINT) ++ bytesOf 4 0 ++ bytesOf 8 slot5.desc.toNat ++ bytesOf 8 (dGet (descriptor 1 0) dSTAGE))) (by decide +kernel)
    obtain ⟨s2, h2⟩ := unit_of h
    exact ⟨s1, s2, h1, h2⟩


/-- The state after the descriptor's read. -/
def opened (d : Desc) (q : SqSlot := slot5) : State := match sqNum q.atp q.desc 256 (sequence d q) with | .ok (_, t) => t | .error _ => u0

theorem opened_of {d : Desc} {q : SqSlot} (h : (sqNum q.atp q.desc 256 (sequence d q)).toOption.map (·.1) = some d.toNat) :
    sqNum q.atp q.desc 256 (sequence d q) = .ok (d.toNat, opened d q) := by
  obtain ⟨t, e⟩ := value_of h
  rw [opened, e]

/-- SQNODE: a word of token 9 with parent 0, or with none. -/
def nodeWord (parent : Nat) : Word := BitVec.ofNat 64 (0x3F800000 + 9 * 2 ^ 32 + parent * 2 ^ 52)

theorem witness_SqNode : (∀ n ∈ [0, 1, 8], (sequence (descriptor 2 n)).sqSlot 5 = some slot5
      ∧ sqNum 0 0x10000 256 (sequence (descriptor 2 n)) = .ok ((descriptor 2 n).toNat, opened (descriptor 2 n)))
    ∧ dGet (descriptor 3 1) dSTATE ≠ 2 ∧ dGet (descriptor 2 1) dSTATE = 2 ∧ inUnit 0x3F800000 = true ∧ inUnit 0 = false
    ∧ (nodeWord 0xFF).toNat / 2 ^ 52 % 256 = 0xFF ∧ (nodeWord 0).toNat / 2 ^ 52 % 256 < dGet (descriptor 2 1) dNCNT
    ∧ dGet (descriptor 2 8) dNCNT = dGet (descriptor 2 8) dMAXN ∧ dGet (descriptor 2 1) dMAXD < 5
    ∧ dGet (descriptor 2 1) dNCNT ≤ (nodeWord 1).toNat / 2 ^ 52 % 256
    ∧ (∃ above s2 s3 s4, sqNum 0 (nodeAddr (descriptor 2 1) 0) 16 (opened (descriptor 2 1)) = .ok (above, s2)
      ∧ sqPut 1 0 (nodeAddr (descriptor 2 1) 1) 16 (9 + 2 * 2 ^ 40) s2 = .ok ((), s3)
      ∧ sqClose 1 slot5 (descriptor 2 1) (dSet (descriptor 2 1) dNCNT 2) s3 = .ok ((), s4))
    ∧ (∃ s2 s3, sqWrite 1 0 (dAddr (descriptor 2 0) dTREE + 1024) (bytesOf 512 0) (opened (descriptor 2 0)) = .ok ((), s2)
      ∧ sqClose 1 slot5 (descriptor 2 0) (dSet (descriptor 2 0) dSTATE 3) s2 = .ok ((), s3))
    ∧ ∃ w s2 s3 s4 s5, sqNum 0 (nodeAddr (descriptor 2 1) 0) 16 (opened (descriptor 2 1)) = .ok (w, s2)
      ∧ sqPut 1 0 (nodeAddr (descriptor 2 1) 0) 16 (ndSetBit w 46) s2 = .ok ((), s3)
      ∧ sqWrite 1 0 (dAddr (descriptor 2 1) dTREE + 1024) (bytesOf 512 1) s3 = .ok ((), s4)
      ∧ sqClose 1 slot5 (descriptor 2 1) (dSet (descriptor 2 1) dSTATE 3) s4 = .ok ((), s5) := by
  refine ⟨?_, by decide +kernel, by decide +kernel, by decide +kernel, by decide +kernel, by decide +kernel, by decide +kernel, by decide +kernel,
    by decide +kernel, by decide +kernel, ?_, ?_, ?_⟩
  · intro n m
    simp only [List.mem_cons, List.not_mem_nil, or_false] at m
    rcases m with rfl | rfl | rfl <;> exact ⟨rfl, opened_of (q := slot5) (by decide +kernel)⟩
  · obtain ⟨w, s2, h1, h⟩ := bind_of (m := sqNum 0 (nodeAddr (descriptor 2 1) 0) 16) (s := opened (descriptor 2 1))
      (k := fun _ => do sqPut 1 0 (nodeAddr (descriptor 2 1) 1) 16 (9 + 2 * 2 ^ 40); sqClose 1 slot5 (descriptor 2 1) (dSet (descriptor 2 1) dNCNT 2))
      (by decide +kernel)
    obtain ⟨s3, h2, h⟩ := unit_bind h
    obtain ⟨s4, h3⟩ := unit_of h
    exact ⟨w, s2, s3, s4, h1, h2, h3⟩
  · obtain ⟨s2, h1, h⟩ := unit_bind (m := sqWrite 1 0 (dAddr (descriptor 2 0) dTREE + 1024) (bytesOf 512 0)) (s := opened (descriptor 2 0))
      (k := sqClose 1 slot5 (descriptor 2 0) (dSet (descriptor 2 0) dSTATE 3)) (by decide +kernel)
    obtain ⟨s3, h2⟩ := unit_of h
    exact ⟨s2, s3, h1, h2⟩
  · obtain ⟨w, s2, h1, h⟩ := bind_of (m := sqNum 0 (nodeAddr (descriptor 2 1) 0) 16) (s := opened (descriptor 2 1))
      (k := fun w => do
        sqPut 1 0 (nodeAddr (descriptor 2 1) 0) 16 (ndSetBit w 46)
        sqWrite 1 0 (dAddr (descriptor 2 1) dTREE + 1024) (bytesOf 512 1)
        sqClose 1 slot5 (descriptor 2 1) (dSet (descriptor 2 1) dSTATE 3)) (by decide +kernel)
    obtain ⟨s3, h2, h⟩ := unit_bind h
    obtain ⟨s4, h3, h⟩ := unit_bind h
    obtain ⟨s5, h4⟩ := unit_of h
    exact ⟨w, s2, s3, s4, s5, h1, h2, h3, h4⟩

/-- SQACC: the bitmap, and an acceptance of node 0 alone, whose page exists. -/
theorem witness_SqAcc : let d := descriptor 3 1
    dGet d dSTATE = 3 ∧ dGet (descriptor 4 1) dSTATE ≠ 3
    ∧ (∃ bs s2, sqBytes 0 (dAddr d dTREE + 1024) 512 (opened d) = .ok (bs, s2))
    ∧ ∃ (recs : List Shortlist) (nodes : List Nat) (d' : Desc) (s2 s3 s4 s5 s6 s7 : State), (List.range (dGet d dNCNT)).mapM (sqShortlist 0x13000 (dGet d dKSL)) (opened d) = .ok (recs, s2)
      ∧ sqNodes slot5 d (dGet d dNCNT) s2 = .ok (nodes, s3) ∧ sqEnsure 1 slot5 (acceptWalk d nodes recs).1.length 40 d s3 = .ok (d', s4)
      ∧ sqWrite 1 0 (dAddr d dACCREC) (acceptanceRecord (acceptWalk d nodes recs).1 0) s4 = .ok ((), s5)
      ∧ (acceptWalk d nodes recs).1.forM (fun i => sqPut 1 0 (nodeAddr d i) 16 (ndSetBit (nodes.getD i 0) 47)) s5 = .ok ((), s6)
      ∧ sqClose 1 slot5 d (dSet d' dSTATE 4) s6 = .ok ((), s7) := by
  refine ⟨by decide +kernel, by decide +kernel, runs_of (by decide +kernel), ?_⟩
  obtain ⟨recs, s2, h1, h⟩ := bind_of (m := (List.range (dGet (descriptor 3 1) dNCNT)).mapM (sqShortlist 0x13000 (dGet (descriptor 3 1) dKSL)))
    (s := opened (descriptor 3 1))
    (k := fun (recs : List Shortlist) => do
      let nodes ← sqNodes slot5 (descriptor 3 1) (dGet (descriptor 3 1) dNCNT)
      let d' ← sqEnsure 1 slot5 (acceptWalk (descriptor 3 1) nodes recs).1.length 40 (descriptor 3 1)
      sqWrite 1 0 (dAddr (descriptor 3 1) dACCREC) (acceptanceRecord (acceptWalk (descriptor 3 1) nodes recs).1 0)
      (acceptWalk (descriptor 3 1) nodes recs).1.forM (fun i => sqPut 1 0 (nodeAddr (descriptor 3 1) i) 16 (ndSetBit (nodes.getD i 0) 47))
      sqClose 1 slot5 (descriptor 3 1) (dSet d' dSTATE 4)) (by decide +kernel)
  obtain ⟨nodes, s3, h2, h⟩ := bind_of h
  obtain ⟨d', s4, h3, h⟩ := bind_of h
  obtain ⟨s5, h4, h⟩ := unit_bind h
  obtain ⟨s6, h5, h⟩ := unit_bind h
  obtain ⟨s7, h6⟩ := unit_of h
  exact ⟨recs, nodes, d', s2, s3, s4, s5, s6, s7, h1, h2, h3, h4, h5, h6⟩

/-- SQCOMMIT of node 0, whose KV is written, to an empty ring; of no node held or final. -/
theorem witness_SqCommit : let d := descriptor 4 1
    dGet d dSTATE = 4 ∧ dGet (descriptor 3 1) dSTATE ≠ 4
    ∧ ∃ r n left s2 s3 s4 s5 s6, sqNum 0 (dAddr d dACCREC) 64 (opened d) = .ok (r, s2) ∧ r % 256 = 1 ∧ dGet d dNKV ≤ r / 2 ^ 24 % 256
      ∧ ([0].mapM (fun p => sqNum 0 (nodeAddr d p) 16) : SqM (List Nat)) s2 = .ok ([n], s3) ∧ ndCrossed n = false ∧ ndToken n = 7
      ∧ sqDeliver 1 slot5 d none [(7, 8)] s3 = .ok (left, s4)
      ∧ sqPut 1 0 (dAddr d dACCREC) 8 (accKeep (setBits (BitVec.ofNat 64 (r % 2 ^ 64)) 16 1 0)) s4 = .ok ((), s5)
      ∧ sqClose 1 slot5 d (([(dL, 9), (dCL, 9), (dNCNT, 0), (dCSTAMP, 1), (dHINT, 0), (dSTATE, 1), (dPCNT, left.length)] : List (DField × Nat)).foldl
          (fun d f => dSet d f.1 f.2) d) s5 = .ok ((), s6) := by
  refine ⟨by decide +kernel, by decide +kernel, ?_⟩
  obtain ⟨s2, h1⟩ := value_of (m := sqNum 0 (dAddr (descriptor 4 1) dACCREC) 64) (s := opened (descriptor 4 1)) (a := 1 + 2 ^ 16 + 2 ^ 24) (by decide +kernel)
  obtain ⟨r, s2', h1', h⟩ := bind_of (m := sqNum 0 (dAddr (descriptor 4 1) dACCREC) 64) (s := opened (descriptor 4 1))
    (k := fun r => do
      let ns ← ([0].mapM (fun p => sqNum 0 (nodeAddr (descriptor 4 1) p) 16) : SqM (List Nat))
      let left ← sqDeliver 1 slot5 (descriptor 4 1) none [(7, 8)]
      sqPut 1 0 (dAddr (descriptor 4 1) dACCREC) 8 (accKeep (setBits (BitVec.ofNat 64 (r % 2 ^ 64)) 16 1 0))
      sqClose 1 slot5 (descriptor 4 1) (([(dL, 9), (dCL, 9), (dNCNT, 0), (dCSTAMP, 1), (dHINT, 0), (dSTATE, 1), (dPCNT, left.length)] : List (DField × Nat)).foldl
          (fun d f => dSet d f.1 f.2) (descriptor 4 1))) (by decide +kernel)
  rw [h1] at h1'
  cases h1'
  obtain ⟨ns, s3, h2, h⟩ := bind_of h
  obtain ⟨left, s4, h3, h⟩ := bind_of h
  obtain ⟨s5, h4, h⟩ := unit_bind h
  obtain ⟨s6, h5⟩ := unit_of h
  obtain ⟨_, f⟩ := value_bind (b := [7 + 0xFF * 2 ^ 32 + 2 ^ 40]) h1
    (k := fun _ => ([0].mapM (fun p => sqNum 0 (nodeAddr (descriptor 4 1) p) 16) : SqM (List Nat))) (by decide +kernel)
  rw [h2] at f
  cases f
  exact ⟨_, _, left, s2, s3, s4, s5, s6, h1, by decide, by decide +kernel, h2, by decide, by decide, h3, h4, h5⟩


/-- Nodes and records for the acceptance walk: node 1 under node 0, of token 9. -/
def twoNodes : List Nat := [7 + 0xFF * 2 ^ 32 + 2 ^ 40, 9 + 2 * 2 ^ 40 + 0x3F800000 * 2 ^ 64]
def shortlists (top : Nat) : List Shortlist := List.replicate 2 ⟨0x3F800000, 0x3F800000, [(0x3F800000, top), (0x3F800000, 11)]⟩

theorem witness_AcceptanceWalk : let d := descriptor 3 2
    let root := fun (ns : List Nat) => (childrenOf ns 0xFF).find? fun n => ndToken (ns.getD n 0) == dGet d dHINT
    twoNodes.length ≤ 64 ∧ root [8 + 0xFF * 2 ^ 32 + 2 ^ 40] = none ∧ root twoNodes = some 0
    ∧ dGet d dRULE = 0 ∧ dGet (descriptor 3 2 [(dRULE, 1)]) dRULE = 1
    ∧ (∀ c ∈ childrenOf twoNodes 0, ndToken (twoNodes.getD c 0) ≠ (((shortlists 10).getD 0 ⟨0, 0, []⟩).entries.map (·.2)).headD 0)
    ∧ (childrenOf twoNodes 0).find? (fun c => ndToken (twoNodes.getD c 0) == (((shortlists 9).getD 0 ⟨0, 0, []⟩).entries.map (·.2)).headD 0) = some 1
    ∧ childrenOf twoNodes 0 = [1] ∧ childrenOf twoNodes 1 = []
    ∧ (acceptWalk d twoNodes (shortlists 9)).1 = [0, 1] ∧ (acceptWalk d twoNodes (shortlists 10)).1 = [0] := by decide +kernel

/-- Both outcomes of the sampled rule: the child's weight is its whole sum, or it is not among the entries. -/
theorem witness_SampledAcceptance : let d := descriptor 3 2 [(dRULE, 1), (dTOPP, 0x3F800000)]
    (acceptWalk d twoNodes [⟨0x3F800000, 0x3F800000, [(0x3F800000, 9)]⟩, ⟨0x3F800000, 0x3F800000, [(0x3F800000, 9)]⟩]).1 = [0, 1]
    ∧ (acceptWalk d twoNodes [⟨0x3F800000, 0x3F800000, [(0x3F800000, 10)]⟩]).1 = [0] := by decide +kernel

/-- The page of slot 8 exists; the page of slot 9 does not, and the stack has one that is not reserved. -/
theorem witness_Pages : let d := descriptor 3 1
    (∃ s1, sqMissing slot5 d 1 (opened d) = .ok (none, s1))
    ∧ ∃ j s1 s2 page s3 s4 s5 s6 s7, sqMissing slot5 d 2 (opened d) = .ok (some j, s1) ∧ sqStack s1 = .ok ((1, 0), s2)
      ∧ sqNum 0 (0x14000 + 64 + BitVec.ofNat 64 (8 * (1 - 1))) 8 s2 = .ok (page, s3) ∧ sqPut 1 0 0x14000 8 (1 - 1) s3 = .ok ((), s4)
      ∧ sqPut 1 0 (dAddr d dKVPT + BitVec.ofNat 64 (8 * j)) 8 page s4 = .ok ((), s5)
      ∧ sqPut 1 0 (dAddr d dREMAP + BitVec.ofNat 64 (4 * j)) 4 (ofIntW 32 ((dGet d dL : Int) + (j * 2 ^ dGet d dPPLOG : Nat) - dGet d dCL)) s5 = .ok ((), s6)
      ∧ sqPut 1 0 (dAddr d dSCORE + BitVec.ofNat 64 (4 * j)) 4 0 s6 = .ok ((), s7) ∧ (opened d).pageStack = some (0x14000, 0) := by
  refine ⟨value_of (by decide +kernel), ?_⟩
  obtain ⟨s1, h1⟩ := value_of (m := sqMissing slot5 (descriptor 3 1) 2) (s := opened (descriptor 3 1)) (a := some 9) (by decide +kernel)
  obtain ⟨_, s1', h1', h⟩ := bind_of (m := sqMissing slot5 (descriptor 3 1) 2) (s := opened (descriptor 3 1)) (k := fun _ => do
      let p ← sqStack
      let page ← sqNum 0 (0x14000 + 64 + BitVec.ofNat 64 (8 * (p.1 - 1))) 8
      sqPut 1 0 0x14000 8 (p.1 - 1)
      sqPut 1 0 (dAddr (descriptor 3 1) dKVPT + BitVec.ofNat 64 (8 * 9)) 8 page
      sqPut 1 0 (dAddr (descriptor 3 1) dREMAP + BitVec.ofNat 64 (4 * 9)) 4
        (ofIntW 32 ((dGet (descriptor 3 1) dL : Int) + (9 * 2 ^ dGet (descriptor 3 1) dPPLOG : Nat) - dGet (descriptor 3 1) dCL))
      sqPut 1 0 (dAddr (descriptor 3 1) dSCORE + BitVec.ofNat 64 (4 * 9)) 4 0) (by decide +kernel)
  rw [h1] at h1'
  cases h1'
  obtain ⟨p, s2, h2, h⟩ := bind_of h
  obtain ⟨_, f⟩ := value_bind (b := (1, 0)) h1 (k := fun _ => sqStack) (by decide +kernel)
  rw [h2] at f
  cases f
  obtain ⟨pg, s3, h3, h⟩ := bind_of h
  obtain ⟨s4, h4, h⟩ := unit_bind h
  obtain ⟨s5, h5, h⟩ := unit_bind h
  obtain ⟨s6, h6, h⟩ := unit_bind h
  obtain ⟨s7, h7⟩ := unit_of h
  exact ⟨9, s1, s2, pg, s3, s4, s5, s6, s7, h1, h2, h3, h4, h5, h6, h7, rfl⟩


/-- The same, its page versioned. -/
def versionedSequence (d : Desc) (q : SqSlot := slot5) : State := { sequence d q with tlb := [⟨0, 0x10000, 16, 0x10000, 0x07D, 0⟩] }

theorem witness_TransactionParts : (let s := sequence (descriptor 1 0)
      s.kvAny = false ∧ s.counted = [] ∧ s.encTags = [] ∧ s.chains = [] ∧ (s.span 0 .s .read 0x10000 8).toOption = some [(⟨0x10000, false, false, 0⟩, 8)]
      ∧ (s.span 0 .s .write 0x10000 8).toOption = some [(⟨0x10000, false, false, 0⟩, 8)] ∧ s.writeLost [(⟨0x10000, false, false, 0⟩, 8)] = none)
    ∧ (let s := versionedSequence (descriptor 1 0)
      s.chains = [] ∧ (s.span 0 .s .write 0x10078 8).toOption = some [(⟨0x10078, true, false, 0⟩, 8)] ∧ 0x10078 % 128 + 8 ≤ 128
      ∧ s.writeLost [(⟨0x10078, true, false, 0⟩, 8)] = none ∧ s.span 0 .s .write 0x10078 8 = .ok [(⟨0x10078, true, false, 0⟩, 8)]) := by
  refine ⟨by decide +kernel, by decide +kernel, by decide +kernel, by decide +kernel, by decide +kernel, ok_of (by decide +kernel)⟩

/-- Crossings offered for slot 5: of its node 0, and of the slot as a whole. -/
def bound5 (node : BitVec 8) : Crossing := { crossing with slot := 5, node := node }

theorem witness_Crossings : (u0.sqSlot ((bound5 0).slot.setWidth 12) = none ∧ (bound5 0).slot ≠ 0x1FFF)
    ∧ (let s := sequence (descriptor 3 1)
      s.sqSlot ((bound5 0).slot.setWidth 12) = some slot5 ∧ ∃ v t, s.sqRun (sqCross (bound5 0)) = some (v, t))
    ∧ ({ noTid with sqSlots := [slot5] } : State).sqRun (sqCross (bound5 0)) = none
    ∧ ((bound5 0).node ≠ 0xFF ∧ (bound5 0).node.toNat < dGet (descriptor 3 1) dNCNT ∧ dGet (descriptor 3 0) dNCNT ≤ (bound5 0).node.toNat)
    ∧ (∃ w s2 s3, sqNum 0 (nodeAddr (descriptor 3 1) 0) 16 (opened (descriptor 3 1)) = .ok (w, s2)
      ∧ sqPut 1 0 (nodeAddr (descriptor 3 1) 0) 16 (ndSetBit w 45) s2 = .ok ((), s3)) := by
  refine ⟨by decide +kernel, ⟨rfl, ?_⟩, ?_, by decide +kernel, ?_⟩
  · exact ⟨_, _, Option.eq_some_of_isSome (o := (sequence (descriptor 3 1)).sqRun (sqCross (bound5 0))) (by decide +kernel)⟩
  · have h : ({ noTid with sqSlots := [slot5] } : State).freeTid = none := witness_Requests.2.1
    simp [State.sqRun, h]
  · obtain ⟨w, s2, h1, h⟩ := bind_of (m := sqNum 0 (nodeAddr (descriptor 3 1) 0) 16) (s := opened (descriptor 3 1))
      (k := fun w => sqPut 1 0 (nodeAddr (descriptor 3 1) 0) 16 (ndSetBit w 45)) (by decide +kernel)
    obtain ⟨s3, h2⟩ := unit_of h
    exact ⟨w, s2, s3, h1, h2⟩

/-- A slot to admit: a descriptor that keeps R222 in a versioned page, one that lies in another page, one that does not exist. -/
def admitting (d : Desc) : State := { versionedSequence d with sqSlots := [] }

theorem witness_Admit : (let d := descriptor 0 0
      let s := admitting d
      let q : SqSlot := ⟨5, 0x10000, s.ctx.csr.atp, 0, [], 0, none, []⟩
      s.sqSlot 5 = none ∧ s.descOf q = some d ∧ s.versionedAt 0x10000 = true ∧ dGet d dCSTR ≤ 3 ∧ 1 ≤ dGet d dKSL ∧ dGet d dKSL ≤ 64 ∧ 1 ≤ dGet d dMAXD
      ∧ dGet d dMAXD ≤ 16 ∧ 1 ≤ dGet d dMAXN ∧ dGet d dMAXN ≤ 64 ∧ 1 ≤ dGet d dNKV ∧ dGet d dRULE = 0 ∧ dGet d dL ≤ dGet d dLMAX ∧ dGet d dLMAX ≤ 2 ^ 25
      ∧ dGet d dPPLOG ≤ 12 ∧ dGet d dTREE % 64 = 0 ∧ dGet d dACCREC % 64 = 0 ∧ dGet d dDRING % 64 = 0
      ∧ ∃ s1, sqClose 1 q d (dSet (dSet (dSet d dSTATE 1) dNCNT 0) dPCNT 0) s = .ok ((), s1))
    ∧ (let s : State := { sequence (descriptor 0 0) with sqSlots := [] }
      s.versionedAt 0x10000 = false ∧ s.descOf ⟨5, 0x10000, s.ctx.csr.atp, 0, [], 0, none, []⟩ = some (descriptor 0 0))
    ∧ u0.descOf ⟨5, 0x10000, 0, 0, [], 0, none, []⟩ = none := by
  refine ⟨⟨by decide +kernel, by decide +kernel, by decide +kernel, by decide +kernel, by decide +kernel, by decide +kernel, by decide +kernel, by decide +kernel,
    by decide +kernel, by decide +kernel, by decide +kernel, by decide +kernel, by decide +kernel, by decide +kernel, by decide +kernel, by decide +kernel,
    by decide +kernel, by decide +kernel, unit_of (by decide +kernel)⟩, by decide +kernel, by decide +kernel⟩

/-- A change of the descriptor alone. -/
theorem closes (old new : Desc) (q : SqSlot) (s : State) (h : (sqClose 1 q old new s).toOption.isSome = true) : ∃ t, sqClose 1 q old new s = .ok ((), t) := unit_of h

/-- The acceptance's record is read and rewritten, what that leaves is changed, and the descriptor written. -/
theorem record_and_close {d new : Desc} {n : Nat} {s : State} {f : State → State}
    (h : ((do let w ← sqNum 0 (dAddr d dACCREC) 8
              sqPut 1 0 (dAddr d dACCREC) 8 (accKeep (setBits (BitVec.ofNat 64 w) 16 n 0))
              modify f
              sqClose 1 slot5 d new : SqM Unit) s).toOption.isSome = true) :
    ∃ w s2 s3 s4, sqNum 0 (dAddr d dACCREC) 8 s = .ok (w, s2)
      ∧ sqPut 1 0 (dAddr d dACCREC) 8 (accKeep (setBits (BitVec.ofNat 64 w) 16 n 0)) s2 = .ok ((), s3) ∧ sqClose 1 slot5 d new (f s3) = .ok ((), s4) := by
  obtain ⟨w, s2, h1, h⟩ := bind_of h
  obtain ⟨s3, h2, h⟩ := unit_bind h
  obtain ⟨_, _, e, h⟩ := bind_of h
  cases e
  obtain ⟨s4, h3⟩ := unit_of h
  exact ⟨w, s2, s3, s4, h1, h2, h3⟩

/-- The acceptance of slot 5 takes a new number, and its marks go. -/
def newAcceptance (s : State) : State := { s.updSlot 5 (fun q => { q with acc := s.seq }) with seq := s.seq + 1 }
def dropMarks (s : State) : State := (newAcceptance s).updSlot 5 fun q => { q with marks := [] }

theorem witness_SlotOperations : (∀ st ∈ [0, 1, 2, 3, 4, 5, 6, 7, 8], (sequence (descriptor st 1)).sqSlot 5 = some slot5 ∧ dGet (descriptor st 1) dSTATE = st)
    -- ROLL, and a crossing of the slot as a whole
    ∧ (∃ w s2 s3 s4, sqNum 0 (dAddr (descriptor 4 1) dACCREC) 8 (opened (descriptor 4 1)) = .ok (w, s2)
      ∧ sqPut 1 0 (dAddr (descriptor 4 1) dACCREC) 8 (accKeep (setBits (BitVec.ofNat 64 w) 16 16 0)) s2 = .ok ((), s3)
      ∧ sqClose 1 slot5 (descriptor 4 1) (dSet (dSet (descriptor 4 1) dNCNT 0) dSTATE 1) (dropMarks s3) = .ok ((), s4))
    ∧ (∃ w s2 s3 s4, sqNum 0 (dAddr (descriptor 4 1) dACCREC) 8 (opened (descriptor 4 1)) = .ok (w, s2)
      ∧ sqPut 1 0 (dAddr (descriptor 4 1) dACCREC) 8 (accKeep (setBits (BitVec.ofNat 64 w) 16 16 0)) s2 = .ok ((), s3)
      ∧ sqClose 1 slot5 (descriptor 4 1) (dSet (dSet (dSet (descriptor 4 1) dNCNT 0) dSTATE 6) dHNODE 0xFF) (dropMarks s3) = .ok ((), s4))
    -- PREEMPT and RESUME
    ∧ (∃ t, sqClose 1 slot5 (descriptor 5 1) (dSet (dSet (descriptor 5 1) dPSTATE 5) dSTATE 7) (opened (descriptor 5 1)) = .ok ((), t))
    ∧ (∀ p ∈ [(1, 1), (3, 3), (5, 1), (5, 5)], ∃ t, sqClose 1 slot5 (descriptor 7 1 [(dPSTATE, p.1)]) (dSet (descriptor 7 1 [(dPSTATE, p.1)]) dSTATE p.2)
        (opened (descriptor 7 1 [(dPSTATE, p.1)])) = .ok ((), t))
    ∧ (∃ t, sqClose 1 slot5 (descriptor 7 1 [(dPSTATE, 2)]) (dSet (dSet (descriptor 7 1 [(dPSTATE, 2)]) dNCNT 0) dSTATE 1)
        (opened (descriptor 7 1 [(dPSTATE, 2)])) = .ok ((), t))
    ∧ (∃ w s2 s3 s4, sqNum 0 (dAddr (descriptor 7 1 [(dPSTATE, 4)]) dACCREC) 8 (opened (descriptor 7 1 [(dPSTATE, 4)])) = .ok (w, s2)
      ∧ sqPut 1 0 (dAddr (descriptor 7 1 [(dPSTATE, 4)]) dACCREC) 8 (accKeep (setBits (BitVec.ofNat 64 w) 16 1 0)) s2 = .ok ((), s3)
      ∧ sqClose 1 slot5 (descriptor 7 1 [(dPSTATE, 4)]) (dSet (descriptor 7 1 [(dPSTATE, 4)]) dSTATE 3) (newAcceptance s3) = .ok ((), s4))
    -- RELEASE and RETIRE
    ∧ (∃ t, sqClose 1 slot5 (descriptor 6 1) (dSet (dSet (dSet (descriptor 6 1) dSTATE 1) dHNODE 0) dPCNT 0) (opened (descriptor 6 1)) = .ok ((), t))
    ∧ (∃ t, sqClose 1 slot5 (descriptor 6 1) (dSet (dSet (dSet (descriptor 6 1) dSTATE 8) dHNODE (dGet (descriptor 6 1) dHNODE)) dPCNT 0) (opened (descriptor 6 1))
        = .ok ((), t))
    ∧ ∃ t, sqClose 1 slot5 (descriptor 8 1) (dSet (dSet (descriptor 8 1) dSTATE 0) dPCNT 0) (opened (descriptor 8 1)) = .ok ((), t) := by
  refine ⟨?_, record_and_close (f := dropMarks) (by decide +kernel), record_and_close (f := dropMarks) (by decide +kernel), closes _ _ _ _ (by decide +kernel), ?_,
    closes _ _ _ _ (by decide +kernel), record_and_close (f := newAcceptance) (by decide +kernel), closes _ _ _ _ (by decide +kernel),
    closes _ _ _ _ (by decide +kernel), closes _ _ _ _ (by decide +kernel)⟩
  · intro st m
    simp only [List.mem_cons, List.not_mem_nil, or_false] at m
    rcases m with rfl | rfl | rfl | rfl | rfl | rfl | rfl | rfl | rfl <;> exact ⟨rfl, by decide +kernel⟩
  · intro p m
    simp only [List.mem_cons, List.not_mem_nil, or_false] at m
    rcases m with rfl | rfl | rfl | rfl <;> exact closes _ _ _ _ (by decide +kernel)

/-- Tokens that wait for the ring of two places: none in flight, and one that a HELD slot withholds. -/
def pendingSlot (held : Option (BitVec 32)) : SqSlot := { slot5 with pending := [(7, 8), (9, 9)], holdFrom := held }
def ringOf (s : State) (tail : Nat) : State := { s with mem := Memory.setNum (Memory.setNum s.mem 0x12908 8 tail) 0x12910 8 1 }

theorem witness_PendingTokens : let d := descriptor 5 1
    (∀ h ∈ [none, some 9], ∃ left s2, sqDeliver 1 (pendingSlot h) d h [(7, 8), (9, 9)] (ringOf (opened d (pendingSlot h)) 0) = .ok (left, s2)
      ∧ ∃ s3, sqClose 1 (pendingSlot h) d (dSet (dSet d dPCNT left.length) dSTATE (if left = [] then 1 else 5)) s2 = .ok ((), s3))
    ∧ ∀ tail ∈ [0, 2], ∃ hd s1 tl s2 w s3, sqNum 0 (dAddr d dDRING) 8 (ringOf (opened d) tail) = .ok (hd, s1) ∧ sqNum 0 (dAddr d dDRING + 8) 8 s1 = .ok (tl, s2)
      ∧ sqNum 0 (dAddr d dDRING + 16) 8 s2 = .ok (w, s3) := by
  refine ⟨fun h m => ?_, fun tail m => ?_⟩
  · have e : ((do
        let left ← sqDeliver 1 (pendingSlot h) (descriptor 5 1) h [(7, 8), (9, 9)]
        sqClose 1 (pendingSlot h) (descriptor 5 1) (dSet (dSet (descriptor 5 1) dPCNT left.length) dSTATE (if left = [] then 1 else 5)) : SqM Unit)
        (ringOf (opened (descriptor 5 1) (pendingSlot h)) 0)).toOption.isSome = true := by
      simp only [List.mem_cons, List.not_mem_nil, or_false] at m
      rcases m with rfl | rfl <;> decide +kernel
    obtain ⟨left, s2, h1, r⟩ := bind_of e
    obtain ⟨s3, h2⟩ := unit_of r
    exact ⟨left, s2, h1, s3, h2⟩
  · have e : ((do
        let _ ← sqNum 0 (dAddr (descriptor 5 1) dDRING) 8
        let _ ← sqNum 0 (dAddr (descriptor 5 1) dDRING + 8) 8
        sqNum 0 (dAddr (descriptor 5 1) dDRING + 16) 8 : SqM Nat) (ringOf (opened (descriptor 5 1)) tail)).toOption.isSome = true := by
      simp only [List.mem_cons, List.not_mem_nil, or_false] at m
      rcases m with rfl | rfl <;> decide +kernel
    obtain ⟨hd, s1, h1, r⟩ := bind_of e
    obtain ⟨tl, s2, h2, r⟩ := bind_of r
    obtain ⟨w, s3, h3⟩ := runs_of r
    exact ⟨hd, s1, tl, s2, w, s3, h1, h2, h3⟩

/-- Tap 2 has started, TAPNEXT is past it. -/
def aTap (ws : List (Nat × Nat × List Byte)) (complete : Bool) : Tap := { num := 2, writes := ws, status := 1, row := 3, complete := complete }
def tapped (t : Tap) : State := withC (withCsr (spm u0) fun k => { k with tapnext := 3 }) fun c => { c with taps := [t] }

theorem witness_TapsComplete : Safety.memOk (tapped (aTap [(0, 16, [1, 2])] false)) = true
    ∧ (tapped (aTap [(0, 16, [1, 2])] false)).findTap 2 = some ((tapped (aTap [(0, 16, [1, 2])] false)).ctx, aTap [(0, 16, [1, 2])] false)
    ∧ (tapped (aTap [] false)).findTap 2 = some ((tapped (aTap [] false)).ctx, aTap [] false) ∧ (aTap [] false).writes = []
    ∧ (tapped (aTap [] true)).ctx.taps = [aTap [] true] ∧ (tapped (aTap [] true)).ctx.tapq.length < 32 :=
  ⟨by decide +kernel, rfl, rfl, rfl, rfl, by decide +kernel⟩

/-- A kernel of one core, one task, no images: its record's first words are the first two. -/
def recWord0 (rest : Nat) : Nat := 0x0001000001110000 + rest
def aKernel (n : Nat) (st : KState) (rest : Nat := 0) (rec : Nat := 0) : Kernel :=
  { Kernel.fresh n 0 0 (BitVec.ofNat 1024 (recWord0 rest + rec)) with st := st, entries := [(0x2000, 0, 0)] }
/-- The package in RUN, with these kernels. -/
def inRun (live : Bool) (ks : List Kernel) : State := { host (fun h => { h with devst := 3 }) with live := live, kernels := ks }
/-- A queue's header at 0x10000 with one record at 0x10100, its task table at 0x10080. -/
def launching : State := { page (inRun true []) 0x10000 0x10000 with
  mem := [(0x10001, 1), (0x10002, 1), (0x10008, 1), (0x10009, 7), (0x10018, 1),
    (0x10102, 0x11), (0x10103, 1), (0x10106, 1), (0x10108, 0x80), (0x1010A, 1)] }

theorem firstFree_some {used : List Nat} {n start fuel : Nat} (h : start % n ∉ used) (z : fuel ≠ 0) : firstFree used n start fuel = some (start % n) := by
  cases fuel with
  | zero => exact absurd rfl z
  | succ f => simp [firstFree, h]

theorem pickIds_some {used : List Nat} {n start : Nat} (h : ∀ i ∈ used, i = 0) (m : n ≤ 255) : pickIds used n start = some ((idRing start).take n) := by
  have f : (idRing start).filter (fun i => !used.contains i) = idRing start := by
    rw [List.filter_eq_self]
    intro a ha
    obtain ⟨x, _, rfl⟩ := List.mem_map.mp ha
    simp only [List.contains_eq_mem, Bool.not_eq_true', decide_eq_false_iff_not]
    exact fun c => absurd (h _ c) (by omega)
  have l : (idRing start).length = 255 := by simp [idRing]
  rw [pickIds, f, l]
  exact if_pos m

/-- Every kernel finds its IDs where no live kernel holds any. -/
theorem ids_some {s : State} {k : Kernel} (c : ∀ x ∈ s.liveKernels, x.clusterIds = [] ∧ x.dieIds = [] ∧ x.packageId = 0) (h : k.dies * k.cpd ≤ 255)
    (d : k.dies ≤ 255) : (s.idsFor k).isSome = true := by
  have p : ∀ start, (idRing start).take 1 = [start % 255 + 1] := by
    intro start
    rw [idRing, ← List.map_take, show (List.range 255).take 1 = [0] from rfl]
    simp
  have a := fun st => pickIds_some (used := s.liveKernels.flatMap (·.clusterIds)) (start := st) (by simp +contextual [c]) h
  have b := fun st => pickIds_some (used := s.liveKernels.flatMap (·.dieIds)) (start := st) (by simp +contextual [c]) d
  have e := fun st => pickIds_some (used := s.liveKernels.map (·.packageId)) (n := 1) (start := st) (by simp +contextual [c]) (by decide)
  rw [State.idsFor, a, b, e, p]
  rfl

theorem fit_of {s : State} {k : Kernel} {r : Option (List Nat)} (h : (s.idsFor k).isSome = true) (f : fitCores s.coreFree (s.dieOpen k) k = r) :
    s.fit k = r := by rw [← f]; simp [State.fit, h]

theorem now_of {s : State} {k : Kernel} (h : k.st = .ready ∧ s.host.devst = 3)
    (n : ∀ f ∈ s.aheadOf k, fitCores s.coreFree (s.dieOpen f) f = none ∧ s.stops f k = false) : s.turn k = true := by
  simp only [State.turn, h.1, h.2, BEq.rfl, Bool.true_and, Bool.not_eq_true', List.any_eq_false, Bool.or_eq_true, not_or, Bool.not_eq_true]
  intro f m
  exact ⟨by simp [State.fit, (n f m).1], (n f m).2⟩

/-- A core whose contexts are none takes any number for the next. -/
theorem id_some {s : State} (c : s.contexts = []) (x : Nat) : (firstFree (s.contexts.map (·.id.toNat)) (2 ^ 16) x (s.contexts.length + 1)).isSome = true := by
  rw [firstFree_some (by simp [c]) (by simp)]; rfl

/-- A kernel with one dependence, on the word at 0x10000. -/
def dependent : Kernel := aKernel 1 .waiting 0x100 (0x10000 * 2 ^ 384)
def header0 : Nat := 0x10100 + 0x701 * 2 ^ 64 + 2 ^ 192
def record0 : Nat := recWord0 0 + 0x10080 * 2 ^ 64

theorem witness_LaunchAndPlacement : u0.host.devst ≠ 3 ∧ ({ launching with queues := [⟨0x10000, 0, 5⟩] } : State).watches 0x10000 0 2 = false
    ∧ (let s := launching
      s.host.devst = 3 ∧ s.watches 0x10000 0 2 = true ∧ s.kdsRead 0 0x10000 64 = some header0 ∧ bitsOf header0 256 8 = 0
      ∧ bitsOf header0 128 64 ≠ bitsOf header0 192 64
      ∧ s.queueIndex 0x10000 0 2 = (0, { s with queues := [⟨0x10000, 0, 2⟩] })
      ∧ s.kdsRead 0 (BitVec.ofNat 64 (bitsOf header0 0 48 + 128 * (bitsOf header0 128 64 % 2 ^ bitsOf header0 64 5))) 128 = some record0
      ∧ (s.kdsWrite 0 0x10010 8 (bitsOf header0 128 64 + 1)).isSome = true)
    ∧ (let s := { launching with poison := [0x10100] }
      s.kdsRead 0 0x10000 64 = some header0
      ∧ s.kdsRead 0 (BitVec.ofNat 64 (bitsOf header0 0 48 + 128 * (bitsOf header0 128 64 % 2 ^ bitsOf header0 64 5))) 128 = none) := by decide +kernel

theorem witness_LaunchChecks : (let k := Kernel.fresh 1 0 0 (BitVec.ofNat 1024 record0)
    let excess := decide (2 ^ bitsOf header0 64 5 < (bitsOf header0 192 64 + 2 ^ 64 - bitsOf header0 128 64) % 2 ^ 64)
    launching.launchError k (bitsOf header0 72 3) excess (launching.taskTable 0 k.ttab k.ntask) = 0
    ∧ launching.launchError k (bitsOf header0 72 3) excess none ≠ 0) := by decide +kernel

theorem witness_Dependences : (let s := page (inRun true [dependent]) 0x10000 0x10000
      s.findKernel 1 = some dependent ∧ dependent.ndep = 1 ∧ s.depMet dependent 0 = true ∧ s.kernels = [dependent])
    ∧ (inRun true [dependent]).depMet dependent 0 = false := by decide +kernel

theorem witness_Placements : (let s := inRun true [aKernel 1 .ready]
      s.fit (aKernel 1 .ready) = some [1] ∧ s.turn (aKernel 1 .ready) = true ∧ s.findKernel 1 = some (aKernel 1 .ready) ∧ s.coreNum.toNat ∉ [1])
    ∧ (let s := inRun false [aKernel 1 .ready]
      s.fit (aKernel 1 .ready) = some [0] ∧ s.turn (aKernel 1 .ready) = true ∧ s.findKernel 1 = some (aKernel 1 .ready) ∧ s.coreNum.toNat ∈ [0]
      ∧ s.live = false ∧ s.mode = .u ∧ s.preloaded = none ∧ (aKernel 1 .ready).mimg = 0 ∧ ((aKernel 1 .ready).entry 1).2.1 = 0) := by
  have ids : ∀ b, ((inRun b [aKernel 1 .ready]).idsFor (aKernel 1 .ready)).isSome = true := fun b =>
    ids_some (by cases b <;> decide +kernel) (by decide +kernel) (by decide +kernel)
  exact ⟨⟨fit_of (ids _) (by decide +kernel), now_of (by decide +kernel) (by decide +kernel), by decide +kernel⟩,
    fit_of (ids _) (by decide +kernel), now_of (by decide +kernel) (by decide +kernel), by decide +kernel⟩

theorem witness_Preloads : (let k := aKernel 1 .ready 0x210
      let s := page (inRun true [k]) 0 0x10000
      s.findKernel 1 = some k ∧ k.pld = true ∧ s.preloaded = none ∧ s.live = true ∧ (s.contexts.map (·.spmRes)).foldl (fun a b => a + b) 0 + k.spmb ≤ 32
      ∧ (s.spmImage k.atp (k.entry 1).2.1 (k.entry 1).2.2).toOption = some ([], [])
      ∧ (s.translate k.atp .u .exec false (k.entry 1).1 32).toOption = some ⟨0x12000, false, false, 0⟩)
    ∧ 32 < ([32].foldl (fun a b => a + b) 0) + (aKernel 1 .ready (0x210 + 2 ^ 32)).spmb := by decide +kernel

theorem witness_PlacementPicks : (∃ ids, (inRun false [aKernel 1 .ready]).idsFor (aKernel 1 .ready) = some ids)
    ∧ ∃ id, firstFree ((inRun false [aKernel 1 .ready]).contexts.map (·.id.toNat)) (2 ^ 16) (Config.pick ((inRun false [aKernel 1 .ready]).draws + 3))
      ((inRun false [aKernel 1 .ready]).contexts.length + 1) = some id :=
  ⟨Option.isSome_iff_exists.mp (ids_some (by decide +kernel) (by decide +kernel) (by decide +kernel)), Option.isSome_iff_exists.mp (id_some (by decide +kernel) _)⟩

/-- A ready kernel of this many whole dies. -/
def dies (id n cls : Nat) : Kernel := aKernel id .ready ((n - 1) * 2 ^ 24 + 0x370000 + cls)
/-- A kernel of class 1 is ready for the one die that no kernel ahead of it reserves. A context of class 0 that it may pre-empt runs there: on this
core, or on core 33. -/
def crowded (mine : Bool) : State :=
  let x : Kernel := { aKernel 2 .placed 8 with cores := [33], live := [33] }
  let f : Kernel := { dies 3 8 7 with targets := (List.range 8).filter (· ≠ if mine then 0 else 1) }
  withC (inRun true (dies 1 1 1 :: f :: if mine then [] else [x])) fun c => { c with pre := mine }

/-- A context that shares the core, one that has run too long, and one whose handler serves a notice. -/
def guest : Ctx := { Ctx.reset with id := 7 }
def late : State := withC (inRun true [{ kern with record := BitVec.ofNat 1024 (5 * 2 ^ 352) }]) fun c => { c with kernel := 1, runTime := 6 }
def noticed : State := { withC (inRun true [kern]) fun c => { c with kernel := 1 } with mode := .s }

theorem witness_ContextsSwitch : (let s := crowded false
      s.turn (dies 1 1 1) = true ∧ s.fit (dies 1 1 1) = none ∧ (s.idsFor (dies 1 1 1)).isSome = true ∧ s.findKernel 1 = some (dies 1 1 1)
      ∧ s.preemptPlan (dies 1 1 1) = some ((List.range 32).map (32 + ·)) ∧ s.coreNum.toNat ∉ (List.range 32).map (32 + ·))
    ∧ (let s := crowded true
      s.turn (dies 1 1 1) = true ∧ s.fit (dies 1 1 1) = none ∧ (s.idsFor (dies 1 1 1)).isSome = true ∧ s.findKernel 1 = some (dies 1 1 1)
      ∧ s.preemptPlan (dies 1 1 1) = some (List.range 32) ∧ s.coreNum.toNat ∈ List.range 32 ∧ s.live = true ∧ s.switchable = true)
    ∧ (withC u0 fun c => { c with msgout := [1] }).switchable = false := by
  have ids : ∀ b, ((crowded b).idsFor (dies 1 1 1)).isSome = true := fun b =>
    ids_some (by cases b <;> decide +kernel) (by decide +kernel) (by decide +kernel)
  exact ⟨⟨now_of (by decide +kernel) (by decide +kernel), fit_of (ids _) (by decide +kernel), ids _, by decide +kernel⟩,
    ⟨now_of (by decide +kernel) (by decide +kernel), fit_of (ids _) (by decide +kernel), ids _, by decide +kernel⟩, by decide +kernel⟩

theorem witness_ContextsSwitchHere : (∃ k, late.kernelOf late.ctx = some k ∧ late.switchable = true ∧ k.tlim ≠ 0 ∧ k.tlim < late.ctx.runTime)
    ∧ (u0.live = true ∧ u0.nextCtx (fun c => decide (u0.ctx.effClass ≤ c.effClass)) = none)
    ∧ (let s := { u0 with parked := [guest] }
      s.live = true ∧ s.switchable = true ∧ s.parked = [guest] ∧ guest.id ≠ s.ctx.id ∧ guest.load = .none ∧ guest.csr.msimg = 0
      ∧ s.nextCtx (fun c => decide (s.ctx.effClass ≤ c.effClass)) = some guest)
    ∧ (noticed.mode = .s ∧ noticed.trap.tcause.extractLsb' 0 8 = 0 ∧ noticed.ctx.load = .none ∧ noticed.ctx.csr.msimg = 0 ∧ noticed.live = true
      ∧ noticed.parked = [] ∧ noticed.ctx.running = none ∧ noticed.kernelOf noticed.ctx = some kern ∧ noticed.ctx.txn = none ∧ kern.mimg = 0
      ∧ (kern.entry 1).2.1 = 0) := ⟨⟨_, rfl, by decide +kernel⟩, by decide +kernel⟩

/-- A kernel whose every core has retired, its completion record at 0x10000. -/
def finished : Kernel := { kern with live := [], record := BitVec.ofNat 1024 (0x10000 * 2 ^ 256) }
def finishing : State := { page (inRun true [finished]) 0x10000 0x10000 with mem := [(0x10000, 4)] }

theorem witness_KernelsEnd : Safety.memOk finishing = true ∧ finishing.findKernel finished.id = some finished ∧ finished.st = .placed ∧ finished.live = []
    ∧ (finishing.span finished.atp .s .write finished.done 16).toOption = some [(⟨0x10000, false, false, 0⟩, 16)]
    ∧ Laid finishing 0x10000 finished.done 16 [(⟨0x10000, false, false, 0⟩, 16)]
    ∧ ((inRun true [kern]).findKernel kern.id = some kern ∧ kern.st = .placed ∧ (inRun true [kern]).coreNum.toNat ∈ kern.live)
    ∧ (let k := { kern with cores := [0, 1], live := [0, 1] }
      let m : MemberEnd := ⟨1, 7, true, 4, false⟩
      m.core ∈ k.live ∧ m.core ≠ joined.coreNum.toNat ∧ joined.ctx.kernel = k.id ∧ shares 1 joined.coreNum.toNat m.core = true ∧ (joined.ctx.dom 1).exp ≠ 0
      ∧ m.arrived.getLsbD 2 = true ∧ m.arrived.getLsbD 1 = false ∧ (joined.ctx.dom 1).arrived < (joined.ctx.dom 1).exp.toNat - 1) := by
  unfold Laid; decide +kernel

/-! ### A step -/

/-- A context at a bundle, and the state that its fetch leaves. -/
def atBundle (w : BundleBits) : State := u0.place w
def fetched (w : BundleBits) : State := match (atBundle w).fetch (atBundle w).rs.pc with | .ok (_, t) => t | .error _ => u0

theorem fetched_of {w : BundleBits} (h : ((atBundle w).fetch (atBundle w).rs.pc).toOption.map (·.1) = some w) :
    (atBundle w).fetch (atBundle w).rs.pc = .ok (w, fetched w) := by
  unfold fetched
  generalize (atBundle w).fetch (atBundle w).rs.pc = f at *
  cases f with
  | ok p => cases p; cases h; rfl
  | error e => cases h

/-- Bundles with a header and a scalar slot, each other slot zero. -/
def inS (header : BitVec 8) (w : BitVec 56) : BundleBits := ({ header := header, s := w, v0 := 0, v1 := 0, m := 0, c0 := 0, c1 := 0, x := 0 } : Slots).bundle
def addiWord : BitVec 56 := 0b000000_00100000_000001_000010_000000000000000000000000000101#56
def nops : List Instr := [.vnop .v0 0, .vnop .v1 0, .mnop 0, .cnop .c0 0, .cnop .c1 0, .xnop 0]

theorem witness_StepAgenda : (let s : State := { u0 with agenda := [.ageTick, .portUp ⟨0, 0, 0⟩] }
      s.takeable .ageTick = true ∧ s.agenda = [] ++ .ageTick :: [.portUp ⟨0, 0, 0⟩])
    ∧ (let s := withC { u0 with agenda := [.messageDelivery false 1 2, .ageTick] } fun c => { c with msgin := List.replicate 32 0 }
      s.agenda = [.messageDelivery false 1 2] ++ .ageTick :: [] ∧ (∀ x ∈ [Instr.messageDelivery false 1 2], s.takeable x = false) ∧ s.takeable .ageTick = true)
    ∧ (let s := { host (fun h => { h with frozen := true }) with agenda := [.ageTick] }
      s.host.frozen = true ∧ ∀ i ∈ s.agenda, worksFrozen i = false)
    ∧ (let s := { host (fun h => { h with frozen := true }) with agenda := [Instr.ageTick] ++ Instr.moduleReset :: [Instr.ageTick] }
      (∀ x ∈ [Instr.ageTick], s.takeable x = false) ∧ s.takeable .moduleReset = true) := by decide +kernel

/-- What a core that fetches has in common. -/
def Fetches (s : State) : Prop :=
  s.noteWakes = s ∧ s.host.frozen = false ∧ s.agenda = [] ∧ s.lead ≤ 15 ∧ (s.mode = .u → s.live = true ∧ s.ctx.load = .none) ∧ s.pending = [] ∧ s.rs.mid = false
    ∧ s.rs.due = [] ∧ (s.rs.wait = .none ∨ s.rs.wait = .emptyUntil 9)

/-- What lets a decoded bundle issue. -/
def Issues (w : BundleBits) (b : Bundle) : Prop :=
  (fetched w).awaited b = none ∧ (fetched w).bundleTrap w b = none ∧ (fetched w).power.droop = false ∧ (fetched w).settlingHold = false
    ∧ (fetched w).xposeReady = true

theorem witness_StepFetches : Fetches { u0 with lead := 15 } ∧ (∃ f, u0.fetch u0.rs.pc = .error f)
    ∧ Fetches (atBundle (inS 1 0)) ∧ (atBundle (inS 1 0)).fetch (atBundle (inS 1 0)).rs.pc = .ok (inS 1 0, fetched (inS 1 0))
    ∧ failure (decodeBundle (inS 1 0)) = some ⟨7, 1, .illslot⟩ := by
  refine ⟨?_, ?_, ?_, fetched_of ?_, by decide +kernel⟩
  · unfold Fetches; decide +kernel
  · have h : (failure (u0.fetch u0.rs.pc)).isSome = true := by decide +kernel
    obtain ⟨f, e⟩ := Option.isSome_iff_exists.mp h
    exact ⟨f, error_of e⟩
  · unfold Fetches; decide +kernel
  · decide +kernel

/-- ERET in U mode traps. -/
def eretWord : BitVec 56 := 0b000000_01011000#14 ++ 0#42

theorem witness_StepRunsDecoded : (atBundle 0).fetch (atBundle 0).rs.pc = .ok (0, fetched 0) ∧ (decodeBundle 0).toOption = some ⟨none, .nop 0 :: nops⟩
    ∧ Issues 0 ⟨none, .nop 0 :: nops⟩ ∧ (∀ i ∈ Instr.nop 0 :: nops, isNop i = true)
    ∧ (∃ i, (decodeBundle (inS 0 eretWord)).toOption = some ⟨none, i :: nops⟩ ∧ ((fetched (inS 0 eretWord)).bundleTrap (inS 0 eretWord) ⟨none, i :: nops⟩).isSome = true)
    ∧ ((decodeBundle (inS 0xB0 0)).toOption = some ⟨some (.oppRequest 3), .nop 0 :: nops⟩ ∧ Issues (inS 0xB0 0) ⟨some (.oppRequest 3), .nop 0 :: nops⟩)
    ∧ ((decodeBundle (inS 0 addiWord)).toOption = some ⟨none, .addi 0 1 2 5 :: nops⟩ ∧ Issues (inS 0 addiWord) ⟨none, .addi 0 1 2 5 :: nops⟩
      ∧ guardOn 0 (fetched (inS 0 addiWord)) = true) := by
  refine ⟨fetched_of (by decide +kernel), by decide +kernel, ?_, by decide +kernel, ⟨.eret 0, by decide +kernel, by decide +kernel⟩,
    ⟨by decide +kernel, ?_⟩, by decide +kernel, ?_, by decide +kernel⟩ <;> (unfold Issues; decide +kernel)

theorem witness_StepRunsOne : (let s := fetched (inS 0 addiWord)
    let t := (s.setRs { s.rs with npc := s.rs.pc + 32, wait := .none }).xposeTake
    (∃ m, meaningOf (.addi 0 1 2 5) = some (0, m) ∧ m.trap t = none ∧ m.hold t = false)
      ∧ match s.runBundle (.addi 0 1 2 5 :: nops) id t with | .acted _ => True | _ => False)
    ∧ u0.mode = .u ∧ u0.rs.wait = .none := ⟨⟨⟨_, rfl, by decide +kernel⟩, trivial⟩, rfl, rfl⟩

/-- UNBIND of port 31 while a beat pushed to it is still in flight. -/
def unbindWord : BitVec 56 := 0b000000_01110111_011111#20 ++ 0#36
def pushing : State := withC ((port (hnd u0 5 region) 31 (bound true 5)).place (inS 0 unbindWord)) fun c => { c with rs := { c.rs with flights := [⟨9, 1, 0, none, .push 1 31 7 0 0⟩] } }

theorem witness_StepWaits : (decodeBundle (inS 0 unbindWord)).toOption = some ⟨none, .unbindPort 0 31 :: nops⟩
    ∧ pushing.xposeTrap = none ∧ pushing.tickHeld = false
    ∧ (∃ w s', pushing.fetch pushing.rs.pc = .ok (w, s')
      ∧ s'.awaited ⟨none, .unbindPort 0 31 :: nops⟩ = some 9) := by
  have h : (match pushing.fetch pushing.rs.pc with
    | .ok (_, s') => s'.awaited ⟨none, .unbindPort 0 31 :: nops⟩ | .error _ => none) = some 9 := by decide +kernel
  refine ⟨by decide +kernel, by decide +kernel, by decide +kernel, ?_⟩
  generalize pushing.fetch pushing.rs.pc = f at h
  cases f with
  | ok p => exact ⟨p.1, p.2, rfl, h⟩
  | error e => cases h

/-! ### Requests, results and operating points: the further clauses -/

/-- The core stands in front of a boundary with one result due, in these queues. -/
def pushing' (n : SReg) (f : Ctx → Ctx) : State := withC (flying 4 none (.sreg n 5)) f

theorem witness_ResultsLand_queues : (∀ n ∈ ([62, 63] : List SReg), (pushing' n id).rs.flights = [⟨4, 1, 0, none, .sreg n 5⟩, ⟨5, 1, 1, none, .sreg 9 1⟩])
    ∧ (u0.ctx.hostq.length < 32 ∧ u0.ctx.traceq.length < 32 ∧ u0.feature featTRACE = false)
    ∧ (let s := pushing' 61 fun c => { c with msgout := List.replicate 32 1 }
      (∀ q ∈ s.rs.reqs, q.lost = none) ∧ s.ctx.later = [] ∧ 32 ≤ (s.ctx.pushQueue 61).length)
    ∧ (let s := pushing' 62 fun c => { c with hostq := List.replicate 32 1 }
      (∀ q ∈ s.rs.reqs, q.lost = none) ∧ s.ctx.later = [] ∧ 32 ≤ (s.ctx.pushQueue 62).length)
    ∧ (let s := { pushing' 63 fun c => { c with traceq := List.replicate 32 1 } with host := { u0.host with accepted := 0x20 } }
      s.feature featTRACE = true ∧ (∀ q ∈ s.rs.reqs, q.lost = none) ∧ s.ctx.later = [] ∧ 32 ≤ (s.ctx.pushQueue 63).length) := by decide +kernel

/-- A store to a page whose table entry lies in a line that an uncorrectable error has hit. -/
def storing : State := { sent aStore with poison := [0] }

theorem witness_RequestsTranslate_stores : failure (storing.resolve aStore) = some (.mchk, some 0) ∧ storing.kvAny = false
    ∧ storing.faulted aStore = false ∧ aStore.kind = .store 5 ∧ aStore.pa = none ∧ aStore.lost = none ∧ aStore.away = false ∧ storing.live = true
    ∧ storing.mode = .u ∧ storing.ctx.rs.reqs = [aStore] ∧ storing.sup.reqs = [] := by decide +kernel

/-- A signed minimum and maximum of a negative and a positive number, and a sum of FP32. -/
theorem witness_UpdatesArePerformed_signed : (∀ op ∈ [AtomOp.min, .max],
      (updating (.atomic op 0xFFFFFFFFFFFFFFFF)).faulted { found aStore with kind := .atomic op 0xFFFFFFFFFFFFFFFF } = false
      ∧ (updating (.red op 0xFFFFFFFFFFFFFFFF)).faulted { found aStore with kind := .red op 0xFFFFFFFFFFFFFFFF } = false)
    ∧ (0xFFFFFFFFFFFFFFFF : Word).toNat < 256 ^ aStore.bytes
    ∧ (let q := { found aStore with kind := .atomic .fadd 0x3F800000, bytes := 4 }
      (mapped q).faulted q = false ∧ q.bytes ∈ [4, 8] ∧ (0x3F800000 : Word).toNat < 256 ^ q.bytes) := by decide +kernel

theorem witness_CachesMailboxesAndQueues_lost : let s := { u0 with poison := [0x10000] }
    (∀ l ∈ s.icache, l.pa.toNat ≠ (0x10020 : BitVec 40).toNat / 32 * 32) ∧ s.lostAt ((0x10020 : BitVec 40).toNat / 32 * 32) 32 = true := by decide +kernel

theorem witness_PendingTrapsAreTaken_order : firstTrap [({ cause := .busmiss, kind := .imprecise } : Trap), { cause := .copyfault, kind := .asynchronous }] =
      some { cause := .copyfault, kind := .asynchronous }
    ∧ ({ cause := .copyfault, kind := .asynchronous } : Trap).kind ≠ .boundary := by decide +kernel

/-- AUTO with both thresholds: the held share at 1/2 or above is heavy, at 1/4 or below light. -/
def auto (point floor : BitVec 3) (f : Power → Power := id) : State :=
  withCsr (atPoint point floor fun p => f (rich p)) fun k => { k with oppctl := 0x00408001 }

theorem witness_PowerController_auto : (auto 3 1).live = true ∧ (auto 3 1).ctx.csr.oppctl.getLsbD 0 = true
    ∧ ((auto 3 1).ctx.csr.oppctl.extractLsb' 8 8).toNat = 0x80 ∧ ((auto 3 1).ctx.csr.oppctl.extractLsb' 16 8).toNat = 0x40
    ∧ ¬(0x80 * (100 : BitVec 15).toNat ≤ 256 * (49 : BitVec 15).toNat) ∧ ¬(256 * (49 : BitVec 15).toNat ≤ 0x40 * (100 : BitVec 15).toNat)
    ∧ 0x80 * (100 : BitVec 15).toNat ≤ 256 * (50 : BitVec 15).toNat ∧ ¬(256 * (50 : BitVec 15).toNat ≤ 0x40 * (100 : BitVec 15).toNat)
    ∧ 256 * (25 : BitVec 15).toNat ≤ 0x40 * (100 : BitVec 15).toNat ∧ ¬(0x80 * (100 : BitVec 15).toNat ≤ 256 * (25 : BitVec 15).toNat)
    ∧ (auto 3 1).power.lowRuns = 0 ∧ (auto 3 1).power.highRuns = 0
    ∧ (let s := auto 2 1 fun p => { p with lowRuns := 1 }
      1 ≤ s.power.lowRuns ∧ s.power.floor < s.power.point)
    ∧ (let s := auto 6 1 fun p => { p with highRuns := 1 }
      1 ≤ s.power.highRuns ∧ s.power.point < s.ceiling) := by decide +kernel

/-- The core's arrival is the last of two at level 5. -/
def agreeing : State := withC u0 fun c => { c with doms := c.doms.set 5 { Dom.reset with exp := 2, own := 1, held := [0], arrived := 1 }, carried := 4 }

theorem witness_PowerController_agreement : (let d := agreeing.ctx.dom 5
      agreeing.live = true ∧ d.own = 1 ∧ d.held.length = 1 ∧ d.ahead = 0 ∧ d.pendingLeave = 0 ∧ d.broken = false ∧ d.exp ≠ 0 ∧ d.arrived + 1 = d.exp.toNat)
    ∧ (∀ q ∈ agreeing.ctx.rs.reqs ++ agreeing.sup.reqs, q.reply ≠ none) ∧ agreeing.comb = [] := by decide +kernel

theorem witness_PowerController_shares : (0 : BitVec 32) ≤ 0 ∧ (5 : BitVec 32) ≤ 5
    ∧ (∃ s : State, s.power.point < 7 ∧ s.ceiling < 7 ∧ s.power.slowdown = true)
    ∧ (let s := withC u0 fun c => { c with estimate := 8 }
      s.live = true ∧ s.parked = [] ∧ 0 < s.ctx.estimate + 8 ∧ 0 < s.ctx.estimate + 9 ∧ s.ctx.debit = 0 ∧ s.ctx.estimate + 9 ≤ 17) :=
  ⟨by decide, by decide, ⟨atPoint 1 0 fun p => { rich p with notices := [(0, 3)], slowdown := true }, by decide +kernel⟩, by decide +kernel⟩

/-- The module boots; a die's image is missing, not signed, of another key, or older than the minimum. -/
def booting : State := host fun h => { h with devst := 1, version := 1 }
def bootCode (i : Option DieImage) : BitVec 8 :=
  match i with
  | none => 4
  | some i => if i.signed = false then 1 else if i.keyHash ≠ booting.host.keyHash then 2 else if i.version < booting.host.version then 3 else 0

theorem witness_BringUpAndHost_images : booting.host.devst = 1
    ∧ bootCode (some { goodImage with version := 1, keyHash := booting.host.keyHash }) = 0 ∧ bootCode none = 4
    ∧ bootCode (some { goodImage with signed := false }) = 1 ∧ bootCode (some { goodImage with keyHash := booting.host.keyHash + 1 }) = 2
    ∧ bootCode (some { goodImage with keyHash := booting.host.keyHash }) = 3
    ∧ (∀ d < 8, (List.replicate 8 (some goodImage)).getD d none = some goodImage)
    ∧ (0x4000 : Word).getLsbD 15 = false ∧ (0x4000 : Word).getLsbD 14 = true := by decide +kernel

theorem witness_WindowPortsAndErrors_peers : (let s := { u0 with pexb := 1, pexl := 2 }
      s.peers[(15 : BitVec 4).toNat].up = true ∧ (0xFFFF : BitVec 40).toNat < s.pexb.toNat * 65536
      ∧ (s.pexb.toNat + s.pexl.toNat) * 65536 < (0x2FFF0 : BitVec 40).toNat + 17)
    ∧ u0.soft.contains 0x7000000000 = false ∧ ({ u0 with soft := [0x7000000000] } : State).soft.contains 0x7000000000 = true
    ∧ kv.feature featKVC = true ∧ u0.kvAny = false := by decide +kernel

/-- The read port's page table entry lies in a lost line. -/
def lostPort : State := { reading false with poison := [0] }

theorem witness_PortsFetchAndWrite_lost : Safety.memOk lostPort = true ∧ lostPort.fetchReady lostPort.ctx.ports[(3 : PortNo).toNat] = true
    ∧ lostPort.portAddr lostPort.ctx.ports[(3 : PortNo).toNat] 0 = some (0x10000, 256)
    ∧ (failure (({ lostPort with poison := [0x10000] } : State).span 0 .u .read 0x10000 256)).map (·.cause) = some .mchk
    ∧ (failure (({ lostPort with tlb := [] } : State).span 0 .u .read 0x10000 256)).map (·.cause) = some .mchk := by decide +kernel

theorem witness_CopiesEnd_supervisor : let s := { working [doneJob] with mode := .s }
    s.mode = .s ∧ s.ctx.later = [] ∧ (∀ f ∈ s.ctx.rs.flights, s.ctx.rs.tick < f.due) ∧ s.jobDone doneJob = true ∧ s.gateOpen doneJob = true
      ∧ doneJob.cfg.getLsbD 63 = false ∧ Safety.memOk s = true := by decide +kernel

/-! ### The further clauses of copies, matrix, versions, taps, kernels and steps -/

theorem witness_MatrixWords_droop : ({ u0 with power := { u0.power with droop := true } } : State).power.droop = true := rfl

/-- A load before a release fence, and the drain of a call behind it. -/
def behindFence : CallEntry := .call 0 9 2 false true false params [] none 0x40 3 1
def gatedDrain : State := withC draining fun c =>
  { c with running := some ⟨behindFence, Vector.replicate 8 0, 0, .waiting, [oneDrain], true⟩,
           rs := { c.rs with reqs := [{ aLoad with gate := some 0 }] } }

theorem witness_DrainsStore_gated : (∃ q ∈ gatedDrain.reqsOf draining.ctx.id, q.reply = none ∧ ∃ n, q.gate = some n ∧ n < behindFence.order)
    ∧ draining.callGated (run1 .waiting [oneDrain] true).entry = false :=
  ⟨⟨{ aLoad with gate := some 0 }, by decide +kernel, rfl, 0, rfl, by decide⟩, by decide +kernel⟩

/-- The rules of a vote at their edges: a line locked below and above, an entry newer than the snapshot, and none of them. -/
theorem witness_CommitsValidateAndFinalise_rules : (let es := entries [⟨4, 2, .locked, 0, false⟩]
      ∃ e ∈ es, e.st = .locked ∧ e.tid ≠ 3 ∧ e.stamp < 5)
    ∧ (let es := entries [⟨6, 2, .locked, 0, false⟩]
      (¬∃ e ∈ es, e.st = .locked ∧ e.tid ≠ 3 ∧ e.stamp < 5) ∧ ∃ e ∈ es, e.st = .locked ∧ e.tid ≠ 3 ∧ 5 < e.stamp)
    ∧ (let es := entries [⟨1, 0, .committed, 0, false⟩]
      (¬∃ e ∈ es, e.st = .locked ∧ e.tid ≠ 3 ∧ e.stamp < 5) ∧ ∃ e ∈ es, e.st = .committed ∧ aTxn.tsnap < e.stamp)
    ∧ (let es := entries [⟨0, 0, .committed, 0, false⟩]
      (¬∃ e ∈ es, e.st = .locked ∧ e.tid ≠ 3 ∧ e.stamp < 5) ∧ (¬∃ e ∈ es, e.st = .locked ∧ e.tid ≠ 3 ∧ 5 < e.stamp)
        ∧ ¬∃ e ∈ es, e.st = .committed ∧ aTxn.tsnap < e.stamp)
    ∧ (∀ es ∈ [entries [⟨4, 2, .locked, 0, false⟩], entries [⟨6, 2, .locked, 0, false⟩], entries [⟨1, 0, .committed, 0, false⟩], entries [⟨0, 0, .committed, 0, false⟩]],
      (committing es (aCommit [0] [0] false)).lineEntries 0x10000 = es ∧ (committing es (aCommit [0] [0] false)).linesOf 3 0 = [0x10000]
        ∧ (committing es (aCommit [0] [0] false)).parked = []) := by decide +kernel

/-- A commit is pending: the core's own, and that of a context which a notice names. -/
theorem witness_Transactions_pending : (let s := withC open3 fun c => { c with commit := some (aCommit [0] [0] false) }
      Turn 0 s ∧ s.behalf = s.ctx.id ∧ s.ctx.txn ≠ none ∧ s.ctx.commit ≠ none)
    ∧ (let s := servedFor { open3.ctx with commit := some (aCommit [0] [0] false) }
      Turn 0 s ∧ s.behalf ≠ s.ctx.id ∧ s.served.txn ≠ none ∧ s.served.commit ≠ none)
    ∧ open3.ctx.commit = none ∧ (servedFor open3.ctx).served.commit = none :=
  ⟨⟨turn_of (by decide) rfl, by decide +kernel⟩, ⟨turn_of (by decide) rfl, by decide +kernel⟩, by decide +kernel⟩

/-- The word of a RED in the L1: the copy leaves it at issue. -/
theorem witness_RedsCombine_cached : let u := popped [1, 2] { reducing [inComb] with l1 := [⟨0x10000, 5, false, 0⟩] }
    (u.evictL1 (u.physOf 0x10000) 8).l1 = []
      ∧ ((u.evictL1 (u.physOf 0x10000) 8).resolve (u.newReq (.red .add 5) 0x10000 8 .rlx 1 0)).toOption = some ⟨0x10000, false, false, 0⟩ := by decide +kernel

/-- HST to a versioned page. -/
theorem witness_HandleStoresOfVersions : (page u0 0x10000 0x10000 0x040).versionedAt 0x10000 = true ∧ (page u0 0x10000 0x10000 0x040).ctx.txn = none := by decide +kernel

theorem witness_MatrixControl_image : ((popped [1] image).readImage 0 0x10000).toOption = some (List.replicate 256 0, []) := by decide +kernel

/-- TAPX on a row of 64 zeros with set 0: one probe of layer 0 whose vector stands at `vec`; the map names a row of no sequence. -/
def probing (vec : Nat) : State :=
  withC { tapping with probes := bytesOf 64 (64 + 2 ^ 16) ++ bytesOf 64 (vec + 2 * 2 ^ 129 + 2 ^ 256), ptlog := 0x40000 } fun c =>
    { c with spm := Memory.setNum c.spm 0x800 8 0x1FFF }

theorem witness_TapsComplete_scores : let s := probing 0x50000
    let u := popped [1, 2] s
    Safety.memOk s = true ∧ s.live = true ∧ s.feature featTAPS = true ∧ s.ctx.taps.length < 4 ∧ src [1, 2] s 1 = 0 ∧ tapTrap 2 0x20800 0 s = none ∧ hDim1 (s.hreg 2) = 1
      ∧ u.rowMap 0x20800 1 = some [0x1FFF] ∧ (u.mxSpan .read (rowAddr (s.hreg 2) 0) (rowLen (s.hreg 2))).toOption.isSome = true
      ∧ u.probeSet 0 = some ⟨64, 0, [⟨0x50000, 0, 0, false, 2, 1⟩]⟩ ∧ (u.probeVec 0x50000 64).isSome = true
      ∧ ((popped [1, 2] (probing 0xFFFFFFFFFF)).probeVec 0xFFFFFFFFFF 64).isSome = false ∧ (0x1FFF : Nat) % 2 ^ 13 = 0x1FFF
      ∧ (s.fwRead 0x40000 24).isSome = true ∧ s.kvAny = false := by decide +kernel

/-- TAPX on a row of slot 5, which is steered by vector 0 of two, or by none; its set is none, or empty. -/
def steering (more : List (DField × Nat)) (sets : List Byte) : State :=
  let s := sequence (descriptor 2 1 ((dLMASK, 1) :: more))
  let t := withCsr (reg (hnd s 2 (img 0 0 0x0100000000010040 0x0001000000020000)) 1 0x20800) fun k => { k with tapgnt := 1, stcnt := 1, stbase := 0x18000 }
  withC { t with probes := sets, host := { t.host with accepted := 2 } } fun c => { c with spm := Memory.setNum c.spm 0x800 8 5 }

def emptySet : List Byte := bytesOf 64 64

theorem witness_TapsComplete_steers : (∀ p ∈ [([(dPROBE, 0xFF), (dSTSLOT, 0)], ([] : List Byte)), ([(dPROBE, 0), (dSTSLOT, 0)], emptySet)], (let s := steering p.1 p.2
      let u := popped [1, 2] s
      s.live = true ∧ s.feature featTAPS = true ∧ tapTrap 2 0x20800 0 s = none ∧ u.rowMap 0x20800 1 = some [5]
      ∧ u.boundDesc 5 = some (descriptor 2 1 ((dLMASK, 1) :: p.1)) ∧ 0 < s.ctx.csr.stcnt.toNat
      ∧ ((u.mxSpan .read (s.ctx.csr.stbase.setWidth 64) 128).toOption.bind fun vp =>
          ((u.readPieces none vp).2.mxSpan .write (rowAddr (s.hreg 2) 0) (rowLen (s.hreg 2))).toOption) = some [(⟨0xFE00000000, false, false, 0⟩, 128), (⟨0xFE00000080, false, false, 0⟩, 128)]))
    ∧ dGet (descriptor 2 1 [(dLMASK, 1), (dPROBE, 0), (dSTSLOT, 0)]) dSTSLOT = 0 ∧ dGet (descriptor 2 1 [(dLMASK, 1), (dPROBE, 0), (dSTSLOT, 0)]) dLMASK / 2 ^ 0 % 2 = 1
    ∧ (steering [(dPROBE, 0)] emptySet).probeSet 0 = some ⟨64, 0, []⟩ ∧ dGet (descriptor 2 1 [(dSTSLOT, 0xFFFF)]) dSTSLOT = 0xFFFF
    ∧ (steering [(dPROBE, 0xFF), (dSTSLOT, 1)] []).ctx.csr.stcnt.toNat ≤ dGet (descriptor 2 1 [(dLMASK, 1), (dPROBE, 0xFF), (dSTSLOT, 1)]) dSTSLOT := by decide +kernel

theorem witness_Preloads_warm : (page (inRun true [aKernel 1 .ready 0x210]) 0 0x10000).lostAt (0x12000 / 32 * 32) 32 = false := by decide +kernel

theorem witness_ContextsSwitchHere_banks : (∀ b ∈ guest.acmBanks, b ∈ guest.acmRes ∨ b ∉ u0.ctx.acmRes)
    ∧ (let c := { guest with acmBanks := [3], acmRes := [] }
      ∀ b ∈ c.acmBanks, b ∈ c.acmRes ∨ b ∉ u0.ctx.acmRes) := by decide +kernel

/-- The end of a member of another package, of a group of two packages, or of none. -/
theorem witness_KernelsEnd_elsewhere : (let k := { kern with record := BitVec.ofNat 1024 (2 * 2 ^ 336) }
      let s := withC (inRun true [k]) fun c => { c with kernel := k.id, doms := c.doms.set 5 { Dom.reset with exp := 2 } }
      let m : MemberEnd := ⟨1, 0, true, 32, true⟩
      Safety.memOk s = true ∧ s.findKernel k.id = some k ∧ k.st = .placed ∧ 1 < k.gcnt ∧ s.ctx.kernel = k.id ∧ m.elsewhere = true ∧ s.ctx.doms[5].exp ≠ 0
        ∧ m.leave = true ∧ m.arrived.getLsbD 5 = true ∧ ({ m with leave := false } : MemberEnd).leave = false)
    ∧ kern.gcnt ≤ 1 ∧ (⟨1, 7, true, 4, false⟩ : MemberEnd).elsewhere = false := by decide +kernel

/-- A request of another agent that can be served. -/
theorem witness_StepAgenda_foreign : u0.takeable (.requestAccepted (.foreign .snap)) = true := by decide +kernel

/-- A bundle of a request alone. -/
theorem witness_StepRunsRequest : let s := fetched (inS 0xB0 0)
    let t := (s.setRs { s.rs with npc := s.rs.pc + 32, wait := .none }).xposeTake
    (match exec (.oppRequest 3) t with | .next _ => True | _ => False) ∧ ∀ i ∈ Instr.nop 0 :: nops, isNop i = true := by
  refine ⟨?_, by decide +kernel⟩
  have h : (match exec (.oppRequest 3) ((fetched (inS 0xB0 0)).setRs { (fetched (inS 0xB0 0)).rs with npc := (fetched (inS 0xB0 0)).rs.pc + 32, wait := .none }).xposeTake with
    | .next _ => true | _ => false) = true := rfl
  revert h
  cases exec (.oppRequest 3) ((fetched (inS 0xB0 0)).setRs { (fetched (inS 0xB0 0)).rs with npc := (fetched (inS 0xB0 0)).rs.pc + 32, wait := .none }).xposeTake <;> simp

/-- A step that answers a next state, from the canonical memory of reset. -/
theorem witness_MemoriesStayCanonical : Safety.memOk State.reset = true ∧ ∃ t, step State.reset = .next t := ⟨by decide +kernel, _, rfl⟩

/-! ### Encodings -/

theorem witness_EncodeDecode : Instr.wf (.addi 0 1 2 5) = true ∧ encode (.addi 0 1 2 5) = some (.s addiWord) ∧ Enc.decode (.s addiWord) = .ok (.addi 0 1 2 5) :=
  ⟨by decide, rfl, rfl⟩

theorem witness_DecodeEncode : ∃ i, Enc.decode (.s addiWord) = .ok i := ⟨_, rfl⟩

def sWord (op : BitVec 8) (low : BitVec 42) : BitVec 56 := 0#6 ++ op ++ low
def vWord (op : BitVec 5) (ty : BitVec 3) (low : BitVec 22) : BitVec 36 := 0#6 ++ op ++ ty ++ low

/-! ### Assembly (expected words: the examples of chapters 16 and 17, R175, R308, R311 and R315) -/

def tokens (s : String) : List Tok := (lexLine (s.length + 1) s.toList).getD []
def slotsOf (s : String) : Option Slots := (statementBundle ⟨[⟨"loop", .code, 0⟩], 96⟩ (tokens s)).toOption.map Slots.ofBundle

theorem test_assembles_bundle : (slotsOf "opp 5 || (g2) add s5, s6, s7 || vadd.f32.v0 v1, v2, l1 || cpy.c1 ec3, h4, h5, ar").map Slots.bundle
    = some 0xD008045187000000002021420000000000000000000000000000242B80000000 := by decide +kernel

theorem test_assembles_branch : (slotsOf "br.nez s9, loop").map (·.s) = some 0x0141027FFFFFFD := by decide +kernel

theorem test_assembles_latency : (slotsOf "ld.d s4, [s5], lat 17").isNone = true ∧ (latField 64).toOption = some 0x1F ∧ (latField 20).toOption = some 0x14 := by
  decide +kernel

theorem test_assembles_vectors : (slotsOf "vadd.f32.v0 v1, v2, v3 || vmul.f32.v0 v3, v4, v5").isNone = true
    ∧ (slotsOf "vadd.f32.v0 v1, v2, v3 || vmul.f32 v3, v4, v5").isSome = true := by decide +kernel

theorem test_assembles_micro_word : (uwordOf ⟨[], 0⟩ (operandArgs (tokens
    "cellop=mac, bsrc=wb0, count=32, codew=q8, atype=e4m3, next=0, loop=1, popa, popb, drain, end"))).toOption = some 0x000803000F400000 := by decide +kernel

theorem test_assembles_handle : (handleOf ⟨[⟨"wpa", .data, 4096⟩], 0⟩ (operandArgs (tokens
    "kind=wdesc, base=wpa, planeb=1, planec=2, scales=4, dim0=3, dim1=64, dim2=1"))).toOption
    = some (BitVec.ofNat 256 (4096 + 4 * 2 ^ 48 + 3 * 2 ^ 64 + 64 * 2 ^ 80 + 2 ^ 96 + 2 ^ 112 + 2 * 2 ^ 134 + 4 * 2 ^ 156)) := by decide +kernel

theorem test_assembles_label : let p : AsmPlace := ⟨0, 192, 256, [⟨"fin", .code, 224⟩]⟩
    let a := Asm.lines p .empty [] [".kernel k, class=2, pre".toList, ".task 1".toList, "br fin".toList, "fin: exit 0".toList]
    a.code.reverse.map (fun b => (Slots.ofBundle b).s) = [0x01400000000001, 0x01540000000000] ∧ a.faults = [] := by decide +kernel

/-- A word for each clause, at the ends of its ranges. -/
theorem witness_FatesOfEncodings :
    [0x1A, 0x1F, 0x2A, 0x2F, 0x38, 0x3F, 0x49, 0x4F, 0x5F, 0x67, 0x6F, 0x7E, 0x7F, 0x87, 0x8A, 0x8F, 0x96, 0x97, 0x9A, 0xFF].all
      (fun op => decide (failure (decodeS (sWord op 0)) = some .illop)) = true
    ∧ [0x00, 0x53, 0x58, 0x5B, 0x5C, 0x5E, 0x81, 0x84].all (fun op => decide (failure (decodeS (sWord op (1#42 <<< 41))) = some .illslot)) = true
    ∧ [0x01, 0x12, 0x30, 0x32, 0x34, 0x35, 0x90].all (fun op => decide (failure (decodeS (sWord op (1#42 <<< 23))) = some .illslot)) = true
    ∧ [0x13, 0x14, 0x93, 0x94].all (fun op => decide (failure (decodeS (sWord op (1#42 <<< 29))) = some .illslot)) = true
    ∧ [0x24, 0x26].all (fun op => decide (failure (decodeS (sWord op (1#42 <<< 29))) = some .illslot ∧ failure (decodeS (sWord op (1#42 <<< 6))) = some .illslot)) = true
    ∧ failure (decodeS (sWord 0x50 (7#42 <<< 39))) = some .illop
    ∧ [0x41, 0x43].all (fun op => decide (failure (decodeS (sWord op 0x20)) = some .illslot)) = true
    ∧ [28, 31].all (fun op => decide (failure (decodeV .v0 (vWord op 0 0)) = some .illop)) = true ∧ failure (decodeV .v1 (vWord 0 4 0)) = some .illslot
    ∧ [7, 8, 9, 10, 11, 12, 21, 22, 23, 26].all (fun op => decide (failure (decodeV .v0 (vWord op 0 0x400)) = some .illslot)) = true
    ∧ [9, 12].all (fun op => decide (failure (decodeV .v0 (vWord op 3 0)) = some .illop ∧ failure (decodeV .v0 (vWord op 7 0)) = some .illop)) = true
    ∧ [19, 20].all (fun op => decide (failure (decodeV .v0 (vWord op 0 0)) = some .illop ∧ failure (decodeV .v0 (vWord op 2 0)) = some .illop)) = true := by decide +kernel

theorem witness_FatesOfEngines : failure (decodeM (2#32 <<< 24)) = some .illop ∧ failure (decodeM (3#32 <<< 24)) = some .illop ∧ failure (decodeM (1#32 <<< 23)) = some .illslot
    ∧ failure (decodeM (1#32 <<< 24 ||| 8)) = some .illslot ∧ failure (decodeC .c0 (12#32 <<< 21)) = some .illop ∧ failure (decodeC .c1 (31#32 <<< 21)) = some .illop
    ∧ failure (decodeC .c0 (1#32 <<< 20)) = some .illslot ∧ failure (decodeC .c0 (2#32 <<< 21)) = some .illop ∧ failure (decodeC .c0 (2#32 <<< 21 ||| 10)) = some .illop
    ∧ failure (decodeX (5#24 <<< 14)) = some .illop ∧ failure (decodeX (15#24 <<< 14)) = some .illop ∧ failure (decodeX (1#24 <<< 14 ||| 4)) = some .illslot
    ∧ failure (decodeX (1#24 <<< 14 ||| 3)) = some .illop ∧ failure (decodeHeader 1) = some .illslot ∧ failure (decodeHeader 0x10) = some .illslot
    ∧ (let p := Slots.ofBundle (inS 1 0); failure (decodeHeader p.header) = some .illslot)
    ∧ (let p := Slots.ofBundle (({ header := 0, s := sWord 0x1A 0, v0 := 0, v1 := 0, m := 0, c0 := 0, c1 := 0, x := 1#24 <<< 14 ||| 4 } : Slots).bundle)
      (decodeHeader p.header).toOption = some none ∧ failure (decodeS p.s) = some .illop ∧ failure (decodeX p.x) = some .illslot ∧ failure (decodeV .v0 p.v0) ≠ some .illslot
      ∧ failure (decodeV .v1 p.v1) ≠ some .illslot ∧ failure (decodeM p.m) ≠ some .illslot ∧ failure (decodeC .c0 p.c0) ≠ some .illslot ∧ failure (decodeC .c1 p.c1) ≠ some .illslot) := by
  decide +kernel

end Sys2Proof.Tests
end

/-! # The execution model (chapter 2): arrivals, launches, switches and the ends of kernels -/

namespace Sys2Proof.Proofs

open Sys2Proof Sys2Proof.Machine Sys2Proof.Claims Sys2Proof.Laws

/-! ### Acting on the running context -/

/-- An act that changes a live core's running context is done on it. -/
theorem anyCtx_running {s : State} {f : State → State} (live : s.live = true) (h : f s ≠ s) : s.anyCtx f = f s := by
  simp [State.anyCtx, live, h]

/-- Where no level-5 phase of the context has completed, the core keeps its point. -/
theorem followGroup_same {s t : State} (h : (t.ctx.dom 5).phc = (s.ctx.dom 5).phc) : s.followGroup t = t := by
  rw [State.followGroup, h, bne_self_eq_false, Bool.and_false, if_neg Bool.false_ne_true]

/-! ### Domain levels -/

theorem updDom_dom (c : Ctx) {l : BitVec 3} (h : l.toNat < 6) (f : Dom → Dom) : (c.updDom l f).dom l = f (c.dom l) := by
  simp [Ctx.updDom, Ctx.dom, h]

theorem updDom_dom_other (c : Ctx) {l k : BitVec 3} (h : l ≠ k) (f : Dom → Dom) : (c.updDom l f).dom k = c.dom k := by
  have h' : l.toNat ≠ k.toNat := fun e => h (BitVec.eq_of_toNat_eq e)
  simp [Ctx.updDom, Ctx.dom, List.getD_eq_getElem?_getD, List.getElem?_set_ne h']

/-- No phase completes while an arrival is missing. -/
theorem settle_waits {d : Dom} (h : d.arrived < d.exp.toNat) : d.settle = d := by
  have once : d.settleOnce = d := by simp [Dom.settleOnce, Nat.not_le.mpr h]
  rw [Dom.settle, once, once]

/-- The group's points are those agreed before where no level-5 phase has completed since. -/
theorem agree_same {c : Ctx} {before : BitVec 32} (h : (c.dom 5).phc = before) : c.agree before = c := by
  simp only [Ctx.agree, h, BitVec.sub_self]; rfl

/-- Below level 5 an arrival that is counted changes its domain alone. -/
theorem counted_below {c : Ctx} {l : BitVec 3} (h : l ≠ 5) (d : Dom) (p : BitVec 3) (a : Bool) :
    c.counted l d p a = c.updDom l fun _ => d.count a := by
  rw [Ctx.counted, Ctx.carry, if_pos h, agree_same (by rw [updDom_dom_other c h])]

/-- Below level 5 an arrival that leaves the domain `n` at its level changes nothing else. -/
theorem exec_arrival_below {s : State} {l : BitVec 3} {who : Arriver} {n : Dom} (live : s.live = true) (h : l.toNat < 5) (new : n ≠ s.ctx.dom l)
    (e : s.domainArrival l who = { s with ctx := s.ctx.updDom l fun _ => n }) :
    ∃ t, exec (.domainArrival l who) s = .next t ∧ t.ctx.dom l = n ∧ { t with ctx := { t.ctx with doms := s.ctx.doms } } = s := by
  have five : l ≠ 5 := fun e => by subst e; exact absurd h (by decide)
  have at_l : ({ s with ctx := s.ctx.updDom l fun _ => n } : State).ctx.dom l = n := updDom_dom _ (by omega) _
  have changes : s.domainArrival l who ≠ s := fun same => new (by rw [← at_l, ← e, same])
  refine ⟨{ s with ctx := s.ctx.updDom l fun _ => n }, ?_, at_l, rfl⟩
  change Host.Outcome.next (s.followGroup (s.anyCtx fun s => s.domainArrival l who)) = _
  rw [anyCtx_running live changes, e, followGroup_same (by rw [updDom_dom_other _ five])]

/-- An arrival's release is performed once every request has its reply and the combining buffer is empty. -/
theorem arrivalReady_of_replied {s : State} {l : BitVec 3} (held : (s.ctx.dom l).held ≠ []) (replied : ∀ q ∈ s.ctx.rs.reqs ++ s.sup.reqs, q.reply ≠ none)
    (comb : s.comb = []) : s.arrivalReady l = true := by
  obtain ⟨n, ns, e⟩ := List.exists_cons_of_ne_nil held
  have none_left : (s.ctx.rs.reqs ++ s.sup.reqs).any (fun q => q.reply.isNone && decide (q.id < n)) = false :=
    List.any_eq_false.mpr fun q m => by simp [replied q m]
  simp only [State.arrivalReady, e, none_left, comb, List.any_nil, Bool.not_false, Bool.and_self]

/-- Nothing stands in the way of an arrival at a whole domain of a live core. -/
theorem arrival_possible {s : State} {l : BitVec 3} (live : s.live = true) (whole : (s.ctx.dom l).broken = false) (h : l.toNat ≤ 5) :
    (!s.live || (s.ctx.dom l).broken || decide (l.toNat > 5)) = false := by
  rw [live, whole, decide_eq_false (by omega)]; rfl

/-- The core's own arrival below level 5 is counted once its release is performed (R42). -/
theorem domainArrival_own {s : State} {l : BitVec 3} (live : s.live = true) (whole : (s.ctx.dom l).broken = false) (h : l.toNat < 5)
    (ready : s.arrivalReady l = true) :
    s.domainArrival l .own = { s with ctx := s.ctx.updDom l fun _ =>
      ({ s.ctx.dom l with held := (s.ctx.dom l).held.tail } : Dom).count (decide (1 ≤ (s.ctx.dom l).ownCounted)) } := by
  have five : l ≠ 5 := fun e => by subst e; exact absurd h (by decide)
  simp only [State.domainArrival, arrival_possible live whole (by omega), Bool.false_eq_true, if_false, ready, if_true, State.ownArrive, counted_below five]

/-- Below level 5 another member's arrival is counted for the phase that has room for it (R43). -/
theorem domainArrival_package {s : State} {l : BitVec 3} {ahead : Bool} (live : s.live = true) (whole : (s.ctx.dom l).broken = false) (h : l.toNat < 5)
    (room : (s.ctx.dom l).otherRoom none false = some ahead) :
    s.domainArrival l .package = { s with ctx := s.ctx.updDom l fun _ => (if ahead then { s.ctx.dom l with nearAhead := (s.ctx.dom l).nearAhead + 1 }
      else { s.ctx.dom l with near := (s.ctx.dom l).near + 1 } : Dom).count ahead } := by
  have five : l ≠ 5 := fun e => by subst e; exact absurd h (by decide)
  have alone : s.nearMembers l = none := by simp only [State.nearMembers, five, false_and, if_false, Option.bind_fun_none]
  simp only [State.domainArrival, arrival_possible live whole (by omega), Bool.false_eq_true, if_false, State.otherArrive, alone, room, counted_below five]

/-- The last arrival completes the phase (R41): the next one starts with the arrivals made ahead, of which there are none, and none of the core's own is left. -/
theorem settle_completes {d : Dom} (last : d.arrived = d.exp.toNat) (exp : d.exp ≠ 0) (own : d.own = 1) (ahead : d.ahead = 0)
    (leaving : d.pendingLeave = 0) :
    d.settle = { d with phc := d.phc + 1, arrived := 0, own := 0, near := d.nearAhead, nearAhead := 0 } := by
  have some_expected : ¬ d.exp.toNat ≤ 0 := fun e => exp (BitVec.eq_of_toNat_eq (Nat.le_zero.mp e))
  have once : d.settleOnce = { d with phc := d.phc + 1, arrived := 0, own := 0, near := d.nearAhead, nearAhead := 0 } := by
    rw [Dom.settleOnce, if_pos ⟨Nat.le_of_eq last.symm, exp⟩, own, ahead, leaving, BitVec.sub_zero]
  rw [Dom.settle, once, Dom.settleOnce, if_neg fun h => some_expected h.1]

/-- Settles O32: below level 5 an arrival changes its own domain alone, so each clause is what `Dom.count` makes of that domain. -/
theorem domainArrivals : Obligations.DomainArrivals := by
  unfold Obligations.DomainArrivals
  intro s l live level d whole exp own leaving ahead held replied comb
  have low : l.toNat < 5 := by
    simp only [List.mem_cons, List.not_mem_nil, or_false] at level
    rcases level with rfl | rfl | rfl | rfl <;> decide
  obtain ⟨n, one⟩ := List.length_eq_one_iff.mp held
  have none_counted : d.ownCounted = 0 := by rw [Dom.ownCounted, own, held]
  have mine := domainArrival_own live whole low (arrivalReady_of_replied (fun e => absurd (one.symm.trans e) (List.cons_ne_nil _ _)) replied comb)
  rw [show (s.ctx.dom l).held.tail = [] by rw [show (s.ctx.dom l).held = [n] from one]; rfl,
    show (s.ctx.dom l).ownCounted = 0 from none_counted] at mine
  have new : ∀ e : Dom, e.held = [] → e ≠ d := fun e h same => absurd (h.symm.trans ((congrArg Dom.held same).trans one)) (List.cons_ne_nil _ _).symm
  refine ⟨fun more => ?_, fun last => ?_, fun more => ?_⟩
  · have count : ({ d with held := [] } : Dom).count false = { d with arrived := d.arrived + 1, held := [] } := settle_waits more
    exact exec_arrival_below live low (new _ rfl) (by rw [mine, ← count]; rfl)
  · have count := settle_completes (d := { d with arrived := d.arrived + 1, held := [] }) last exp own ahead leaving
    exact exec_arrival_below live low (new _ rfl) (by rw [mine, ← count]; rfl)
  · have room : d.otherRoom none false = some false := by
      have others : d.others = (d.arrived, d.ahead) := by rw [Dom.others, none_counted]; rfl
      rw [Dom.otherRoom, others]
      exact if_pos (by omega)
    have count : ({ d with near := d.near + 1 } : Dom).count false = { d with arrived := d.arrived + 1, near := d.near + 1 } := settle_waits more
    exact exec_arrival_below live low (fun same => absurd (congrArg Dom.arrived same) (Nat.succ_ne_self _))
      (by rw [domainArrival_package live whole low room, ← count]; rfl)

/-! ### Kernels found and changed -/

/-- What a search finds after the first match was changed into another match. -/
theorem find?_updFirst {α : Type} {p : α → Bool} {f : α → α} (h : ∀ x, p x = true → p (f x) = true) (l : List α) :
    (updFirst p f l).find? p = (l.find? p).map f := by
  induction l with
  | nil => rfl
  | cons x xs ih => cases e : p x <;> simp [updFirst, e, h, ih]

/-- A kernel changed under its own number is found as changed. -/
theorem findKernel_updKernel {s : State} {k : Kernel} {f : Kernel → Kernel} (found : s.findKernel k.id = some k) (same : ∀ x, (f x).id = x.id) :
    (s.updKernel k.id f).findKernel k.id = some (f k) := by
  change (updFirst _ f s.kernels).find? (·.id == k.id) = _
  rw [find?_updFirst (fun x h => by rwa [same]), show s.kernels.find? (·.id == k.id) = some k from found]; rfl

/-! ### What a warmed instruction cache leaves (R55) -/

/-- The state with another instruction cache and another counter of free values: what fetching a bundle ahead of its issue may change. -/
def refetched (s : State) (l : List ICacheLine) (d : Nat) : State := { s with icache := l, draws := d }

section
variable (s : State) (l : List ICacheLine) (d : Nat)

theorem refetched_readWindow (fuel pa n : Nat) : (refetched s l d).readWindow fuel pa n = s.readWindow fuel pa n := by
  induction fuel generalizing pa n with
  | zero => rfl
  | succ fuel ih => simp only [State.readWindow, ih]; rfl

theorem refetched_readMem (pa n : Nat) : (refetched s l d).readMem pa n = s.readMem pa n := by
  simp only [State.readMem, refetched_readWindow]; rfl

theorem refetched_readPa (pa n : Nat) : (refetched s l d).readPa pa n = s.readPa pa n := by
  simp only [State.readPa, refetched_readMem]; rfl

theorem refetched_numPa (pa n : Nat) : (refetched s l d).numPa pa n = s.numPa pa n := by
  rw [State.numPa, refetched_readPa, State.numPa]

theorem refetched_walk (va : Nat) (ls : List (Nat × Nat)) (tab : Nat) : (refetched s l d).walk va ls tab = s.walk va ls tab := by
  induction ls generalizing tab with
  | nil => rfl
  | cons x ls ih => simp only [State.walk, refetched_numPa, ih]

theorem refetched_walkLost (va : Nat) (ls : List (Nat × Nat)) (tab : Nat) : (refetched s l d).walkLost va ls tab = s.walkLost va ls tab := by
  induction ls generalizing tab with
  | nil => rfl
  | cons x ls ih => simp only [State.walkLost, refetched_numPa, ih]; rfl

theorem refetched_tableLost (atp : Word) (va : Nat) : (refetched s l d).tableLost atp va = s.tableLost atp va := by
  simp only [State.tableLost, refetched_walkLost]; rfl

theorem refetched_leafIn (atp : Word) (va : Nat) : (refetched s l d).leafIn atp va = s.leafIn atp va := by
  simp only [State.leafIn, refetched_walk]; rfl

theorem refetched_checkPlace (acc : Acc) (b : Bool) (pa n : Nat) : (refetched s l d).checkPlace acc b pa n = s.checkPlace acc b pa n := rfl

theorem refetched_translate (atp : Word) (m : Mode) (acc : Acc) (b : Bool) (va : Word) (n : Nat) :
    (refetched s l d).translate atp m acc b va n = s.translate atp m acc b va n := by
  simp only [State.translate, refetched_tableLost, refetched_leafIn, refetched_checkPlace]; rfl

theorem refetched_spanGo (atp : Word) (m : Mode) (acc : Acc) (ps : List (Nat × Nat)) :
    (refetched s l d).spanGo atp m acc ps = s.spanGo atp m acc ps := by
  induction ps with
  | nil => rfl
  | cons p ps ih => simp only [State.spanGo, refetched_translate, ih]

theorem refetched_countRead (pa : Nat) : (refetched s l d).countRead pa = refetched (s.countRead pa) l d := by
  have counted : (refetched s l d).counted = s.counted := rfl
  have mem : (refetched s l d).mem = s.mem := rfl
  simp only [State.countRead, counted, mem]
  cases s.counted.find? (·.line.toNat == lineOf pa) with
  | none => rfl
  | some c => by_cases h : c.count ≤ 1 <;> simp only [h, if_true, if_false, refetched]

theorem refetched_readPiece (view : Option Nat) (p : Pa) (n : Nat) :
    (refetched s l d).readPiece view p n = ((s.readPiece view p n).1, refetched (s.readPiece view p n).2 l d) := by
  have line : (refetched s l d).viewLine view (lineOf p.pa.toNat) = s.viewLine view (lineOf p.pa.toNat) := rfl
  simp only [State.readPiece, refetched_readPa, refetched_countRead, line]
  split <;> simp only

theorem refetched_readPieces (view : Option Nat) (ps : List (Pa × Nat)) : ((refetched s l d).readPieces view ps).1 = (s.readPieces view ps).1 := by
  induction ps generalizing s with
  | nil => rfl
  | cons p ps ih => simp only [State.readPieces, refetched_readPiece, ih]

/-- A preloaded image is the same whatever bundles the instruction cache holds. -/
theorem refetched_spmImage (atp va len : Word) : (refetched s l d).spmImage atp va len = s.spmImage atp va len := by
  simp only [State.spmImage, State.span, refetched_spanGo, refetched_readPieces]

end

/-! ### Launch records taken (R34, R35) -/

/-- A KDS that does not run, or does not watch the queue, takes nothing from it. -/
theorem launchTake_idle {s : State} {hdr atp : Word} {home : BitVec 3} (h : s.host.devst ≠ 3 ∨ s.watches hdr atp home = false) :
    s.launchTake hdr atp home = s := by
  have skip : (decide (s.host.devst ≠ 3) || !s.watches hdr atp home) = true := by simpa using h
  simp only [State.launchTake, skip, if_true]

section
variable {s s1 : State} {hdr atp : Word} {home : BitVec 3} {h q : Nat} (runs : s.host.devst = 3) (watched : s.watches hdr atp home = true)
  (header : s.kdsRead atp hdr 64 = some h) (running : bitsOf h 256 8 = 0) (more : bitsOf h 128 64 ≠ bitsOf h 192 64)
  (index : s.queueIndex hdr atp home = (q, s1))
include runs watched header running more index

/-- A record that cannot be read stops the queue with FETCH. -/
theorem launchTake_unread
    (unread : s1.kdsRead atp (BitVec.ofNat 64 (bitsOf h 0 48 + 128 * (bitsOf h 128 64 % 2 ^ bitsOf h 64 5))) 128 = none) :
    s.launchTake hdr atp home = s1.stopQueue hdr atp (bitsOf h 128 64) 8 := by
  simp only [State.launchTake, runs, watched, header, running, more, index, unread]
  rfl

/-- A record that is read is checked: one that fails stops the queue, another is taken where HEAD can be advanced. -/
theorem launchTake_read {r : Nat}
    (read : s1.kdsRead atp (BitVec.ofNat 64 (bitsOf h 0 48 + 128 * (bitsOf h 128 64 % 2 ^ bitsOf h 64 5))) 128 = some r) :
    let k := Kernel.fresh (s1.kernels.length + 1) q atp (BitVec.ofNat 1024 r)
    let table := s1.taskTable atp k.ttab k.ntask
    let e := s1.launchError k (bitsOf h 72 3) (decide (2 ^ bitsOf h 64 5 < (bitsOf h 192 64 + 2 ^ 64 - bitsOf h 128 64) % 2 ^ 64)) table
    (e ≠ 0 → s.launchTake hdr atp home = s1.stopQueue hdr atp (bitsOf h 128 64) e)
    ∧ ∀ t, e = 0 → s1.kdsWrite atp (hdr + 16) 8 (bitsOf h 128 64 + 1) = some t → s.launchTake hdr atp home =
      { t with kernels := t.kernels ++ [{ k with entries := (table.getD []).map fun x => (x.1, x.2.1, x.2.2.1) }] } := by
  intro k table e
  have unfolded : s.launchTake hdr atp home = if e ≠ 0 then s1.stopQueue hdr atp (bitsOf h 128 64) e
      else match s1.kdsWrite atp (hdr + 16) 8 (bitsOf h 128 64 + 1) with
        | none => s1
        | some t => { t with kernels := t.kernels ++ [{ k with entries := (table.getD []).map fun x => (x.1, x.2.1, x.2.2.1) }] } := by
    simp only [State.launchTake, runs, watched, header, running, more, index, read]
    rfl
  exact ⟨fun bad => by rw [unfolded, if_pos bad], fun t good written => by rw [unfolded, if_neg fun bad => bad good, written]⟩
end

/-! ### Dependences (R32, R36) -/

/-- A waiting kernel becomes ready when its dependences are met and none before it in its queue waits. -/
theorem dependenceCheck_ready {s : State} {k : Kernel} (found : s.findKernel k.id = some k) (waits : k.st = .waiting)
    (met : ∀ i < k.ndep, s.depMet k i = true) (first : ∀ x ∈ s.kernels, x.queue = k.queue → x.order < k.order → x.st ≠ .waiting) :
    s.dependenceCheck k.id = s.updKernel k.id fun k => { k with st := .ready } := by
  have all : (List.range k.ndep).all (s.depMet k) = true := List.all_eq_true.mpr fun i m => met i (List.mem_range.mp m)
  have none_before : s.kernels.any (fun x => x.queue == k.queue && decide (x.order < k.order) && x.st == .waiting) = false :=
    List.any_eq_false.mpr fun x m => by simpa using first x m
  simp only [State.dependenceCheck, found, waits, all, none_before]
  rfl

/-- A kernel with a dependence that is not met waits on. -/
theorem dependenceCheck_waits {s : State} {k : Kernel} (found : s.findKernel k.id = some k) {i : Nat} (lt : i < k.ndep) (unmet : s.depMet k i = false) :
    s.dependenceCheck k.id = s := by
  have all : (List.range k.ndep).all (s.depMet k) = false := List.all_eq_false.mpr ⟨i, List.mem_range.mpr lt, by simp [unmet]⟩
  simp [State.dependenceCheck, found, all]

/-! ### IDs of domains (R40, R46) -/

/-- The IDs picked are as many as asked, from 1 to 255, and none of those in use. -/
theorem pickIds_spec {used l : List Nat} {n start : Nat} (h : pickIds used n start = some l) :
    l.length = n ∧ ∀ i ∈ l, 1 ≤ i ∧ i ≤ 255 ∧ i ∉ used := by
  simp only [pickIds, Option.ite_none_right_eq_some, Option.some.injEq] at h
  obtain ⟨enough, rfl⟩ := h
  refine ⟨by rw [List.length_take, Nat.min_eq_left enough], fun i m => ?_⟩
  obtain ⟨ring, unused⟩ := List.mem_filter.mp (List.mem_of_mem_take m)
  obtain ⟨j, -, rfl⟩ := List.mem_map.mp ring
  exact ⟨by omega, by omega, by simpa using unused⟩

/-- The IDs of a kernel are picks of each level. -/
theorem idsFor_picks {s : State} {k : Kernel} {ids : List Nat × List Nat × Nat} (h : s.idsFor k = some ids) : ∃ p ps,
    pickIds (s.liveKernels.flatMap (·.clusterIds)) (k.dies * k.cpd) (Config.pick (s.draws + 0)) = some ids.1
    ∧ pickIds (s.liveKernels.flatMap (·.dieIds)) k.dies (Config.pick (s.draws + 1)) = some ids.2.1
    ∧ pickIds (s.liveKernels.map (·.packageId)) 1 (Config.pick (s.draws + 2)) = some (p :: ps) ∧ p = ids.2.2 := by
  simp only [State.idsFor] at h
  split at h
  · next c d p ps hc hd hp => cases h; exact ⟨p, ps, hc, hd, hp, rfl⟩
  · cases h

/-- A placed kernel is one whose domains live. -/
theorem mem_liveKernels {s : State} {x : Kernel} (m : x ∈ s.kernels) (placed : x.st = .placed) : x ∈ s.liveKernels :=
  List.mem_filter.mpr ⟨m, by rw [placed]; rfl⟩

/-! ### A context comes to the core (R38, R250) -/

/-- A ceiling applied changes the power state alone. -/
theorem applyCeiling_eq (s : State) : ∃ p, s.applyCeiling = { s with power := p } := by
  simp only [State.applyCeiling]
  split <;> exact ⟨_, rfl⟩

/-- Room is made by banks saved of contexts that do not run and by a preload given up. -/
theorem makeRoom_eq (s : State) (n : Nat) : ∃ ps pre, s.makeRoom n = { s with parked := ps, preloaded := pre } := by
  simp only [State.makeRoom]
  split <;> exact ⟨_, _, rfl⟩

/-- A context whose ACM banks are restored keeps all but the places of those banks. -/
theorem restoreAcm_eq (s : State) (c : Ctx) :
    ∃ banks acm regions ps, s.restoreAcm c = ({ c with acmBanks := banks, acm := acm, regions := regions }, { s with parked := ps }) := by
  simp only [State.restoreAcm]
  split
  · exact ⟨_, _, _, _, rfl⟩
  · exact ⟨_, _, _, _, rfl⟩

/-- What a switch to a context changes before its loads: the context runs, with all its banks in the core; memory and the kernels stay. -/
theorem switchIn_eq (s : State) (c : Ctx) : ∃ u banks acm regions, s.switchIn c = State.doLoad u
    ∧ u.live = true ∧ u.mode = s.mode ∧ u.mem = s.mem ∧ u.kernels = s.kernels
    ∧ u.ctx = { c with acmBanks := banks, acm := acm, regions := regions, rs := c.rs.resend c.csr.atp, sleep := none, pend := [], bankSet := true,
                       acmRes := banks, spmRes := c.spmBanks } := by
  obtain ⟨ps, pre, room⟩ := makeRoom_eq { s with parked := s.parked.filter (·.id != c.id) } c.spmBanks
  obtain ⟨banks, acm, regions, ps', restored⟩ := restoreAcm_eq { s with parked := ps, preloaded := pre } c
  simp only [State.switchIn, room, restored]
  obtain ⟨p, e⟩ := applyCeiling_eq _
  rw [e]
  exact ⟨_, banks, acm, regions, rfl, rfl, rfl, rfl, rfl, rfl⟩

/-- A task without images has nothing to load: its context starts with an empty scratchpad. -/
theorem doLoad_task {s : State} {k : Kernel} (live : s.live = true) (mode : s.mode = .u) (due : s.ctx.load = .task)
    (kernel : s.kernelOf s.ctx = some k) (image : (k.entry 1).2.1 = 0) (micro : k.mimg = 0) :
    s.doLoad = { s with ctx := { s.ctx with spm := [], full := [], load := .none } } := by
  simp only [State.doLoad, live, mode, due, kernel, State.spmImage, image, micro, true_or, if_true]
  rfl

/-- The scalar registers at the entry of task 1: arguments, rank, count and gr (Table 2.4). -/
theorem newCtx_s (s : State) (k : Kernel) (id : BitVec 16) (rank count : Nat) (dmr : Word) (doms : Vector Dom 6) (n : SReg) :
    ((s.newCtx k id rank count dmr doms).rs.s[n.toNat] : Word) = if n = 1 then k.args else if n = 2 then BitVec.ofNat 64 rank
      else if n = 3 then BitVec.ofNat 64 count else if n = 50 then 1 else 0 := by
  have eq_iff : ∀ m : SReg, n = m ↔ m.toNat = n.toNat := fun m => ⟨fun e => by rw [e], fun e => (BitVec.eq_of_toNat_eq e).symm⟩
  simp only [State.newCtx, Ctx.reset, RegSet.reset, Vector.getElem_set, Vector.getElem_replicate, eq_iff]
  grind

/-- Without a preload a new context's task is still to be loaded. -/
theorem newCtx_load {s : State} (fresh : s.preloaded = none) {k : Kernel} {id : BitVec 16} {rank count : Nat} {dmr : Word} {doms : Vector Dom 6} :
    (s.newCtx k id rank count dmr doms).load = .task := by simp [State.newCtx, fresh]

/-! ### Placement (R37, R38) -/

/-- A kernel placed on other cores takes them and its IDs, and nothing else changes. -/
theorem placeOn_elsewhere {s : State} {k : Kernel} {cores : List Nat} {ids : List Nat × List Nat × Nat} {id : Nat} (picked : s.idsFor k = some ids)
    (free : firstFree (s.contexts.map (·.id.toNat)) (2 ^ 16) (Config.pick (s.draws + 3)) (s.contexts.length + 1) = some id)
    (other : s.coreNum.toNat ∉ cores) : s.placeOn k cores = s.take k cores ids := by
  have away : cores.contains s.coreNum.toNat = false := by simpa using other
  simp only [State.placeOn, picked, free, away]
  rfl

/-- A kernel placed on this core as well starts its context here, with ACM banks of its own. -/
theorem placeOn_here {s : State} {k : Kernel} {cores : List Nat} {ids : List Nat × List Nat × Nat} {id : Nat} (picked : s.idsFor k = some ids)
    (free : firstFree (s.contexts.map (·.id.toNat)) (2 ^ 16) (Config.pick (s.draws + 3)) (s.contexts.length + 1) = some id)
    (mine : s.coreNum.toNat ∈ cores) : ∃ v c own, s.placeOn k cores = State.switchIn v c
      ∧ v.mode = s.mode ∧ v.mem = s.mem ∧ v.kernels = (s.take k cores ids).kernels
      ∧ c = { s.newCtx k (BitVec.ofNat 16 id) (rankOf cores s.coreNum.toNat) cores.length (dmrOf k cores s.coreNum.toNat ids) (kernelDoms k) with
                acmBanks := own } := by
  have here : cores.contains s.coreNum.toNat = true := by simpa using mine
  simp only [State.placeOn, picked, free, here]
  exact ⟨_, _, _, rfl, rfl, rfl, rfl, rfl⟩

/-- A kernel that fits is placed in its turn. -/
theorem placement_eq {s : State} {k : Kernel} {cores : List Nat} (found : s.findKernel k.id = some k) (fits : s.fit k = some cores)
    (turn : s.turn k = true) : s.placement k.id = s.placeOn k cores := by
  simp only [State.placement, found, fits, turn, if_true]

/-- A kernel that has taken cores is found with them. -/
theorem findKernel_take {s : State} {k : Kernel} (found : s.findKernel k.id = some k) (cores : List Nat) (ids : List Nat × List Nat × Nat) :
    (s.take k cores ids).findKernel k.id = some { k with st := .placed, cores := cores, live := cores, placedAt := s.seq, targets := [],
                                                         clusterIds := ids.1, dieIds := ids.2.1, packageId := ids.2.2 } :=
  findKernel_updKernel (s := s) found fun _ => rfl

/-- A context that starts without images on a core that has none runs its first bundle next, in the state of Table 2.4. -/
theorem placeOn_starts {s : State} {k : Kernel} {cores : List Nat} {ids : List Nat × List Nat × Nat} {id : Nat} (found : s.findKernel k.id = some k)
    (picked : s.idsFor k = some ids)
    (free : firstFree (s.contexts.map (·.id.toNat)) (2 ^ 16) (Config.pick (s.draws + 3)) (s.contexts.length + 1) = some id)
    (mine : s.coreNum.toNat ∈ cores) (mode : s.mode = .u) (fresh : s.preloaded = none) (micro : k.mimg = 0) (image : (k.entry 1).2.1 = 0) :
    ∃ banks acm regions, let t := s.placeOn k cores
      t.live = true ∧ t.mode = .u ∧ t.mem = s.mem ∧ t.ctx =
        { s.newCtx k (BitVec.ofNat 16 id) (rankOf cores s.coreNum.toNat) cores.length (dmrOf k cores s.coreNum.toNat ids) (kernelDoms k) with
          acmBanks := banks, acm := acm, regions := regions, bankSet := true, acmRes := banks, spmRes := k.spmb, spm := [], full := [], load := .none } := by
  obtain ⟨v, c, own, placed, mode_v, mem_v, kernels_v, start⟩ := placeOn_here picked free mine
  obtain ⟨u, banks, acm, regions, switched, live, mode_u, mem_u, kernels_u, ctx⟩ := switchIn_eq v c
  subst start
  have inU : u.mode = .u := (mode_u.trans mode_v).trans mode
  have due : u.ctx.load = .task := by simp only [ctx, newCtx_load fresh]
  have kernel : u.kernelOf u.ctx = (s.take k cores ids).findKernel k.id := by rw [State.kernelOf, kernels_u, kernels_v, ctx]; rfl
  refine ⟨banks, acm, regions, ?_⟩
  rw [placed, switched, doLoad_task live inU due (kernel.trans (findKernel_take found cores ids)) image micro]
  exact ⟨live, inU, mem_u.trans mem_v, by rw [ctx]; rfl⟩

/-! ### Preloads (R55) -/

/-- A fetched bundle changes the instruction cache and the counter of free values alone, and stands in the cache unless its bytes are lost. -/
theorem bundleFetched_eq (s : State) (pa : BitVec 40) : ∃ l d, s.bundleFetched pa = refetched s l d
    ∧ (s.lostAt (pa.toNat / 32 * 32) 32 = false → ∃ x ∈ l, x.pa.toNat = pa.toNat / 32 * 32) := by
  have entered : (BitVec.ofNat 40 (pa.toNat / 32 * 32)).toNat = pa.toNat / 32 * 32 := by
    rw [BitVec.toNat_ofNat]; omega
  by_cases held : s.icache.any (·.pa.toNat == pa.toNat / 32 * 32) = true
  · obtain ⟨x, m, e⟩ := List.any_eq_true.mp held
    refine ⟨s.icache, s.draws, ?_, fun _ => ⟨x, m, by simpa using e⟩⟩
    simp only [State.bundleFetched, held, Bool.true_or, if_true]; rfl
  · cases lost : s.lostAt (pa.toNat / 32 * 32) 32 with
    | true =>
      refine ⟨s.icache, s.draws, ?_, fun e => by cases e⟩
      simp only [State.bundleFetched, lost, Bool.or_true, if_true]; rfl
    | false =>
      simp only [State.bundleFetched, lost, held, Bool.or_false, Bool.false_eq_true, if_false]
      split <;> exact ⟨_, _, rfl, fun _ => ⟨_, List.mem_cons_self, entered⟩⟩

/-- Warming the cache for a kernel fetches its first bundle, where it can be fetched. -/
theorem warm_eq (s : State) (k : Kernel) : ∃ l d, s.warm k = refetched s l d
    ∧ ∀ p, s.translate k.atp .u .exec false (k.entry 1).1 32 = .ok p → s.lostAt (p.pa.toNat / 32 * 32) 32 = false →
      ∃ x ∈ l, x.pa.toNat = p.pa.toNat / 32 * 32 := by
  cases e : s.translate k.atp .u .exec false (k.entry 1).1 32 with
  | error f =>
    refine ⟨s.icache, s.draws, ?_, fun p h => by cases h⟩
    simp only [State.warm, e]; rfl
  | ok p =>
    obtain ⟨l, d, fetched, stands⟩ := bundleFetched_eq s p.pa
    refine ⟨l, d, ?_, fun p' h kept => by cases h; exact stands kept⟩
    simp only [State.warm, e, fetched]

/-- Nothing keeps a preload back of a kernel that asks for it and is not placed yet. -/
theorem preloads {s : State} {k : Kernel} (asked : k.pld = true) (early : k.st = .ready ∨ k.st = .waiting) (none_yet : s.preloaded = none)
    (live : s.live = true) : (!k.pld || !(k.st == KState.ready || k.st == KState.waiting) || s.preloaded.isSome || !s.live) = false := by
  rw [asked, none_yet, live]
  rcases early with e | e <;> rw [e] <;> rfl

section
variable {s : State} {k : Kernel} (found : s.findKernel k.id = some k) (asked : k.pld = true) (early : k.st = .ready ∨ k.st = .waiting)
  (none_yet : s.preloaded = none) (live : s.live = true)
include found asked early none_yet live

/-- A kernel that asks for it and is not placed yet is preloaded; without the banks for its image only the cache is warmed. -/
theorem preload_full (full : spmTotal < (s.contexts.map (·.spmRes)).foldl (fun a b => a + b) 0 + k.spmb) :
    s.preload k.id = { s.warm k with preloaded := some ⟨k.id, 0, [], []⟩ } := by
  simp only [State.preload, found, preloads asked early none_yet live, full, Bool.false_eq_true, if_false, if_true]

/-- With the banks, its image is read and the banks are tagged. -/
theorem preload_image {m : Mem} {g : List Nat} (room : (s.contexts.map (·.spmRes)).foldl (fun a b => a + b) 0 + k.spmb ≤ spmTotal)
    (image : s.spmImage k.atp (k.entry 1).2.1 (k.entry 1).2.2 = .ok (m, g)) :
    s.preload k.id = { s.warm k with preloaded := some ⟨k.id, k.spmb, m, g⟩ } := by
  obtain ⟨l, d, warm, -⟩ := warm_eq s k
  simp only [State.preload, found, preloads asked early none_yet live, Nat.not_lt.mpr room, Bool.false_eq_true, if_false, warm, refetched_spmImage, image]

end

/-- Settles O51: each part is what one act of the dispatcher does: taking a record, a check of dependences, the IDs picked, a placement, a preload. -/
theorem launchAndPlacement : Obligations.LaunchAndPlacement := by
  unfold Obligations.LaunchAndPlacement
  intro s
  refine ⟨fun hdr atp home idle => ?_, fun hdr atp home h q s1 runs watched header running more index => ⟨fun unread => ?_, fun r read => ?_⟩,
    fun k found waits => ⟨fun met first => ?_, fun unmet => ?_⟩, fun k ids picked => ?_,
    fun k cores ids id found fits turn picked free => ⟨fun other => ?_, fun mine idle mode fresh micro image => ?_⟩,
    fun k found asked early none_yet live => ?_⟩
  · exact congrArg Host.Outcome.next (launchTake_idle idle)
  · exact congrArg Host.Outcome.next (launchTake_unread runs watched header running more index unread)
  · obtain ⟨bad, good⟩ := launchTake_read runs watched header running more index read
    exact ⟨fun e => congrArg Host.Outcome.next (bad e), fun t e written =>
      ⟨_, congrArg Host.Outcome.next (good t e written), rfl, _, rfl, rfl, rfl, rfl, rfl⟩⟩
  · exact ⟨_, congrArg Host.Outcome.next (dependenceCheck_ready found waits met first), findKernel_updKernel found fun _ => rfl, rfl⟩
  · obtain ⟨i, lt, e⟩ := unmet
    exact congrArg Host.Outcome.next (dependenceCheck_waits found lt e)
  · obtain ⟨p, ps, clusters, dies, package, rfl⟩ := idsFor_picks picked
    obtain ⟨clusterCount, cluster⟩ := pickIds_spec clusters
    obtain ⟨dieCount, die⟩ := pickIds_spec dies
    obtain ⟨low, high, unused⟩ := (pickIds_spec package).2 ids.2.2 List.mem_cons_self
    refine ⟨clusterCount, dieCount, fun i m => ?_, fun i m => ?_, low, high, fun x mx placed e => ?_⟩
    · obtain ⟨l, h, free⟩ := cluster i m
      exact ⟨l, h, fun x mx placed held => free (List.mem_flatMap.mpr ⟨x, mem_liveKernels mx placed, held⟩)⟩
    · obtain ⟨l, h, free⟩ := die i m
      exact ⟨l, h, fun x mx placed held => free (List.mem_flatMap.mpr ⟨x, mem_liveKernels mx placed, held⟩)⟩
    · exact unused (List.mem_map.mpr ⟨x, mem_liveKernels mx placed, e.symm⟩)
  · exact ⟨_, congrArg Host.Outcome.next ((placement_eq found fits turn).trans (placeOn_elsewhere picked free other)),
      findKernel_take found cores ids, rfl, rfl, rfl⟩
  · obtain ⟨banks, acm, regions, live, inU, mem, ctx⟩ := placeOn_starts found picked free mine mode fresh micro image
    refine ⟨_, congrArg Host.Outcome.next (placement_eq found fits turn), live, inU, mem, ?_⟩
    rw [ctx]
    have registers := newCtx_s s k (BitVec.ofNat 16 id) (rankOf cores s.coreNum.toNat) cores.length (dmrOf k cores s.coreNum.toNat ids) (kernelDoms k)
    exact ⟨rfl, rfl, rfl, rfl, rfl, rfl, rfl, registers, fun h => Vector.getElem_replicate _, rfl, rfl, rfl, rfl, rfl, rfl⟩
  · intro used warmed
    obtain ⟨l, d, warm, stands⟩ := warm_eq s k
    refine ⟨fun full => ?_, fun m g room loads => ?_⟩
    · refine ⟨_, congrArg Host.Outcome.next (preload_full found asked early none_yet live full), rfl, ?_⟩
      rw [warm]
      exact ⟨by rw [← none_yet]; rfl, stands⟩
    · refine ⟨_, congrArg Host.Outcome.next (preload_image found asked early none_yet live room loads), rfl, ?_⟩
      rw [warm]
      exact ⟨by rw [← none_yet]; rfl, stands⟩

/-! ### The resume after a notice (R250) -/

/-- A load that has been sent and has no reply. -/
def sentLoad : Req :=
  { id := 0, kind := .load false, va := 0, bytes := 8, ord := .rlx, scope := 0, rcn := 0, bundle := 0, tick := 0, mode := .u, pa := none,
    reply := none, gate := none, txn := none, view := none }

/-- A context with that load under way has overrun: its handler serves the notice, and the load is withdrawn. -/
def overrunWithLoad : State :=
  ({ State.reset with live := true, ctx := { Ctx.reset with rs := { RegSet.reset with reqs := [sentLoad] } } } : State).notice 1

/-- With nothing to load, CTXCMD resume gives back the context as the handler found it, with a fresh allowance: what `leaveS` sends again is not kept. -/
theorem cmdResume_ctx {s : State} (load : s.ctx.load = .none) (image : s.ctx.csr.msimg = 0) : s.cmdResume.ctx = { s.ctx with runTime := 0 } := by
  have loaded : ∀ {u : State}, u.ctx = { s.ctx with runTime := 0 } → u.doLoad = u := by
    intro u e
    simp [State.doLoad, e, load, State.needsStore, image]
  rw [State.cmdResume, loaded rfl]

/-- CTXCMD resume answers a notice (R250). -/
theorem exec_ctxcmdResume {s : State} (notice : s.atNotice = true) : exec .ctxcmdResume s = .next s.cmdResume := by
  change Host.Outcome.next (if s.atNotice then s.cmdResume else s) = _
  rw [if_pos notice]

/-- Refutes O52: the context resumed after an overrun still holds its load as withdrawn, where R247 has it sent again. `State.cmdResume` puts the context of
before `State.leaveS` back, and with it the withdrawn requests. -/
theorem not_contextsSwitch : ¬ Obligations.ContextsSwitch := by
  unfold Obligations.ContextsSwitch
  intro h
  obtain ⟨-, -, -, -, -, answers, -⟩ := h overrunWithLoad
  obtain ⟨⟨t, run, -, ctx, -⟩, -⟩ := answers rfl (by decide) rfl (by decide)
  rw [exec_ctxcmdResume (by decide)] at run
  rw [← Host.Outcome.next.inj run, cmdResume_ctx rfl (by decide)] at ctx
  have withdrawn : overrunWithLoad.ctx.rs.reqs.map (·.away) = [true] := by decide
  have sent : (overrunWithLoad.ctx.rs.resend overrunWithLoad.ctx.csr.atp).reqs.map (·.away) = [false] := by decide
  have same := congrArg (fun c : Ctx => c.rs.reqs.map (·.away)) ctx
  exact absurd (withdrawn.symm.trans (same.trans sent)) (by decide)

/-! ### Ends of kernels and of their members (R33, R45, R48) -/

theorem sub_one_toNat {x : BitVec 32} (h : x ≠ 0) : (x - 1).toNat = x.toNat - 1 := by
  bv_omega

/-- Closing a kernel's record changes the record and what the host has been told, nothing else. -/
theorem closeKernel_eq (s : State) (k : Kernel) :
    ∃ h, s.closeKernel k = { s.updKernel k.id fun k => { k with st := .ended, live := [] } with host := h } := by
  simp only [State.closeKernel]
  repeat' split
  all_goals exact ⟨_, rfl⟩

/-- A point that the group agrees on changes the power state alone. -/
theorem followGroup_eq (s t : State) : ∃ p, s.followGroup t = { t with power := p } := by
  simp only [State.followGroup, State.agreed]
  repeat' split
  all_goals exact ⟨_, rfl⟩

theorem agree_doms (c : Ctx) (before : BitVec 32) : (c.agree before).doms = c.doms := by
  simp only [Ctx.agree]
  repeat' split
  all_goals rfl

/-- A member that has gone breaks or shrinks the domains that it shared with the context, and no other. -/
theorem memberGone_dom (core : Nat) (m : MemberEnd) (c : Ctx) (l : Fin 6) : (c.memberGone core m).doms[l] =
    if sharedWith m core l.val && c.doms[l].exp != 0 then
      (if m.leave then c.doms[l].leave (m.arrived.getLsbD l.val) !m.elsewhere else c.doms[l].break_) else c.doms[l] := by
  rw [Ctx.memberGone, agree_doms]
  simp

/-- Another member of a kernel ends: a core of this package retires from the kernel, and the kernel's context here loses the member. -/
theorem kernelEnd_member {s : State} {k : Kernel} {m : MemberEnd} (found : s.findKernel k.id = some k) (other : s.otherMember k m = true) :
    ∃ t, exec (.kernelEnd k.id (some m)) s = .next t ∧ t.mem = s.mem
      ∧ t.kernels = (if m.elsewhere then s else s.updKernel k.id fun k => k.retire m.core m.result).kernels
      ∧ t.ctx = (if s.ctx.kernel = k.id then s.ctx.memberGone s.coreNum.toNat m else s.ctx) := by
  refine ⟨s.memberEnd k m, ?_, ?_⟩
  · change Host.Outcome.next (s.kernelEnd k.id (some m)) = _
    simp only [State.kernelEnd, found]
  · rw [State.memberEnd, other]
    obtain ⟨p, e⟩ := followGroup_eq s _
    simp only [Bool.not_true, Bool.false_eq_true, if_false]
    rw [e]
    cases m.elsewhere <;> exact ⟨rfl, rfl, rfl⟩

/-- The end of another member of a kernel that cannot end changes nothing. -/
theorem kernelEnd_noMember {s : State} {k : Kernel} {m : MemberEnd} (found : s.findKernel k.id = some k) (none : s.otherMember k m = false) :
    exec (.kernelEnd k.id (some m)) s = .next s := by
  change Host.Outcome.next (s.kernelEnd k.id (some m)) = _
  simp only [State.kernelEnd, found, State.memberEnd, none, Bool.not_false, if_true]

/-- A write to memory laid out in plain pages leaves kernels and the context as they are. -/
theorem laid_write_keeps {s : State} {base : Nat} {va : Word} {n : Nat} {ps : List (Pa × Nat)} (h : Laid s base va n ps) (rcn : Nat) (bs : List Byte)
    (hl : bs.length = n) :
    ∃ t, s.writePieces rcn ps bs = .ok t ∧ t.mem = Memory.write s.mem base bs ∧ t.kernels = s.kernels ∧ t.ctx = s.ctx := by
  obtain ⟨l1, sl, po, e⟩ := laid_write h rcn bs hl
  exact ⟨_, e, rfl, rfl, rfl⟩

/-- A kernel ends whose every core has retired: the word after DONE's count takes its result (R33). -/
theorem kernelEnd_all {s : State} {k : Kernel} {base : Nat} {ps : List (Pa × Nat)} (wf : Memory.wf s.mem = true) (found : s.findKernel k.id = some k)
    (placed : k.st = .placed) (retired : k.live = []) (span : s.span k.atp .s .write k.done 16 = .ok ps) (laid : Laid s base k.done 16 ps) :
    ∃ t, exec (.kernelEnd k.id none) s = .next t
      ∧ Stored s.mem t.mem base (bytesOf 8 ((Memory.num s.mem base 8 + 1) % 2 ^ 64) ++ bytesOf 8 k.result.toNat)
      ∧ t.findKernel k.id = some { k with st := .ended } ∧ t.ctx = s.ctx := by
  have count : natOf ((s.readPieces none ps).1.take 8) = Memory.num s.mem base 8 := by
    rw [laid_read laid, Memory.num, show 16 = 8 + 8 from rfl, read_append, List.take_left' (read_length _ _ _)]
  obtain ⟨u, written, mem, kernels, ctx⟩ := laid_write_keeps laid 0 (bytesOf 8 ((Memory.num s.mem base 8 + 1) % 2 ^ 64) ++ bytesOf 8 k.result.toNat)
    (by rw [List.length_append, bytesOf_length, bytesOf_length])
  have run : s.kernelEnd k.id none = u.closeKernel k := by
    simp only [State.kernelEnd, found, placed, retired, span, laid_lock laid, count, written]
    rfl
  obtain ⟨h, closed⟩ := closeKernel_eq u k
  refine ⟨u.closeKernel k, congrArg Host.Outcome.next run, ?_⟩
  rw [closed]
  refine ⟨?_, ?_, ctx⟩
  · change Stored s.mem u.mem base _
    rw [mem]; exact stored_write wf base _
  · rw [← retired]
    exact findKernel_updKernel (s := u) (by rwa [State.findKernel, kernels]) (fun _ => rfl)

/-- Settles O53: the record of a kernel is found again after each change of it, and a member that has gone touches the domains it shared alone. -/
theorem kernelsEnd : Obligations.KernelsEnd := by
  unfold Obligations.KernelsEnd
  intro s k base ps ok found placed
  refine ⟨kernelEnd_all (memOk_mem ok) found placed, fun runs => ?_, fun m here live other => ?_, fun m away group mine => ?_, fun m away alone => ?_⟩
  · change Host.Outcome.next (s.kernelEnd k.id none) = _
    have some_live : k.live.isEmpty = false := List.isEmpty_eq_false_iff.mpr (List.ne_nil_of_mem runs)
    simp only [State.kernelEnd, found, some_live, Bool.not_false, Bool.or_true, if_true]
  · obtain ⟨t, run, mem, kernels, ctx⟩ := kernelEnd_member (m := m) found (by simp [State.otherMember, placed, here, live, other])
    refine ⟨t, run, ?_, fun mine l shared exp => ?_, fun others => ?_, mem⟩
    · rw [State.findKernel, kernels, here]
      exact findKernel_updKernel found (fun _ => rfl)
    · rw [if_pos mine] at ctx
      have gone := memberGone_dom s.coreNum.toNat m s.ctx l
      simp only [sharedWith, here, shared, Bool.false_eq_true, if_false, Bool.true_and, bne_iff_ne.mpr exp, if_true, Bool.not_false] at gone
      rw [ctx, gone]
      refine ⟨fun breaks => by rw [breaks]; rfl, fun leaves arrived => by rw [leaves, arrived]; rfl, fun leaves missing more => ?_⟩
      rw [leaves, missing]
      exact settle_waits (by rwa [sub_one_toNat exp])
    · rw [ctx, if_neg others]
  · obtain ⟨t, run, -, kernels, ctx⟩ := kernelEnd_member (m := m) found (by simp [State.otherMember, placed, away, group])
    rw [if_pos mine] at ctx
    have gone := memberGone_dom s.coreNum.toNat m s.ctx
    simp only [sharedWith, away, if_true, Bool.not_true] at gone
    have five : s.ctx.doms[5].exp ≠ 0 → (s.ctx.memberGone s.coreNum.toNat m).doms[5] =
        if m.leave then s.ctx.doms[5].leave (m.arrived.getLsbD 5) false else s.ctx.doms[5].break_ :=
      fun exp => (gone 5).trans (if_pos (Bool.and_eq_true_iff.mpr ⟨rfl, bne_iff_ne.mpr exp⟩))
    refine ⟨t, run, by rw [kernels, away]; rfl, fun l other => ?_, fun exp breaks => ?_, fun exp leaves arrived => ?_⟩
    · rw [ctx, gone, beq_false_of_ne other]; rfl
    · rw [ctx]
      exact (five exp).trans (by rw [breaks]; rfl)
    · rw [ctx]
      exact (five exp).trans (by rw [leaves, arrived]; rfl)
  · exact kernelEnd_noMember found (by simp [State.otherMember, away, alone])

end Sys2Proof.Proofs

/-! # Number formats (chapter 4): NaNs, invalid operations and values that a format holds -/

namespace Sys2Proof.Proofs

open Sys2Proof Sys2Proof.Machine Sys2Proof.Claims Sys2Proof.Laws

/-! ### NaNs and invalid operations (R85, R352) -/

/-- A subnormal pattern's value is its mantissa at the format's least exponent. -/
theorem decode_of_isSubnormal {f : FFmt} {w : Nat} (eb : 2 ≤ f.eb) (sub : f.isSubnormal w = true) :
    ∃ neg, f.decode w = .fin neg (w % 2 ^ f.mb) (f.emin - f.mb) := by
  obtain ⟨ex, -⟩ := Bool.and_eq_true_iff.mp sub
  have ex : w / 2 ^ f.mb % 2 ^ f.eb = 0 := eq_of_beq ex
  have not_top : ¬ 0 = 2 ^ f.eb - 1 := by
    have := Nat.pow_le_pow_right Nat.zero_lt_two eb
    omega
  exact ⟨_, by simp only [FFmt.decode, ex, not_top, false_and, if_false, if_true]; rfl⟩

/-- A pattern is read as its value, or, under FTZ, as a zero in place of a finite one (R89). -/
theorem readFtz_cases {f : FFmt} (eb : 2 ≤ f.eb) (ftz : Bool) (w : Nat) :
    readFtz f ftz w = f.decode w
      ∨ ∃ neg neg' m e, readFtz f ftz w = .fin neg 0 0 ∧ f.decode w = .fin neg' m e := by
  cases h : ftz && f.isSubnormal w with
  | false => exact .inl (by simp only [readFtz, h, Bool.false_eq_true, if_false])
  | true =>
    obtain ⟨neg, value⟩ := decode_of_isSubnormal eb (Bool.and_eq_true_iff.mp h).2
    exact .inr ⟨_, neg, _, _, by simp only [readFtz, h, if_true]; rfl, value⟩

/-- FTZ makes and takes no NaN. -/
theorem readFtz_isNaN {f : FFmt} (eb : 2 ≤ f.eb) (ftz : Bool) (w : Nat) : (readFtz f ftz w).isNaN = (f.decode w).isNaN := by
  obtain same | ⟨_, _, _, _, read, value⟩ := readFtz_cases eb ftz w
  · rw [same]
  · rw [read, value]; rfl

/-- FTZ leaves a NaN as signalling or quiet as it is. -/
theorem readFtz_isSNaN {f : FFmt} (eb : 2 ≤ f.eb) (ftz : Bool) (w : Nat) : (readFtz f ftz w).isSNaN = (f.decode w).isSNaN := by
  obtain same | ⟨_, _, _, _, read, value⟩ := readFtz_cases eb ftz w
  · rw [same]
  · rw [read, value]; rfl

@[simp] theorem neg_isNaN (x : FV) : x.neg.isNaN = x.isNaN := by cases x <;> rfl
@[simp] theorem neg_isSNaN (x : FV) : x.neg.isSNaN = x.isSNaN := by cases x <;> rfl

/-- A sum with a NaN is a quiet NaN, invalid for a signalling operand only. -/
theorem add_of_isNaN (dn : Bool) {x y : FV} (h : (x.isNaN || y.isNaN) = true) : FV.add dn x y = (.nan false, x.isSNaN || y.isSNaN) := by
  cases x with
  | nan a => cases y <;> simp [FV.add, FV.isSNaN]
  | inf _ | fin _ _ _ =>
    cases y with
    | nan b => rfl
    | inf _ | fin _ _ _ => exact absurd h Bool.false_ne_true

/-- A product with a NaN is a quiet NaN, invalid for a signalling operand only. -/
theorem mul_of_isNaN {x y : FV} (h : (x.isNaN || y.isNaN) = true) : FV.mul x y = (.nan false, x.isSNaN || y.isSNaN) := by
  cases x with
  | nan a => cases y <;> simp [FV.mul, FV.isSNaN]
  | inf _ | fin _ _ _ =>
    cases y with
    | nan b => rfl
    | inf _ | fin _ _ _ => exact absurd h Bool.false_ne_true

/-- A NaN in any operand of x × y + z makes the result a quiet NaN. -/
theorem fma_of_isNaN (dn : Bool) {x y z : FV} (h : (x.isNaN || y.isNaN || z.isNaN) = true) : (FV.fma dn x y z).1 = .nan false := by
  have operand : ((FV.mul x y).1.isNaN || z.isNaN) = true := by
    cases xy : x.isNaN || y.isNaN with
    | false => rw [xy, Bool.false_or] at h; rw [h, Bool.or_true]
    | true => rw [mul_of_isNaN xy]; rfl
  exact congrArg Prod.fst (add_of_isNaN dn operand)

/-- An invalid product makes x × y + z invalid, whatever z is. -/
theorem fma_of_invalid (dn : Bool) {x y : FV} (z : FV) (h : FV.mul x y = (.nan false, true)) : FV.fma dn x y z = (.nan false, true) := by
  have sum := add_of_isNaN dn (x := .nan false) (y := z) rfl
  simp only [FV.fma, h, sum, Bool.true_or]

/-- A quiet NaN is written as the canonical one, with NV where the operation was invalid. -/
theorem finish_nan (ftz : Bool) (m : Rnd) (invalid : Bool) :
    finish fmtF32 ftz m (.nan false, invalid) = (0x7FC00000, if invalid then 0x80 else 0) := by
  have canonical : fmtF32.nanBits = 0x7FC00000 := by decide
  have normal : fmtF32.isSubnormal 0x7FC00000 = false := by decide
  cases invalid <;> simp [finish, roundTo, writeFtz, canonical, normal, flagIf, flagNV]

theorem readFtz_posInf (ftz : Bool) : readFtz fmtF32 ftz 0x7F800000 = .inf false := by cases ftz <;> rfl
theorem readFtz_negInf (ftz : Bool) : readFtz fmtF32 ftz 0xFF800000 = .inf true := by cases ftz <;> rfl
theorem readFtz_zero (ftz : Bool) : readFtz fmtF32 ftz 0 = .fin false 0 (-149) := by cases ftz <;> rfl

/-- 0 × ∞ is invalid. -/
theorem mul_posInf_zero (ftz : Bool) : FV.mul (readFtz fmtF32 ftz 0x7F800000) (readFtz fmtF32 ftz 0) = (.nan false, true) := by
  rw [readFtz_posInf, readFtz_zero]; rfl

/-! ### A value of the format is its own rounding (R90, R91) -/

/-- A multiple of the grid's unit is not rounded, in any mode. -/
theorem roundAt_of_le {q e : Int} (h : q ≤ e) (mode : Rnd) (neg : Bool) (m : Nat) : roundAt mode neg m e q = (m * 2 ^ (e - q).toNat, false) :=
  if_pos h

/-- A significand on the grid that its own magnitude asks for, and within the format, is written as it is. -/
theorem roundFin_of_grid {f : FFmt} {m : Nat} {e : Int} (pos : m ≠ 0) (small : m < 2 ^ (f.mb + 1))
    (grid : max (e + (Nat.log2 m : Int) - f.mb) (f.emin - f.mb) = e)
    (fits : ¬ (f.emax - f.mb < e ∨ (e = f.emax - f.mb ∧ f.maxSig < m))) (sat : Bool) (mode : Rnd) (neg : Bool) :
    roundFin f sat mode neg m e = (f.encode neg m e, 0) := by
  have same : roundAt mode neg m e e = (m, false) := by rw [roundAt_of_le (Int.le_refl e), Int.sub_self, Int.toNat_zero, Nat.pow_zero, Nat.mul_one]
  simp only [roundFin, if_neg pos, grid, same, if_neg (Nat.ne_of_lt small), if_neg fits, flagIf, Bool.false_and, Bool.false_eq_true, if_false]
  rfl

/-- A subnormal significand is its own rounding. -/
theorem roundFin_subnormal {f : FFmt} (eb : 2 ≤ f.eb) {m : Nat} (small : m < 2 ^ f.mb) (sat : Bool) (mode : Rnd) (neg : Bool) :
    roundFin f sat mode neg m (f.emin - f.mb) = (f.signBit neg + m, 0) := by
  obtain rfl | pos := Decidable.em (m = 0)
  · rfl
  have log : Nat.log2 m < f.mb := (Nat.log2_lt pos).mpr small
  have room : f.emin < f.emax := by
    have := Nat.pow_le_pow_right Nat.zero_lt_two eb
    simp only [FFmt.emin, FFmt.emax]
    split <;> omega
  have written : f.encode neg m (f.emin - f.mb) = f.signBit neg + m := if_pos small
  rw [roundFin_of_grid pos (by rw [Nat.pow_succ]; omega) (Int.max_eq_right (by omega)) (by omega), written]

/-- A normal significand is its own rounding. -/
theorem roundFin_normal {f : FFmt} {ex mant : Nat} (pos : ex ≠ 0) (small : mant < 2 ^ f.mb)
    (fits : ¬ (f.emax + f.bias < ex ∨ ((ex : Int) = f.emax + f.bias ∧ f.maxSig < 2 ^ f.mb + mant))) (sat : Bool) (mode : Rnd) (neg : Bool) :
    roundFin f sat mode neg (2 ^ f.mb + mant) ((ex : Int) - f.bias - f.mb) = (f.signBit neg + ex * 2 ^ f.mb + mant, 0) := by
  have nonzero : 2 ^ f.mb + mant ≠ 0 := by have := Nat.two_pow_pos f.mb; omega
  have log : Nat.log2 (2 ^ f.mb + mant) = f.mb := (Nat.log2_eq_iff nonzero).mpr ⟨by omega, by rw [Nat.pow_succ]; omega⟩
  have written : f.encode neg (2 ^ f.mb + mant) ((ex : Int) - f.bias - f.mb) = f.signBit neg + ex * 2 ^ f.mb + mant := by
    have exponent : ((ex : Int) - f.bias - f.mb + f.mb + f.bias).toNat = ex := by omega
    rw [FFmt.encode, if_neg (by omega), exponent, Nat.add_sub_cancel_left]
  have grid : (f.emin : Int) - f.mb ≤ ex - f.bias - f.mb := by simp only [FFmt.emin]; omega
  rw [roundFin_of_grid nonzero (by rw [Nat.pow_succ]; omega) (by rw [log]; omega) (by omega), written]

/-- Fields that are those of no infinity and no NaN are at or below the largest finite value's. -/
theorem fits_of_not_special {f : FFmt} {ex mant : Nat} (eb : 2 ≤ f.eb) (ex_lt : ex < 2 ^ f.eb) (mant_lt : mant < 2 ^ f.mb)
    (special : ¬ (ex = 2 ^ f.eb - 1 ∧ (f.infs ∨ mant = 2 ^ f.mb - 1))) :
    ¬ (f.emax + f.bias < ex ∨ ((ex : Int) = f.emax + f.bias ∧ f.maxSig < 2 ^ f.mb + mant)) := by
  have four := Nat.pow_le_pow_right Nat.zero_lt_two eb
  simp only [FFmt.emax, FFmt.maxSig, Nat.pow_succ']
  generalize 2 ^ f.eb = E at *
  generalize 2 ^ f.mb = M at *
  cases infs : f.infs with
  | false =>
    simp only [infs, Bool.false_eq_true, false_or, if_false] at special ⊢
    omega
  | true =>
    simp only [infs, true_or, and_true, if_true] at special ⊢
    omega

/-- A pattern is its sign, exponent and mantissa fields. -/
theorem pattern_eq_fields {f : FFmt} {w : Nat} (h : w < 2 ^ f.width) :
    f.signBit (decide (w / 2 ^ (f.eb + f.mb) % 2 = 1)) + w / 2 ^ f.mb % 2 ^ f.eb * 2 ^ f.mb + w % 2 ^ f.mb = w := by
  have low := Nat.div_add_mod w (2 ^ f.mb)
  have high := Nat.div_add_mod (w / 2 ^ f.mb) (2 ^ f.eb)
  rw [Nat.div_div_eq_div_mul, ← Nat.pow_add, Nat.add_comm f.mb] at high
  have sign : f.signBit (decide (w / 2 ^ (f.eb + f.mb) % 2 = 1)) = 2 ^ f.mb * 2 ^ f.eb * (w / 2 ^ (f.eb + f.mb)) := by
    rw [FFmt.width, Nat.add_assoc, Nat.add_comm, Nat.pow_succ] at h
    have top : w / 2 ^ (f.eb + f.mb) < 2 := Nat.div_lt_of_lt_mul h
    obtain zero | one := Nat.le_one_iff_eq_zero_or_eq_one.mp (Nat.lt_succ_iff.mp top)
    · rw [zero]; rfl
    · rw [one, Nat.mul_one, ← Nat.pow_add, Nat.add_comm f.mb]; rfl
  calc _ = 2 ^ f.mb * (2 ^ f.eb * (w / 2 ^ (f.eb + f.mb)) + w / 2 ^ f.mb % 2 ^ f.eb) + w % 2 ^ f.mb := by rw [sign, Nat.mul_add, Nat.mul_comm (w / 2 ^ f.mb % 2 ^ f.eb), ← Nat.mul_assoc]
    _ = w := by rw [high, low]

/-- A value that the format holds is its own rounding in every mode, with no flag. -/
theorem roundTo_decode {f : FFmt} (eb : 2 ≤ f.eb) (sat : Bool) (mode : Rnd) {w : Nat} (h : w < 2 ^ f.width) (num : (f.decode w).isNaN = false) :
    roundTo f sat mode (f.decode w) = (w, 0) := by
  have fields := pattern_eq_fields h
  have ex_lt : w / 2 ^ f.mb % 2 ^ f.eb < 2 ^ f.eb := Nat.mod_lt _ (Nat.two_pow_pos _)
  have mant_lt : w % 2 ^ f.mb < 2 ^ f.mb := Nat.mod_lt _ (Nat.two_pow_pos _)
  simp only [FFmt.decode] at num ⊢
  generalize decide (w / 2 ^ (f.eb + f.mb) % 2 = 1) = neg at *
  generalize w / 2 ^ f.mb % 2 ^ f.eb = ex at *
  generalize w % 2 ^ f.mb = mant at *
  by_cases special : ex = 2 ^ f.eb - 1 ∧ (f.infs = true ∨ mant = 2 ^ f.mb - 1)
  · by_cases infinite : f.infs = true ∧ mant = 0
    · obtain ⟨infs, rfl⟩ := infinite
      obtain ⟨rfl, -⟩ := special
      simp only [infs, true_or, and_self, if_true, roundTo, FFmt.infBits]
      rw [← fields, Nat.add_zero]
    · rw [if_pos special, if_neg infinite] at num
      cases num
  · rw [if_neg special]
    by_cases zero : ex = 0
    · rw [if_pos zero, ← fields, zero, Nat.zero_mul, Nat.add_zero]
      exact roundFin_subnormal eb mant_lt sat mode neg
    · rw [if_neg zero, ← fields]
      exact roundFin_normal zero mant_lt (fits_of_not_special eb ex_lt mant_lt special) sat mode neg

/-- Settles O5: every operation makes one quiet NaN of a NaN or of an invalid pair, and a decoded pattern lies on the grid that its rounding takes. -/
theorem floatSpecialCases : Obligations.FloatSpecialCases := by
  unfold Obligations.FloatSpecialCases
  refine ⟨fun ftz m x y z => ?_, fun f mem m sat w => ?_⟩
  · have nan := readFtz_isNaN (f := fmtF32) (by decide) ftz
    have snan := readFtz_isSNaN (f := fmtF32) (by decide) ftz
    simp only [← nan, ← snan]
    refine ⟨fun h => ⟨?_, ?_, ?_⟩, fun h => ?_, ?_, ?_, ?_⟩
    · rw [fpAdd, add_of_isNaN _ h, finish_nan]
    · rw [fpSub, add_of_isNaN _ (by rwa [neg_isNaN]), neg_isSNaN, finish_nan]
    · rw [fpMul, mul_of_isNaN h, finish_nan]
    · rw [fpFma, ← Prod.eta (FV.fma ..), fma_of_isNaN _ h, finish_nan]
    · rw [fpAdd, readFtz_posInf, readFtz_negInf]
      exact finish_nan ftz m true
    · rw [fpMul, mul_posInf_zero]
      exact finish_nan ftz m true
    · rw [fpFma, fma_of_invalid _ _ (mul_posInf_zero ftz)]
      exact finish_nan ftz m true
  · have eb : 2 ≤ f.eb := (by decide : ∀ g ∈ [fmtF32, fmtF16, fmtBF16, fmtE4M3, fmtE5M2], 2 ≤ g.eb) f mem
    exact roundTo_decode eb sat m

end Sys2Proof.Proofs

/-! # The matrix unit (chapter 8): weight buffers, calls, micro-words and drains -/

namespace Sys2Proof.Proofs

open Sys2Proof Sys2Proof.Machine Sys2Proof.Claims Sys2Proof.Laws

/-! ### The running context, found and changed by its ID -/

theorem findCtx_running {s : State} (live : s.live = true) : s.findCtx s.ctx.id = some s.ctx := by
  rw [State.findCtx, State.contexts, if_pos live]
  exact List.find?_cons_of_pos (beq_self_eq_true _)

theorem updCtx_running {s : State} (live : s.live = true) (f : Ctx → Ctx) : s.updCtx s.ctx.id f = { s with ctx := f s.ctx } := by
  rw [State.updCtx, live, beq_self_eq_true]; rfl

/-! ### The weight buffers (R178 to R180) -/

/-- What a computation ends with, its last part ends with. -/
theorem last_of_bind_ok {ε α β : Type} {x : Except ε α} {f : α → Except ε β} {r : β} (h : (x >>= f) = .ok r) : ∃ a, f a = .ok r := by
  cases x with
  | error e => cases h
  | ok a => exact ⟨a, h⟩

theorem last_of_ite_bind_ok {ε α β : Type} {p : Prop} [Decidable p] {x y : Except ε α} {f : α → Except ε β} {r : β}
    (h : (if p then x >>= f else y >>= f) = .ok r) : ∃ a, f a = .ok r := by
  split at h <;> exact last_of_bind_ok h

/-- A unit is delivered at the width that its planes give. -/
theorem weightUnit_width {s : State} {j : Job} {mask : BitVec 2} {g b : Nat} {e : WbEntry} (h : s.weightUnit j mask g b = .ok e) : e.width = mask := by
  obtain ⟨planeA, h⟩ := last_of_bind_ok h
  obtain ⟨planeB, h⟩ := last_of_ite_bind_ok h
  obtain ⟨planeC, h⟩ := last_of_ite_bind_ok h
  obtain ⟨scales, h⟩ := last_of_bind_ok h
  obtain ⟨supers, h⟩ := last_of_bind_ok h
  cases h
  rfl

/-- An entry joins one weight buffer. -/
def pushWb (wb1 : Bool) (e : WbEntry) (c : Ctx) : Ctx := if wb1 then { c with wb1 := c.wb1 ++ [e] } else { c with wb0 := c.wb0 ++ [e] }

theorem pushWb_wb (wb1 : Bool) (e : WbEntry) (c : Ctx) : (pushWb wb1 e c).wb wb1 = c.wb wb1 ++ [e] := by cases wb1 <;> rfl
theorem pushWb_wb_other (wb1 : Bool) (e : WbEntry) (c : Ctx) : (pushWb wb1 e c).wb (!wb1) = c.wb (!wb1) := by cases wb1 <;> rfl
theorem pushWb_rs (wb1 : Bool) (e : WbEntry) (c : Ctx) : (pushWb wb1 e c).rs = c.rs := by cases wb1 <;> rfl
theorem pushWb_acm (wb1 : Bool) (e : WbEntry) (c : Ctx) : (pushWb wb1 e c).acm = c.acm := by cases wb1 <;> rfl

section
variable {s : State} {j : Job} {wb1 : Bool} {mask : BitVec 2} (only : s.jobs = [j])
include only

theorem findJob_only : s.findJob j.id = some j := by
  rw [State.findJob, only]
  exact List.find?_cons_of_pos (beq_self_eq_true _)

theorem updJob_only (f : Job → Job) : s.updJob j.id f = { s with jobs := [f j] } := by
  rw [State.updJob, only, updFirst, if_pos (beq_self_eq_true _)]

/-- The core's own request, once it has been started, delivers its next block. -/
theorem wbFill_own (op : j.op = .wstr wb1 mask) (started : s.started j = true) (fine : j.fail = none) (ready : j.ready = true) :
    s.wbFill (.own j.id) = s.wbNext j wb1 mask := by
  have begun : s.startWstr j = (j, s) := by rw [State.startWstr, if_pos ready]
  simp only [State.wbFill, findJob_only only, op, started, fine, begun]
  rfl

section
variable (live : s.live = true) (alive : s.ctx.dead = false) (mine : j.acc = s.ctx.id.toNat + 1)
include live alive mine

omit only in
/-- The request is for the running context. -/
theorem wbTarget_running : BitVec.ofNat 16 (j.acc - 1) = s.ctx.id ∧ (s.findCtx s.ctx.id).filter (!·.dead) = some s.ctx := by
  refine ⟨by rw [mine, Nat.add_sub_cancel, BitVec.ofNat_toNat, BitVec.setWidth_eq], ?_⟩
  rw [findCtx_running live, Option.filter_some_pos (by rw [alive]; rfl)]

/-- A weight buffer with a free entry takes the next block of the only request. -/
theorem wbNext_enters {e : WbEntry} (more : j.done.length < j.nch) (room : (s.ctx.wb wb1).length < 4)
    (unit : s.weightUnit j mask (hDim0 j.dst) (hDim1 j.dst + j.done.length) = .ok e) :
    s.wbNext j wb1 mask = { s with ctx := pushWb wb1 e s.ctx, jobs := [{ j with done := j.done ++ [j.done.length] }] } := by
  obtain ⟨target, runs⟩ := wbTarget_running live alive mine
  simp only [State.wbNext, target, runs, only, List.any_cons, List.any_nil, Nat.lt_irrefl, decide_false, Bool.false_and, Bool.or_false, Bool.false_eq_true,
    false_or, Nat.not_le.mpr more, Nat.not_le.mpr room, if_false, unit, updCtx_running live]
  exact updJob_only (s := { s with ctx := pushWb wb1 e s.ctx, jobs := [j] }) rfl _

omit only in
/-- A full weight buffer takes nothing. -/
theorem wbNext_full (full : 4 ≤ (s.ctx.wb wb1).length) : s.wbNext j wb1 mask = s := by
  obtain ⟨target, runs⟩ := wbTarget_running live alive mine
  simp only [State.wbNext, target, runs, full, or_true, if_true]

end
end

/-- A request of another core of the running context's kernel takes the last place among the requests. -/
theorem wstrArrives_last {s : State} {w : WstrIn} (live : s.live = true) (kernel : s.ctx.kernel = w.kernel) (src : handleOk w.src = true)
    (weights : weightOk w.src = true) (req : handleOk w.req = true) (request : requestOk w.src w.req = true) :
    ∃ k, s.wstrArrives w = { s with seq := s.seq + 1, jobs := s.jobs ++ [k] } ∧ k.op = .wstrIn w.wb1 w.mask ∧ k.src = w.src ∧ k.dst = w.req
      ∧ k.nch = hDim2 w.req ∧ k.acc = s.ctx.id.toNat + 1 := by
  have taken : (s.live && s.ctx.kernel == w.kernel && handleOk w.src && weightOk w.src && handleOk w.req && requestOk w.src w.req) = true := by
    simp only [live, kernel, beq_self_eq_true, src, weights, req, request, Bool.and_self]
  rw [State.wstrArrives, if_pos taken]
  exact ⟨_, rfl, rfl, rfl, rfl, rfl, rfl⟩

/-- Settles O42: the only request's next block enters where it names, and a request that arrives comes after it. -/
theorem weightsEnter : Obligations.WeightsEnter := by
  unfold Obligations.WeightsEnter
  intro s j wb1 mask e only op started fine ready live alive mine more
  have own : exec (.wbEntryFill (.own j.id)) s = .next (s.wbNext j wb1 mask) := congrArg Host.Outcome.next (wbFill_own only op started fine ready)
  refine ⟨fun unit room => ?_, fun full => ?_, fun w kernel src weights req request => ?_⟩
  · rw [wbNext_enters only live alive mine more room unit] at own
    exact ⟨_, own, pushWb_wb .., pushWb_wb_other .., weightUnit_width unit, findJob_only (j := { j with done := j.done ++ [j.done.length] }) rfl, rfl,
      pushWb_rs .., pushWb_acm ..⟩
  · rw [own, wbNext_full live alive mine full]
  · obtain ⟨k, arrives, named⟩ := wstrArrives_last live kernel src weights req request
    obtain ⟨opk, srck, dst, nch, acc⟩ := named
    exact ⟨_, k, congrArg Host.Outcome.next arrives, by rw [only]; rfl, opk, srck, dst, nch, acc, rfl⟩

/-! ### The head of the call queue (R185, R188) -/

/-- A read of memory in which no line is counted changes nothing. -/
theorem readPieces_uncounted {s : State} (none_counted : s.counted = []) (view : Option Nat) (ps : List (Pa × Nat)) : (s.readPieces view ps).2 = s := by
  have count : ∀ a, s.countRead a = s := fun a => by rw [State.countRead, none_counted]; rfl
  have piece : ∀ p n, (s.readPiece view p n).2 = s := fun p n => by
    simp only [State.readPiece, count]
    split <;> rfl
  induction ps with
  | nil => rfl
  | cons p ps ih => simp only [State.readPieces, piece, ih]

/-- Bit `i` of the number that bytes make stands in byte `i / 8`. -/
theorem testBit_natOf (bs : List Byte) (i : Nat) : (natOf bs).testBit i = (bs.getD (i / 8) 0).getLsbD (i % 8) := by
  induction bs generalizing i with
  | nil => simp [natOf]
  | cons b bs ih =>
    have low : b.toNat < 2 ^ 8 := b.isLt
    rw [natOf, Nat.add_comm, show 256 = 2 ^ 8 from rfl, Nat.testBit_two_pow_mul_add _ low]
    split
    · next h => rw [Nat.div_eq_of_lt h, Nat.mod_eq_of_lt h]; rfl
    · next h =>
      rw [ih, show i / 8 = (i - 8) / 8 + 1 by omega, show i % 8 = (i - 8) % 8 by omega]; rfl

/-- A written mask tile: the bitmap's square takes its bits, the rest stays, all ones first where MASKLD says so. -/
theorem maskWrite_getLsbD (tile : Vector (BitVec 160) 128) (sb : Word) (bits : List Byte) (r : Fin 128) {n : Nat} (hn : n < 160) :
    let row0 := 64 * (sb.toNat % 2)
    let col0 := 32 * (sb.toNat / 2 % 8)
    (maskWrite tile sb bits)[r].getLsbD n = if row0 ≤ r.val ∧ r.val < row0 + 64 ∧ col0 ≤ n ∧ n < col0 + 64
      then (bits.getD (8 * (r.val - row0) + (n - col0) / 8) 0).getLsbD ((n - col0) % 8)
      else sb.getLsbD 8 || tile[r].getLsbD n := by
  intro row0 col0
  have old : (if sb.getLsbD 8 then BitVec.allOnes 160 else tile[r]).getLsbD n = (sb.getLsbD 8 || tile[r].getLsbD n) := by
    cases sb.getLsbD 8 with
    | false => rfl
    | true => rw [if_pos rfl, BitVec.getLsbD_allOnes, decide_eq_true hn, Bool.true_or]
  have row : (maskWrite tile sb bits)[r] = if row0 ≤ r.val ∧ r.val < row0 + 64
      then setBits (if sb.getLsbD 8 then BitVec.allOnes 160 else tile[r]) col0 64 (natOf ((bits.drop (8 * (r.val - row0))).take 8))
      else if sb.getLsbD 8 then BitVec.allOnes 160 else tile[r] := by
    simp [maskWrite, row0, col0]
  generalize (if sb.getLsbD 8 then BitVec.allOnes 160 else tile[r]) = was at old row
  rw [row]
  by_cases rows : row0 ≤ r.val ∧ r.val < row0 + 64
  · rw [if_pos rows, setBits_getLsbD _ _ _ _ _ hn, old, testBit_natOf]
    by_cases cols : col0 ≤ n ∧ n < col0 + 64
    · have byte : ((bits.drop (8 * (r.val - row0))).take 8).getD ((n - col0) / 8) 0 = bits.getD (8 * (r.val - row0) + (n - col0) / 8) 0 := by
        simp only [List.getD_eq_getElem?_getD, List.getElem?_take, List.getElem?_drop]
        rw [if_pos (by omega)]
      rw [if_pos cols, if_pos ⟨rows.1, rows.2, cols⟩, byte]
    · rw [if_neg cols, if_neg fun h => cols h.2.2]
  · rw [if_neg rows, if_neg fun h => rows ⟨h.1, h.2.1⟩, old]

/-- A region that takes no BUMP is as it was. -/
theorem bumpRegion_zero (c : Ctx) (k : BitVec 3) : c.bumpRegion k 0 = c := by
  have same : (c.region k).map (fun r : Region => { r with version := r.version + BitVec.ofNat 8 0 }) = c.regions[k.toNat] := by
    rw [show BitVec.ofNat 8 0 = 0#8 from rfl]
    simp only [BitVec.add_zero, Option.map_id']
    rfl
  rw [Ctx.bumpRegion, same, Vector.set_getElem_self]

theorem bumpRegion_region (c : Ctx) (k : BitVec 3) (n : Nat) {g : Region} (held : c.region k = some g) :
    (c.bumpRegion k n).region k = some { g with version := g.version + BitVec.ofNat 8 n } := by
  rw [Ctx.region, Ctx.bumpRegion, Vector.getElem_set_self, held]
  rfl

/-- A call as it starts: at the first word of its routine, its loop counts those of the captured parameters. -/
def startedCall (e : CallEntry) : Running :=
  { entry := e, cnt := Vector.ofFn fun i => mCnt e.mps i.val, off := 0, stage := .waiting, drains := [], ended := false }

section
variable {s : State} {r v : BitVec 8} {k : BitVec 3} {pop bump ignv : Bool} {mp : Vector Word 8} {nm : List HReg} {hd : Option HReg} {b : Word} {t n : Nat}
  {es : List CallEntry} (idle : s.ctx.running = none) (head : s.ctx.calls = .call r v k pop bump ignv mp nm hd b t n :: es)
include idle head

/-- The call at the head starts once its region has the version it names, or any where it names none. -/
theorem callStart_starts {g : Region} (held : s.ctx.region k = some g) (routine : s.ctx.routineLen r.toNat ≠ 0) (current : ignv = true ∨ g.version = v) :
    s.callStart = { s with ctx := { s.ctx with calls := es, running := some (startedCall (.call r v k pop bump ignv mp nm hd b t n)) } } := by
  have current : (ignv || g.version == v) = true := by simpa using current
  simp only [State.callStart, idle, head, held, routine, current, if_false, if_true]
  rfl

/-- A region of another version keeps the call waiting. -/
theorem callStart_waits {g : Region} (held : s.ctx.region k = some g) (routine : s.ctx.routineLen r.toNat ≠ 0) (named : ignv = false)
    (other : g.version ≠ v) : s.callStart = s := by
  have other : (ignv || g.version == v) = false := by simp [named, other]
  simp only [State.callStart, idle, head, held, routine, other, if_false, Bool.false_eq_true]

/-- A call on a region that is not allocated is an ACM trap of its MCALL. -/
theorem callStart_unallocated (none_held : s.ctx.region k = none) :
    s.callStart = (s.endCall []).pend (mkBoundary .acm 3 b t (k.setWidth 64)) := by
  simp only [State.callStart, idle, head, none_held]
  rfl

end

/-- MASKLD at the head of the queue writes the bitmap that it reads, once the granules it asks for are full. -/
theorem maskLoad_writes {s : State} {sa sb b : Word} {t : Nat} {es : List CallEntry} {ps : List (Pa × Nat)} (idle : s.ctx.running = none)
    (head : s.ctx.calls = .mask sa sb b t :: es) (span : s.mxSpan .read sa 512 = .ok ps) (none_counted : s.counted = [])
    (full : sb.getLsbD 9 = false ∨ s.piecesFull ps = true) :
    s.maskLoad = { s with ctx := { s.ctx with calls := es, maskTile := maskWrite s.ctx.maskTile sb (s.readPieces none ps).1 } } := by
  have full : (sb.getLsbD 9 && !s.piecesFull ps) = false := by
    rcases full with e | e <;> rw [e]
    · rfl
    · rw [Bool.not_true, Bool.and_false]
  simp only [State.maskLoad, idle, head, span, full, Bool.false_eq_true, if_false, readPieces_uncounted none_counted]

section
variable {s : State} {x : Running} (runs : s.ctx.running = some x)
include runs

/-- A call waits for its drains. -/
theorem callEnd_waits (left : x.drains ≠ []) : s.callEnd = s := by
  have left : (!x.ended || !x.drains.isEmpty) = true := by simp [left]
  simp only [State.callEnd, runs, left, if_true]

/-- An ended call without POP whose drains are performed leaves the unit, and its region takes the BUMP. -/
theorem callEnd_ends {bump : Bool} (flags : x.entry.flags = (false, bump)) (ended : x.ended = true) (drained : x.drains = []) :
    s.callEnd = { s with ctx := ({ s.ctx with running := none } : Ctx).bumpRegion x.entry.regionNo (if bump then 1 else 0) } := by
  simp only [State.callEnd, runs, ended, drained, flags]
  rfl

end

/-- Settles O44: each step of the unit at the head or at the end of a call is one branch of its function. -/
theorem callsStartAndEnd : Obligations.CallsStartAndEnd := by
  unfold Obligations.CallsStartAndEnd
  intro s
  refine ⟨?starts, ?mask, ?ends⟩
  case starts =>
    intro r v k pop bump ignv mp nm hd b t n es g e idle head
    exact ⟨fun held routine current => congrArg Host.Outcome.next (callStart_starts idle head held routine current),
      fun held routine named other => congrArg Host.Outcome.next (callStart_waits idle head held routine named other),
      fun none_held => ⟨_, congrArg Host.Outcome.next (callStart_unallocated idle head none_held), rfl, rfl⟩⟩
  case mask =>
    intro sa sb b t es ps idle head span none_counted full _ _
    exact ⟨_, congrArg Host.Outcome.next (maskLoad_writes idle head span none_counted full), rfl, rfl, rfl, fun r n hn => maskWrite_getLsbD _ _ _ r hn⟩
  case ends =>
    intro x r v k bump ignv mp nm hd b t n g runs entry ended held
    have flags : x.entry.flags = (false, bump) := by rw [entry]; rfl
    have region : x.entry.regionNo = k := by rw [entry]; rfl
    refine ⟨fun drained => ⟨_, congrArg Host.Outcome.next (callEnd_ends runs flags ended drained), rfl, ?_, rfl, rfl, rfl⟩,
      fun left => congrArg Host.Outcome.next (callEnd_waits runs left)⟩
    rw [region]
    refine (bumpRegion_region { s.ctx with running := none } k _ held).trans ?_
    cases bump <;> rfl

/-! ### Numbers written to a memory -/

theorem get_setNum_other {m : Mem} (wf : Memory.wf m = true) {a n x : Nat} (v : Nat) (outside : ¬ (a ≤ x ∧ x < a + n)) :
    Memory.get (Memory.setNum m a n v) x = Memory.get m x := by
  rw [Memory.setNum, stored_write wf, bytesOf_length, if_neg outside]

theorem read_write {m : Mem} (wf : Memory.wf m = true) (a : Nat) (bs : List Byte) : Memory.read (Memory.write m a bs) a bs.length = bs := by
  induction bs generalizing m a with
  | nil => rfl
  | cons b bs ih =>
    have first : Memory.get (Memory.write m a (b :: bs)) a = b := by
      rw [stored_write wf, if_pos ⟨Nat.le_refl a, by rw [List.length_cons]; omega⟩, Nat.sub_self]; rfl
    rw [List.length_cons, Memory.read, first, Memory.write, ih (set_wf wf a b)]

theorem num_setNum {m : Mem} (wf : Memory.wf m = true) (a n v : Nat) : Memory.num (Memory.setNum m a n v) a n = v % 256 ^ n := by
  have bytes := read_write wf a (bytesOf n v)
  rw [bytesOf_length] at bytes
  rw [Memory.num, Memory.setNum, bytes, natOf_bytesOf]

theorem num_setNum_other {m : Mem} (wf : Memory.wf m = true) {a b n k : Nat} (v : Nat) (apart : a + n ≤ b ∨ b + k ≤ a) :
    Memory.num (Memory.setNum m a n v) b k = Memory.num m b k := by
  rw [Memory.num, Memory.num, read_eq_of_get fun x lo hi => get_setNum_other wf v (by omega)]

/-! ### Cells of the accumulator memory (R181, Table 8.4) -/

/-- Two cells' accumulators share no byte. -/
def CellsApart (off : Nat → Nat → Nat) (c d : Nat × Nat) : Prop := off c.1 c.2 + 4 ≤ off d.1 d.2 ∨ off d.1 d.2 + 4 ≤ off c.1 c.2

section
variable {f : Nat → Nat → Nat → Nat} {off : Nat → Nat → Nat} {acm : Mem} {cs : List (Nat × Nat)}

/-- A cell operation keeps every byte that is of none of its cells. -/
theorem cellsGo_get_other (wf : Memory.wf acm = true) {x : Nat} (outside : ∀ c ∈ cs, ¬ (off c.1 c.2 ≤ x ∧ x < off c.1 c.2 + 4)) :
    Memory.get (cellsGo f off acm cs) x = Memory.get acm x := by
  induction cs generalizing acm with
  | nil => rfl
  | cons c cs ih =>
    rw [cellsGo, ih (setNum_wf wf ..) fun d m => outside d (List.mem_cons_of_mem c m), get_setNum_other wf _ (outside c List.mem_cons_self)]

/-- A cell operation leaves in each of its cells the value that it makes of the one before. -/
theorem cellsGo_num (wf : Memory.wf acm = true) (apart : cs.Pairwise (CellsApart off)) {c : Nat × Nat} (mem : c ∈ cs) :
    Memory.num (cellsGo f off acm cs) (off c.1 c.2) 4 = f c.1 c.2 (Memory.num acm (off c.1 c.2) 4) % 2 ^ 32 := by
  induction cs generalizing acm with
  | nil => cases mem
  | cons d cs ih =>
    obtain ⟨first, apart⟩ := List.pairwise_cons.mp apart
    have wf' := setNum_wf wf (off d.1 d.2) 4 (f d.1 d.2 (Memory.num acm (off d.1 d.2) 4))
    rw [cellsGo]
    rcases List.mem_cons.mp mem with rfl | mem
    · have later : ∀ e ∈ cs, off c.1 c.2 + 4 ≤ off e.1 e.2 ∨ off e.1 e.2 + 4 ≤ off c.1 c.2 := first
      rw [Memory.num, read_eq_of_get fun x lo hi => cellsGo_get_other wf' fun e m => by have := later e m; omega]
      exact num_setNum wf ..
    · rw [ih wf' apart mem, num_setNum_other wf _ (first c mem)]

end

/-- The active cells are the rows and columns that the parameters give. -/
theorem mem_activeCells {mp : Vector Word 8} {c : Nat × Nat} : c ∈ activeCells mp ↔ c.1 < mRows mp ∧ c.2 < mCols mp := by
  constructor
  · intro mem
    obtain ⟨m, row, mem⟩ := List.mem_flatMap.mp mem
    obtain ⟨n, col, rfl⟩ := List.mem_map.mp mem
    exact ⟨List.mem_range.mp row, List.mem_range.mp col⟩
  · rintro ⟨row, col⟩
    exact List.mem_flatMap.mpr ⟨c.1, List.mem_range.mpr row, List.mem_map.mpr ⟨c.2, List.mem_range.mpr col, rfl⟩⟩

/-- What holds of any two active cells that differ in row or column holds of them pairwise. -/
theorem activeCells_pairwise {mp : Vector Word 8} {R : Nat × Nat → Nat × Nat → Prop}
    (differ : ∀ c ∈ activeCells mp, ∀ d ∈ activeCells mp, c.1 ≠ d.1 ∨ c.2 ≠ d.2 → R c d) : (activeCells mp).Pairwise R := by
  have cell : ∀ m ∈ List.range (mRows mp), ∀ n ∈ List.range (mCols mp), (m, n) ∈ activeCells mp := fun m row n col =>
    mem_activeCells.mpr ⟨List.mem_range.mp row, List.mem_range.mp col⟩
  refine List.pairwise_flatMap.mpr ⟨fun m row => List.pairwise_map.mpr ?_, ?_⟩
  · exact List.pairwise_lt_range.imp_of_mem fun {n k} colN colK lt => differ _ (cell m row n colN) _ (cell m row k colK) (.inr (Nat.ne_of_lt lt))
  · refine List.pairwise_lt_range.imp_of_mem fun {m k} rowM rowK lt c mc d md => ?_
    obtain ⟨n, colN, rfl⟩ := List.mem_map.mp mc
    obtain ⟨j, colJ, rfl⟩ := List.mem_map.mp md
    exact differ _ (cell m rowM n colN) _ (cell k rowK j colJ) (.inl (Nat.ne_of_lt lt))

/-- Cells of different banks, or of different places in one bank, share no byte. -/
theorem cellOffset_apart {banks : List Nat} (nodup : banks.Nodup) {accsel : Nat} {c d : Nat × Nat} (ne : c.1 ≠ d.1 ∨ c.2 ≠ d.2)
    (bankC : accsel + c.1 / 16 < banks.length) (bankD : accsel + d.1 / 16 < banks.length) (colC : c.2 < 160) (colD : d.2 < 160) :
    CellsApart (cellOffset banks accsel) c d := by
  have bank : banks.getD (accsel + c.1 / 16) 0 = banks.getD (accsel + d.1 / 16) 0 ↔ accsel + c.1 / 16 = accsel + d.1 / 16 := by
    rw [← List.getElem_eq_getD (h := bankC), ← List.getElem_eq_getD (h := bankD)]
    exact List.getElem_inj nodup
  simp only [CellsApart, cellOffset, acmBankBytes]
  generalize banks.getD (accsel + c.1 / 16) 0 = x at *
  generalize banks.getD (accsel + d.1 / 16) 0 = y at *
  omega

/-- A tile whose bands and columns the region has: its cells share no byte. -/
theorem activeCells_apart {mp : Vector Word 8} {banks : List Nat} {accsel : Nat} (nodup : banks.Nodup)
    (bands : ∀ b ∈ bandsOf accsel (mRows mp), b < banks.length) (cols : mCols mp ≤ 160) :
    (activeCells mp).Pairwise (CellsApart (cellOffset banks accsel)) := by
  have band : ∀ m < mRows mp, accsel + m / 16 < banks.length := fun m lt =>
    bands _ (List.mem_map.mpr ⟨m / 16, List.mem_range.mpr (by omega), rfl⟩)
  refine activeCells_pairwise fun c mc d md ne => ?_
  obtain ⟨rowC, colC⟩ := mem_activeCells.mp mc
  obtain ⟨rowD, colD⟩ := mem_activeCells.mp md
  exact cellOffset_apart nodup ne (band _ rowC) (band _ rowD) (by omega) (by omega)

/-! ### Micro-words (R172 to R177) -/

/-- A word that may start names at most 160 columns, and bands that its region has. -/
theorem wordLook_go {s : State} {r : Running} {w : BitVec 64} {nb : Nat} {g : Region} (held : s.ctx.region r.entry.regionNo = some g)
    (go : s.wordLook r w = .go nb) :
    mCols r.entry.mps ≤ 160 ∧ ∀ b ∈ bandsOf (mwAccsel w) (mRows r.entry.mps), b < g.banks.length := by
  simp only [State.wordLook, held] at go
  split at go
  · cases go
  next micro =>
  split at go
  · cases go
  next bands =>
  refine ⟨?_, ?_⟩
  · refine Nat.not_lt.mp fun wide => micro ?_
    simp only [wordMicro, wide, decide_true, Bool.or_true, Bool.true_or]
  · simpa using bands

/-- What a word's operation makes of the accumulator of a cell. -/
def wordCell (s : State) (w : BitVec 64) (blocks : List Block) (m n acc : Nat) : Nat :=
  cellValue (mwOp w) blocks ((s.ctx.maskTile.toList.getD m 0).getLsbD n) 0 m n acc

/-- A word without scalars acts on the active cells in the banks of its region. -/
theorem cellOp_acm {s : State} {r : Running} {w : BitVec 64} {blocks : List Block} {g : Region} (held : s.ctx.region r.entry.regionNo = some g) :
    (s.cellOp r w blocks 0).ctx.acm = cellsGo (wordCell s w blocks) (cellOffset g.banks (mwAccsel w)) s.ctx.acm (activeCells r.entry.mps) := by
  have scalar : ∀ m, Machine.laneAt 32 0 m = 0 := fun m => by rw [Machine.laneAt, Nat.zero_div, Nat.zero_mod]
  simp only [State.cellOp, held, scalar]
  rfl

section
variable {s : State} {r : Running} (runs : s.ctx.running = some r)
include runs

/-- A word that may start acts on its cells. -/
theorem wordStart_go {nb : Nat} {blocks : List Block} (waiting : r.stage = .waiting) (more : r.ended = false) (clock : s.power.droop = false)
    (go : s.wordLook r (s.ctx.microWord r.entry.routineNo r.off) = .go nb) (noScale : mwOp (s.ctx.microWord r.entry.routineNo r.off) ≠ 6)
    (operands : s.wordBlocks r.entry.mps (s.ctx.microWord r.entry.routineNo r.off) 0 nb = .ok (blocks, s)) :
    s.wordStart = s.cellOp r (s.ctx.microWord r.entry.routineNo r.off) blocks 0 := by
  have ready : (r.ended || r.stage != .waiting || s.matrixStopped) = false := by rw [more, waiting, State.matrixStopped, clock]; rfl
  simp only [State.wordStart, runs, ready, go, noScale, operands, Bool.false_eq_true, if_false]

theorem wordStart_waits (look : s.wordLook r (s.ctx.microWord r.entry.routineNo r.off) = .wait) : s.wordStart = s := by
  simp only [State.wordStart, runs, look, ite_self]

end

/-- In a droop stretch no word starts (R166). -/
theorem wordStart_droop {s : State} (droop : s.power.droop = true) : s.wordStart = s := by
  rw [State.wordStart]
  cases s.ctx.running with
  | none => rfl
  | some r => exact if_pos (by rw [State.matrixStopped, droop, Bool.or_true])

/-- In a droop stretch no word retires (R166). -/
theorem wordRetire_droop {s : State} (droop : s.power.droop = true) : s.wordRetire = s := by
  rw [State.wordRetire]
  cases s.ctx.running with
  | none => rfl
  | some r => exact if_pos (by rw [State.matrixStopped, droop, Bool.or_true])

/-- The drains of a call once its word has retired: one with DRAIN joins them. -/
def drainsAfter (r : Running) (w : BitVec 64) : List Drain := if mwDrain w then r.drains ++ [⟨mwAccsel w, 0, 0, r.off⟩] else r.drains

section
variable {s : State} {r : Running} {w : BitVec 64} (word : s.ctx.microWord r.entry.routineNo r.off = w) (runs : s.ctx.running = some r)
  (begun : r.stage = .started) (clock : s.power.droop = false) (straight : mwLoop w = 0) (popA : mwPopA w = false) (popB : mwPopB w = false)
  (noBump : mwBump w = false)
include word runs begun clock straight popA popB noBump

omit word runs begun clock straight in
/-- A word outside a loop that pops nothing leaves rings and weight buffers, and adds its drain. -/
theorem wordRetire_parts : s.ctx.wordPops r.entry.mps w = s.ctx ∧ wordAcquires w = false ∧ r.act w = ({ r with drains := drainsAfter r w }, 0) := by
  refine ⟨?_, ?_, ?_⟩
  · simp only [Ctx.wordPops, popA, popB, Bool.false_eq_true, if_false]
  · simp only [wordAcquires, popA, popB, Bool.false_and, Bool.or_false]
  · simp only [Running.act, noBump, Bool.false_eq_true, if_false, drainsAfter]

/-- A word outside a loop that pops nothing retires: END ends its call, else its NEXT comes after it, a MICRO trap where the routine has none there. -/
theorem wordRetire_straight : s.wordRetire =
    if mwEnd w then { s with ctx := { s.ctx with running := some { r with stage := .waiting, drains := drainsAfter r w, ended := true } } }
    else if s.ctx.routineLen r.entry.routineNo ≤ mwNext w then
      ({ s with ctx := { s.ctx with running := some { r with stage := .waiting, drains := drainsAfter r w } } } : State).matrixTrap r.entry (drainsAfter r w)
        (.micro, microVal r.entry.routineNo r.off)
    else { s with ctx := { s.ctx with running := some { r with stage := .waiting, drains := drainsAfter r w, off := mwNext w } } } := by
  have ready : (r.stage != .started || s.matrixStopped) = false := by rw [begun, State.matrixStopped, clock]; rfl
  obtain ⟨pops, acquires, act⟩ := wordRetire_parts (s := s) (r := r) popA popB noBump
  simp only [State.wordRetire, runs, ready, word, straight, pops, acquires, act, bumpRegion_zero, Bool.false_eq_true, if_false, ne_eq, not_true_eq_false,
    decide_false, Bool.false_and, true_or, if_true, Bool.not_false, Bool.true_and]
  rfl

end

/-- Settles O45: the cells of a word that may start share no byte, so one pass over them acts on each of them alone. -/
theorem matrixWords : Obligations.MatrixWords := by
  unfold Obligations.MatrixWords
  intro s r ok w mp
  refine ⟨?starts, ?waits, ?droop, ?retires⟩
  case starts =>
    intro nb blocks g runs waiting more clock go noScale operands held nodup
    obtain ⟨cols, bands⟩ := wordLook_go held go
    obtain ⟨-, wf⟩ := memOk_spm ok
    have apart := activeCells_apart nodup bands cols
    have act := wordStart_go runs waiting more clock go noScale operands
    refine ⟨_, congrArg Host.Outcome.next act, rfl, rfl, rfl, rfl, fun m n row col => ?_, fun x outside => ?_⟩
    · rw [cellOp_acm held]
      exact cellsGo_num wf apart (c := (m, n)) (mem_activeCells.mpr ⟨row, col⟩)
    · rw [cellOp_acm held]
      exact cellsGo_get_other wf fun c mem => outside c.1 c.2 (mem_activeCells.mp mem).1 (mem_activeCells.mp mem).2
  case waits =>
    exact fun look runs _ _ => congrArg Host.Outcome.next (wordStart_waits runs look)
  case droop =>
    exact fun droop => ⟨congrArg Host.Outcome.next (wordStart_droop droop), congrArg Host.Outcome.next (wordRetire_droop droop)⟩
  case retires =>
    intro runs begun clock straight popA popB noBump
    have retired := wordRetire_straight rfl runs begun clock straight popA popB noBump
    refine ⟨fun last => congrArg Host.Outcome.next ?_, fun more inside => congrArg Host.Outcome.next ?_⟩
    · rw [retired, if_pos last]
      rfl
    · rw [retired, if_neg (by rw [more]; exact Bool.false_ne_true), if_neg (Nat.not_le.mpr inside)]
      rfl

/-! ### Drains (R186, R187, R356) -/

theorem reap_alone {s : State} (alone : s.parked = []) : s.reap = s := by
  have none_left : s.parked.filter (fun c => !c.dead || s.lingers c) = s.parked := by rw [alone]; rfl
  rw [State.reap, none_left]

/-- A drain that waits, of the only context, changes nothing. -/
theorem drainAny_waits {s : State} (alone : s.parked = []) (waits : s.drainBand = s) : s.drainAny = s := by
  have same : s.anyCtx State.drainBand = s := by simp [State.anyCtx, waits, alone]
  rw [State.drainAny, same, reap_alone alone]

/-- A drain that does anything in the running context, with no other, does that alone. -/
theorem drainAny_acts {s u : State} (live : s.live = true) (acts : s.drainBand = u) (alone : u.parked = []) (new : u.ctx.running ≠ s.ctx.running) :
    s.drainAny = u := by
  have changes : s.drainBand ≠ s := fun same => new (by rw [← acts, same])
  rw [State.drainAny, anyCtx_running live changes, acts, reap_alone alone]

/-- The writes of a running context end donations to it and change nothing else of it (R54). -/
theorem endBoosts_running {s : State} (live : s.live = true) (ps : List (Pa × Nat)) :
    ∃ boost, s.endBoosts s.ctx.id ps = { s with ctx := { s.ctx with boost := boost } } := by
  have fold : ∀ (c : Ctx), ∃ boost, ps.foldl (fun c (p, n) => c.endBoost p.pa.toNat n) c = { c with boost := boost } := by
    induction ps with
    | nil => exact fun c => ⟨c.boost, rfl⟩
    | cons p ps ih => exact fun c => (ih _).imp fun _ e => e
  rw [State.endBoosts, updCtx_running live]
  cases s.ctx.boost.isEmpty with
  | true => exact ⟨s.ctx.boost, rfl⟩
  | false => exact (fold s.ctx).imp fun _ e => congrArg (fun c => ({ s with ctx := c } : State)) e

theorem drainBytes_length (acm : Mem) (banks : List Nat) (accsel cols m : Nat) (t : EType) (size : Nat) :
    (drainBytes acm banks accsel cols m t size).length = cols * size := by
  simp only [drainBytes, List.length_flatMap, bytesOf_length, List.map_const', List.length_range, List.sum_replicate_nat]

/-- Outside a ring the first row of a drain is at the handle's base. -/
theorem drainRow_first {h : Handle} (noRing : hKind h ≠ 2) (cols size : Nat) : drainRow h cols size 0 = hBase h := by
  rw [drainRow, if_neg noRing]
  simp

/-- A drain to a region that is no ring starts where the handle is sound and its rows hold the columns. -/
theorem drainFault_none {h : Handle} {mp : Vector Word 8} {t : EType} {size : Nat} (type : drainType h = some (t, size)) (ok : handleOk h = true)
    (kind : hKind h = 1 ∨ hKind h = 3 ∨ hKind h = 6) (wide : mCols mp ≤ hDim0 h) (hr : HReg) (micro : Word) : drainFault h hr mp micro = none := by
  have listed : [1, 2, 3, 6].contains (hKind h) = true := by rcases kind with e | e | e <;> rw [e] <;> rfl
  simp only [drainFault, listed, ok, type, kind, Nat.not_lt.mpr wide, Bool.not_true, Bool.false_eq_true, if_false, if_true]

section
variable {s : State} {h : Handle} {mp : Vector Word 8} {banks : List Nat} {accsel : Nat} {t : EType} {size base : Nat} {ps : List (Pa × Nat)}
  (noRing : hKind h ≠ 2) (span : s.mxSpan .write (hBase h) (mCols mp * size) = .ok ps) (laid : Laid s base (hBase h) (mCols mp * size) ps)
include noRing span laid

/-- A row that meets lost data is not stored (R187). -/
theorem drainRows_lost {pa : Nat} (lost : s.writeLost ps = some pa) :
    s.drainRows h mp banks accsel t size 0 1 = .fail (.mchk, BitVec.ofNat 64 pa) (s.logError 0x20 (BitVec.ofNat 64 pa)) := by
  simp only [State.drainRows, drainRow_first noRing, span, laid_lock laid, lost, Bool.false_eq_true, if_false]

/-- One row is stored whole. -/
theorem drainRows_stored (live : s.live = true) (keep : mClr mp = false) (fine : s.writeLost ps = none) :
    ∃ l1 sl po boost, s.drainRows h mp banks accsel t size 0 1 =
      .done { s with mem := Memory.write s.mem base (drainBytes s.ctx.acm banks accsel (mCols mp) 0 t size), l1 := l1, asleep := sl, poison := po,
                     ctx := { s.ctx with boost := boost } } := by
  obtain ⟨l1, sl, po, written⟩ := laid_write laid 0 (drainBytes s.ctx.acm banks accsel (mCols mp) 0 t size) (drainBytes_length ..)
  obtain ⟨boost, ends⟩ := endBoosts_running (s := { s with mem := Memory.write s.mem base (drainBytes s.ctx.acm banks accsel (mCols mp) 0 t size),
                                                           l1 := l1, asleep := sl, poison := po }) live ps
  refine ⟨l1, sl, po, boost, ?_⟩
  simp only [State.drainRows, drainRow_first noRing, span, laid_lock laid, fine, written, keep, Bool.false_eq_true, if_false]
  exact congrArg RowsOut.done ends

end

/-- A drain behind a release fence waits (R356). -/
theorem drainBand_gated {s : State} {r : Running} (runs : s.ctx.running = some r) (gated : s.callGated r.entry = true) : s.drainBand = s := by
  rw [State.drainBand, runs]
  dsimp only
  cases r.drains with
  | nil => rfl
  | cons d ds => exact if_pos (by rw [gated, Bool.or_true])

/-- What comes of a call whose last drain's last rows come out so. -/
def lastRows (s : State) (r : Running) : RowsOut → State
  | .wait => s
  | .fail f u => u.matrixTrap r.entry [] f
  | .done u => { u with ctx := { u.ctx with running := some { r with drains := [] } } }

/-- A drain of one row to a region that is no ring is performed, or fails, with that row. -/
theorem drainBand_row {s : State} {r : Running} {d : Drain} {h : Handle} {t : EType} {size : Nat} {g : Region} (runs : s.ctx.running = some r)
    (one : r.drains = [d]) (first : d.nextRow = 0) (noBump : d.bump = 0) (reg : s.ctx.rs.h[(hregOf r.entry.mps[5]).toNat] = h)
    (type : drainType h = some (t, size)) (ok : handleOk h = true) (kind : hKind h = 1 ∨ hKind h = 3 ∨ hKind h = 6)
    (wide : mCols r.entry.mps ≤ hDim0 h) (row : mRows r.entry.mps = 1) (held : s.ctx.region r.entry.regionNo = some g)
    (clock : s.power.droop = false) (free : s.callGated r.entry = false) :
    s.drainBand = lastRows s r (s.drainRows h r.entry.mps g.banks d.accsel t size 0 1) := by
  have ready : (s.matrixStopped || s.callGated r.entry) = false := by rw [State.matrixStopped, clock, free]; rfl
  have noRing : hKind h ≠ 2 := by omega
  have band : min 16 1 = 1 := rfl
  have last : ¬ 0 + 16 < 1 := by decide
  simp only [State.drainBand, runs, one, ready, reg, first, drainFault_none type ok kind wide, type, noRing, held, row, band, last, noBump, bumpRegion_zero,
    if_true, if_false, and_false, false_and, Bool.false_eq_true]
  cases s.drainRows h r.entry.mps g.banks d.accsel t size 0 1 <;> rfl

/-- Settles O46: the one row is the drain's only band, and its only piece of memory is the run that the handle's base starts. -/
theorem drainsStore : Obligations.DrainsStore := by
  unfold Obligations.DrainsStore
  intro s r d h t size g base ps memOk live alone runs one first noBump mp reg type ok kind wide row keep held clock span laid
  have noRing : hKind h ≠ 2 := by omega
  have new : ∀ o : Option Running, (∀ x, o = some x → x.drains = []) → o ≠ s.ctx.running := fun o empty same =>
    absurd ((empty r (same.trans runs)).symm.trans one) (List.cons_ne_nil d []).symm
  have drained := drainBand_row runs one first noBump reg.symm type ok kind wide row held clock
  refine ⟨fun gate => ?_, fun pa free lost => ?_, fun free fine => ?_⟩
  · obtain ⟨q, mem, waits, n, number, before⟩ := gate
    have gated : s.callGated r.entry = true := List.any_eq_true.mpr ⟨q, mem, by simp [Req.gates, waits, number, before]⟩
    exact congrArg Host.Outcome.next (drainAny_waits alone (drainBand_gated runs gated))
  · have acts := drained free
    rw [drainRows_lost noRing span laid lost] at acts
    exact ⟨_, congrArg Host.Outcome.next (drainAny_acts live acts alone (new none fun _ e => by cases e)), rfl, rfl, rfl⟩
  · obtain ⟨l1, sl, po, boost, stored⟩ := drainRows_stored (banks := g.banks) (accsel := d.accsel) (t := t) noRing span laid live keep fine
    have acts := drained free
    rw [stored] at acts
    refine ⟨_, congrArg Host.Outcome.next (drainAny_acts live acts alone (new _ fun x e => by cases e; rfl)), ?_, rfl, rfl, rfl, rfl⟩
    rw [List.take_of_length_le (Nat.le_of_eq (drainBytes_length ..))]
    exact stored_write (memOk_mem memOk) base _

end Sys2Proof.Proofs

/-! # Copies, streams and transforms (chapter 9): jobs entered, the broadcast bus and the transform slot -/

namespace Sys2Proof.Proofs

open Sys2Proof Sys2Proof.Machine Sys2Proof.Claims Sys2Proof.Laws

/-! ### A job enters its engine (R191) -/

/-- Arming latches changes the latches alone. -/
theorem armLatches_eq (s : State) : ∃ l, s.armLatches = { s with latches := l } := by
  have one : ∀ (s : State) (j : Job), ∃ l, s.armOne j = { s with latches := l } := fun s j => by
    unfold State.armOne
    split
    · split
      · exact ⟨_, rfl⟩
      · exact ⟨s.latches, rfl⟩
    · exact ⟨s.latches, rfl⟩
  have fold : ∀ (js : List Job) (s : State), ∃ l, js.foldl State.armOne s = { s with latches := l } := by
    intro js
    induction js with
    | nil => exact fun s => ⟨s.latches, rfl⟩
    | cons j js ih =>
      intro s
      obtain ⟨l, first⟩ := one s j
      obtain ⟨l', rest⟩ := ih (s.armOne j)
      exact ⟨l', by rw [List.foldl_cons, rest, first]⟩
  exact fold s.jobs s

/-- Sending the combining buffer moves requests and changes nothing else (R138). -/
theorem flushComb_still (s : State) : s.flushComb.jobs = s.jobs ∧ s.flushComb.latches = s.latches ∧ still s.flushComb = still s := by
  refine ⟨setRs_jobs _ _, setRs_latches _ _, ?_⟩
  cases mode : s.mode <;> simp only [State.flushComb, State.setRs, State.rs, still, stillSet, mode]

/-- A job that enters comes last, and nothing else but latches changes. -/
theorem enterJob_still (s : State) (j : Job) : (s.enterJob j).jobs = s.jobs ++ [j] ∧
    still { s.enterJob j with jobs := s.jobs, latches := s.latches } = still s := by
  have enters : ∀ u : State, u.jobs = s.jobs ∧ u.latches = s.latches ∧ still u = still s →
      let t := State.armLatches { u with jobs := u.jobs ++ [j], seq := u.seq + 1 }
      t.jobs = s.jobs ++ [j] ∧ still { t with jobs := s.jobs, latches := s.latches } = still s := fun u ⟨jobs, latches, same⟩ => by
    obtain ⟨l, armed⟩ := armLatches_eq { u with jobs := u.jobs ++ [j], seq := u.seq + 1 }
    rw [armed, ← jobs, ← latches, ← same]
    exact ⟨rfl, rfl⟩
  unfold State.enterJob
  split
  · exact enters _ (flushComb_still s)
  · exact enters s ⟨rfl, rfl, rfl⟩

/-- A copy instruction that finds room in its engine and no trap enters a job as issue captures it, whatever registers, indices, counter image and increment
the job names besides. -/
theorem copySlot_enters {i : Instr} {g : Guard} {c : CSlot} {s : State} {trap : State → Option Trap} {job : State → Job} {op : CopyOp} {src dst : Handle}
    {n : BitVec 3} {nch : Nat} {idx : Handle} {named : List HReg} {hs hd : Option HReg} {cfg inc : Word} {ar : Bool}
    (means : meaningOf i = some (g, copySlot c trap job)) (turn : Turn g s) (room : s.engineFull c = false) (pass : trap s = none)
    (captured : job s = { s.newJob c op src dst n nch with idx := idx, named := named, hs := hs, hd := hd, cfg := cfg, inc := inc, ar := ar }) :
    ∃ t, exec i s = .next t ∧ JobEntered s t op c src dst n := by
  obtain ⟨jobs, same⟩ := enterJob_still s (job s)
  refine ⟨_, (exec_slot means s).trans (runSlot_act turn (Nat.zero_le _) pass room), _, jobs.trans (by rw [captured]), ?_⟩
  exact ⟨rfl, rfl, rfl, rfl, rfl, rfl, rfl, rfl, rfl, rfl, same⟩

theorem handleRule_none {slot : BitVec 3} {r : HReg} {h : Handle} {ok : Bool} (keeps : ok = true) (ring : ringOk h = true) : handleRule slot r h ok = none := by
  simp [handleRule, ringTrap, keeps, ring]

theorem busKind_of {h : Handle} (ok : handleOk h = true) (kind : hKind h ∈ [1, 2]) : busKind h = true := by
  simpa [busKind, ok] using kind

/-- Settles O24: no handle breaks a rule of its instruction, so it has no trap, and its job enters. -/
theorem copiesEnter : Obligations.CopiesEnter := by
  unfold Obligations.CopiesEnter
  intro s c g hs hd hx n ar turn
  dsimp only
  refine ⟨fun room => ⟨fun copyA copyB ringA ringB => ?handles, ?bdrv, ?blat, fun okA okB => ?blocks, ?cnta⟩, ?full, ?chain⟩
  case handles =>
    have ruleA := handleRule_none (slot := cslotNo c) (r := hs) copyA ringA
    have ruleB := handleRule_none (slot := cslotNo c) (r := hd) copyB ringB
    refine ⟨fun rcn nsat cons legal count => ?cpy, fun op shape => ?cpyr, fun shape => ?gath, fun shape => ?scat⟩
    case cpy =>
      have ruleB := handleRule_none (slot := cslotNo c) (r := hd) (ok := s.copyHandle (s.hreg hd) && hCount (s.hreg hs) == hCount (s.hreg hd))
        (by simp [copyB, count]) ringB
      exact copySlot_enters (i := .cpy c g hs hd n ar rcn nsat cons) rfl turn room (by simp [legal, ruleA, ruleB]) rfl
    case cpyr =>
      have ruleB := handleRule_none (slot := cslotNo c) (r := hd) (ok := s.copyHandle (s.hreg hd) && cpyrShape (s.hreg hs) (s.hreg hd) op)
        (by simp [copyB, shape]) ringB
      exact copySlot_enters (i := .cpyr c g hs hd n ar op) rfl turn room (by simp [ruleA, ruleB]) rfl
    case gath => exact copySlot_enters (i := .gath c g hs hd n ar hx) rfl turn room (by simp [ruleA, ruleB, shape]) rfl
    case scat => exact copySlot_enters (i := .scat c g hs hd n ar hx) rfl turn room (by simp [ruleA, ruleB, shape]) rfl
  case bdrv =>
    intro ok kind ring m
    exact copySlot_enters (i := .bdrv c g hs n m) rfl turn room (handleRule_none (busKind_of ok kind) ring) rfl
  case blat =>
    intro ok kind ring p other
    exact copySlot_enters (i := .blat c g hd n p) rfl turn room ((if_neg other).trans (handleRule_none (busKind_of ok kind) ring)) rfl
  case blocks =>
    refine ⟨fun weights request wb1 mask => ?wstr, fun kind shape => ?kvcp, fun keep k shapeA shapeB => ?logf⟩
    case wstr => exact copySlot_enters (i := .wstr c g hs hd n wb1 mask) rfl turn room (by simp [okA, okB, weights, request]) rfl
    case kvcp =>
      have plain : (hKind (s.hreg hs) == 1 || hKind (s.hreg hs) == 3) = true := by simpa using kind
      exact copySlot_enters (i := .kvcp c g hs hd n ar) rfl turn room (by simp only [okA, okB, plain, shape]; rfl) rfl
    case logf => exact copySlot_enters (i := .logf c g hs hd n ar keep k) rfl turn room (by simp [okA, okB, shapeA, shapeB]) rfl
  case cnta => exact fun inc => copySlot_enters (i := .cnta c g n inc) rfl turn room rfl rfl
  case full =>
    exact fun full inc => (exec_slot (i := .cnta c g n inc) rfl s).trans (runSlot_hold turn (Nat.zero_le _) rfl full)
  case chain =>
    intro ch stopped ok kind aligned
    have pass : (meaningChain c hs ch).trap s = none := by simp only [meaningChain, ok, kind, aligned]; rfl
    refine ⟨_, (exec_slot (i := .chain c g hs n ch) rfl s).trans (runSlot_act turn (Nat.zero_le _) pass stopped), ?_, ?_, rfl, fun k other => ?_⟩
    · exact congrArg Chain.walking (Vector.getElem_set_self _)
    · exact congrArg Chain.next (Vector.getElem_set_self _)
    · exact Vector.getElem_set_ne ch.isLt k.isLt fun same => other (Fin.ext same.symm)

/-! ### The cluster broadcast bus (R201 to R203, R327) -/

theorem ringAt_plain {j : Job} {h : Handle} (plain : hRing h = false) (s : State) (r : Option HReg) (write : Bool) : s.ringAt j r h write = some h := by
  simp only [State.ringAt, plain]
  rfl

theorem dstBase_plain {h : Handle} (plain : hRing h = false) : dstBase h = hBase h := by rw [dstBase, plain]; rfl
theorem srcBase_plain {h : Handle} (plain : hRing h = false) : srcBase h = hBase h := by rw [srcBase, plain]; rfl

/-- A latch outside a ring has its last beat when its pattern is exhausted (R202). -/
theorem latchFull_plain {h : Handle} {nch k : Nat} (plain : hRing h = false) (more : k + 1 < nch) : latchFull h nch k = false := by
  simp [latchFull, plain, more]

/-- The writes of an engine leave the running context where no donation to it waits (R54). -/
theorem endBoosts_none {s : State} (none_waits : s.ctx.boost = []) (id : BitVec 16) (ps : List (Pa × Nat)) :
    ∃ parked, s.endBoosts id ps = { s with parked := parked } := by
  rw [State.endBoosts, State.updCtx]
  split
  · rw [none_waits]
    exact ⟨s.parked, rfl⟩
  · exact ⟨_, rfl⟩

/-- A latch with beats to come does not complete. -/
theorem copyComplete_waits {s : State} {j : Job} {d : BitVec 3} (found : s.findJob j.id = some j) (op : j.op = .blat d) (more : j.done.length < j.nch) :
    s.copyComplete j.id = s := by
  have unfinished : s.jobDone j = false := by simp [State.jobDone, op, more]
  simp only [State.copyComplete, found, unfinished]
  rfl

/-- The core's own slot drives; the slot's beat says which receivers are armed. -/
theorem busSlot_drives {s : State} {d : BitVec 3} (own : d = s.position) (last : Bool) (beat : Beat) :
    s.busSlot d last beat = s.busDrive (beat.setWidth 8) := if_pos own

/-- A slot of another driver: what the beat does, and the driver's beat counted. -/
theorem busSlot_receives {s : State} {d : BitVec 3} (other : d ≠ s.position) (beat : Beat) : s.busSlot d false beat =
    { s.busReceive d beat with busSeen := (s.busReceive d beat).busSeen.set d.toNat (s.busSeen[d.toNat] + 1) } := by
  simp [State.busSlot, other]

/-- A beat that finds no latch for its driver is missed (R203). -/
theorem busReceive_misses {s : State} {d : BitVec 3} (live : s.live = true) (heard : s.busMissed.getLsbD d.toNat = false) (bare : s.latches = [])
    (beat : Beat) : s.busReceive d beat = { s with
      busMissed := s.busMissed ||| BitVec.ofNat 8 (2 ^ d.toNat), frec := { s.frec with cfoff := BitVec.ofNat 64 s.busSeen[d.toNat] },
      pending := s.pending ++ [{ cause := .busmiss, kind := .imprecise, slot := 7, tbaddr := 0, ttick := s.rs.tick, tval := d.setWidth 64 }] } := by
  simp only [State.busReceive, heard, bare, List.find?_nil, State.busMiss, State.pendTo, live, beq_self_eq_true]
  rfl

section
variable {s : State} {j : Job} (only : s.jobs = [j])
include only

/-- A beat outside a ring is stored at the latch's next place, and the latch goes on to the one after it (R202). -/
theorem busReceive_stores {d : BitVec 3} {k base : Nat} {o : Int × Nat} {ps : List (Pa × Nat)} (undonated : s.ctx.boost = [])
    (heard : s.busMissed.getLsbD d.toNat = false) (armed : s.latches = [⟨j.id, d, k⟩]) (op : j.op = .blat d) (plain : hRing j.dst = false)
    (beats : j.done.length + 1 < j.nch) (more : k + 1 < j.nch) (place : beatOffset j.dst k = o)
    (span : s.span j.atp j.mode .write (hBase j.dst + BitVec.ofInt 64 o.1) o.2 = .ok ps) (laid : Laid s base (hBase j.dst + BitVec.ofInt 64 o.1) o.2 ps)
    (beat : Beat) :
    ∃ l1 sl po parked, s.busReceive d beat = { s with
      mem := Memory.write s.mem base (bytesOf o.2 beat.toNat), l1 := l1, asleep := sl, poison := po, parked := parked,
      jobs := [{ j with ready := true, done := j.done ++ [k] }], latches := [⟨j.id, d, k + 1⟩] } := by
  subst place
  obtain ⟨l1, sl, po, written⟩ := laid_write laid 0 (bytesOf (beatOffset j.dst k).2 beat.toNat) (bytesOf_length ..)
  obtain ⟨parked, ends⟩ := endBoosts_none (s := { s with
    mem := Memory.write s.mem base (bytesOf (beatOffset j.dst k).2 beat.toNat), l1 := l1, asleep := sl, poison := po }) undonated j.ctx ps
  refine ⟨l1, sl, po, parked, ?_⟩
  have found : s.latches.find? (·.driver == d) = some ⟨j.id, d, k⟩ := by rw [armed]; exact List.find?_cons_of_pos (beq_self_eq_true d)
  simp only [State.busReceive, heard, found, findJob_only only, ringAt_plain plain, ite_self, dstBase_plain plain, span, written, ends]
  simp only [State.updJob, only, armed, updFirst, beq_self_eq_true, latchFull_plain plain more, Bool.false_eq_true, if_false, if_true]
  exact copyComplete_waits (j := { j with ready := true, done := j.done ++ [k] }) (by exact findJob_only rfl) op (by simpa using beats)

/-- The next beat of a BDRV outside a ring is read, and done (R202). -/
theorem driveBeat_reads {base : Nat} {o : Int × Nat} {ps : List (Pa × Nat)} (more : j.done.length < j.nch) (plain : hRing j.src = false)
    (noFE : hFE j.src = false) (place : beatOffset j.src j.done.length = o)
    (span : s.span j.atp j.mode .read (hBase j.src + BitVec.ofInt 64 o.1) o.2 = .ok ps) (laid : Laid s base (hBase j.src + BitVec.ofInt 64 o.1) o.2 ps) :
    s.driveBeat j = { s with jobs := [{ j with done := j.done ++ [j.done.length] }] } := by
  simp only [State.driveBeat, Nat.not_le.mpr more, srcBase_plain plain, place, span, noFE, laid_read laid, updJob_only only, Bool.false_and, Bool.false_eq_true,
    if_false]

/-- The only job, a BDRV that drives already, drives its next beat. -/
theorem busDrive_ready {m : BitVec 8} (op : j.op = .bdrv m) (some_receiver : m ≠ 0#8) (started : s.started j = true) (gate : s.gateOpen j = true)
    (fine : j.fail = none) (ready : j.ready = true) (armed : BitVec 8) : s.busDrive armed = s.driveBeat j := by
  have drivers : s.drivers = [j] := by simp [State.drivers, only, op, some_receiver, started, gate, fine, ready]
  simp [State.busDrive, drivers, op, ready, State.startJob]

/-- The only job drives, or nothing does. -/
theorem drivers_only : s.drivers = [] ∨ s.drivers = [j] := by
  simp only [State.drivers, only, List.filter_cons, List.filter_nil]
  generalize ((_ : Bool) && (_ : Bool)) = may
  cases may with
  | false => exact .inl rfl
  | true => cases ready : j.ready <;> exact .inr (by simp [ready])

/-- The only job, a BDRV that has not begun, waits for its receivers' latches (R202). -/
theorem busDrive_waits {m armed : BitVec 8} (op : j.op = .bdrv m) (idle : j.ready = false) (missing : m &&& armed ≠ m) : s.busDrive armed = s := by
  rcases drivers_only only with none_drives | drives
  · simp [State.busDrive, none_drives]
  · simp [State.busDrive, drives, op, idle, missing]

end

/-- A driver's mark is set by the number that has its bit alone. -/
theorem getLsbD_or_bit (marks : BitVec 8) (d : BitVec 3) : (marks ||| BitVec.ofNat 8 (2 ^ d.toNat)).getLsbD d.toNat = true := by
  rw [BitVec.getLsbD_or, BitVec.getLsbD_ofNat, Nat.testBit_two_pow_self, decide_eq_true d.isLt, Bool.and_self, Bool.or_true]

/-- Settles O43: the one job is the latch that the beat is for, or the BDRV whose slot it is; without either, the beat is missed or nothing is driven. -/
theorem busSlots : Obligations.BusSlots := by
  unfold Obligations.BusSlots
  intro s d beat memOk live undonated
  refine ⟨?stores, ?misses, ?drives, ?waits⟩
  case stores =>
    intro j k base ps other heard only armed op plain beats more access
    obtain ⟨span, laid⟩ := access
    obtain ⟨l1, sl, po, parked, stored⟩ := busReceive_stores only undonated heard armed op plain beats more rfl span laid beat
    refine ⟨_, congrArg Host.Outcome.next (busSlot_receives other beat), ?_⟩
    rw [stored]
    exact ⟨stored_write (memOk_mem memOk) base _, findJob_only (j := { j with ready := true, done := j.done ++ [k] }) rfl, rfl, Vector.getElem_set_self _,
      rfl, rfl⟩
  case misses =>
    intro other heard bare
    refine ⟨_, congrArg Host.Outcome.next (busSlot_receives other beat), ?_⟩
    rw [busReceive_misses live heard bare]
    exact ⟨rfl, rfl, getLsbD_or_bit .., rfl, rfl⟩
  case drives =>
    intro j m base ps own only op some_receiver started gate fine ready more plain noFE access
    obtain ⟨span, laid⟩ := access
    have acts := busSlot_drives own false beat
    rw [busDrive_ready only op some_receiver started gate fine ready, driveBeat_reads only more plain noFE rfl span laid] at acts
    exact ⟨_, congrArg Host.Outcome.next acts, findJob_only (j := { j with done := j.done ++ [j.done.length] }) rfl, rfl, rfl⟩
  case waits =>
    intro j m own only op idle missing
    exact congrArg Host.Outcome.next ((busSlot_drives own false beat).trans (busDrive_waits only op idle missing))

/-! ### Ports that serve an X slot (R81) -/

section
variable {s : State} {a d : PortNo} (serves : ReadsAndPushes [a.setWidth 6] 31 s)
include serves

/-- The port read gives a beat now. -/
theorem read_serves : s.mode = .u ∧ (∀ slot, s.readTrap slot a = none) ∧ s.readHolds a = false := by
  obtain ⟨user, reads, -⟩ := serves
  have here : (a.setWidth 6).setWidth 5 = a := by bv_omega
  have served := reads (a.setWidth 6) (List.mem_singleton_self _) (by bv_omega)
  simp only [here] at served
  obtain ⟨bound, notWr, beat⟩ := served
  refine ⟨user, fun slot => ?_, ?_⟩
  · rcases beat with popped | ⟨ring, queued⟩
    · simp [State.readTrap, user, bound, notWr, Option.isSome_iff_ne_none.mpr popped]
    · simp [State.readTrap, user, bound, notWr, ringTrap, ring, queued]
  · rcases beat with popped | ⟨ring, queued⟩
    · simp [State.readHolds, Port.ready, popped]
    · simp [State.readHolds, Port.ready, queued]

/-- An X instruction that converts one beat pops it, and pushes what it makes of it. -/
theorem xslot_pushes {i : Instr} {g : Guard} {lat : Nat} {f : Beat → State → Beat} (means : meaningOf i = some (g, xslot d a lat f)) (turn : Turn g s)
    (idle : s.ctx.xpose = none) (pushes : Pushes d s) :
    exec i s = .next ((s.popPort a).2.pushBeat 6 d lat (f (s.popPort a).1 s)) := by
  obtain ⟨user, noTrap, given⟩ := read_serves serves
  obtain ⟨bound, wr, ring, more, room⟩ := pushes
  have pass : s.pushTrap 6 d 1 = none := by simp [State.pushTrap, user, bound, wr, ringTrap, ring, more]
  refine (exec_slot means s).trans (runSlot_act turn (Nat.zero_le _) ?_ ?_)
  · simp only [xslot, xtrap, user, idle, noTrap, pass]; rfl
  · simp [xslot, given, room]

end

/-! ### Lanes chosen by a mask (R205) -/

/-- How many lanes below lane `i` a mask chooses. -/
def chosenBelow (m : BitVec 256) (i : Nat) : Nat := ((List.range i).filter fun k => m.getLsbD k).length

theorem chosenBelow_le (m : BitVec 256) (i : Nat) : chosenBelow m i ≤ i :=
  Nat.le_trans (List.length_filter_le ..) (Nat.le_of_eq List.length_range)

theorem chosenBelow_succ (m : BitVec 256) (i : Nat) : chosenBelow m (i + 1) = chosenBelow m i + if m.getLsbD i then 1 else 0 := by
  rw [chosenBelow, List.range_succ, List.filter_append, List.length_append, chosenBelow, List.filter_cons, List.filter_nil]
  cases m.getLsbD i <;> rfl

/-- From lane `i` on, each lane chosen takes the input lane whose number is that of the lanes chosen below it. -/
theorem expandGo_eq (m : BitVec 256) (xs ys : List Nat) (i : Nat) : expandGo m i ys (xs.drop (chosenBelow m i)) =
    (List.range' i ys.length).map fun k => if m.getLsbD k then xs.getD (chosenBelow m k) 0 else 0 := by
  induction ys generalizing i with
  | nil => rfl
  | cons y ys ih =>
    have next := ih (i + 1)
    rw [chosenBelow_succ] at next
    rw [expandGo, List.length_cons, List.range'_succ, List.map_cons, ← next]
    cases m.getLsbD i with
    | true => simp [List.headD_eq_head?_getD, List.getD_eq_getElem?_getD]
    | false => rfl

/-- The lanes of a beat, expanded by a mask. -/
theorem expandGo_lanes (m : BitVec 256) (w n : Nat) (b : Beat) : expandGo m 0 (lanesOf w n b.toNat) (lanesOf w n b.toNat) =
    (List.range n).map fun i => if m.getLsbD i then Claims.laneAt w b (chosenBelow m i) else 0 := by
  have lanes : lanesOf w n b.toNat = (List.range n).map (Claims.laneAt w b) := rfl
  refine (expandGo_eq m _ _ 0).trans ?_
  rw [lanes, List.length_map, List.length_range, ← List.range_eq_range']
  refine List.map_congr_left fun i inside => ?_
  have below : chosenBelow m i < n := Nat.lt_of_le_of_lt (chosenBelow_le m i) (List.mem_range.mp inside)
  rw [List.getD_eq_getElem?_getD, List.getElem?_map, List.getElem?_range below]
  rfl

/-- The lanes of a beat, packed by a mask. -/
theorem packGo_lanes (m : BitVec 256) (w n : Nat) (b : Beat) : packGo m (lanesOf w n b.toNat) =
    ((List.range n).filter fun i => m.getLsbD i).map (Claims.laneAt w b) := by
  have paired : (lanesOf w n b.toNat).zip (List.range (lanesOf w n b.toNat).length) = (List.range n).map fun i => (Claims.laneAt w b i, i) := by
    rw [show lanesOf w n b.toNat = (List.range n).map (Claims.laneAt w b) from rfl, List.length_map, List.length_range]
    exact List.map_prod_right_eq_zip.symm
  rw [packGo, paired, List.filter_map, List.map_map]
  rfl

/-! ### The pushes of a transpose (R206) -/

/-- Pushes in a row of ticks join the results in flight. -/
theorem pushBeats_join (s : State) (slot : BitVec 3) (d : PortNo) (lat n : Nat) :
    let t := (List.range n).foldl (fun s j => s.pushBeat slot d (lat + j) 0) s
    t.mode = s.mode ∧ t.ctx.xpose = s.ctx.xpose ∧ t.ctx.ports = s.ctx.ports ∧ t.rs.pc = s.rs.pc ∧ t.rs.tick = s.rs.tick
      ∧ ∀ j < n, ∃ f ∈ t.rs.flights, f.due = s.rs.tick + (lat + j) ∧ f.act = .push slot d 0 s.rs.pc s.rs.tick := by
  induction n with
  | zero => exact ⟨rfl, rfl, rfl, rfl, rfl, fun j below => absurd below (Nat.not_lt_zero j)⟩
  | succ n ih =>
    rw [List.range_succ, List.foldl_append]
    generalize (List.range n).foldl (fun s j => s.pushBeat slot d (lat + j) 0) s = t at ih ⊢
    obtain ⟨mode, unit, ports, pc, tick, flights⟩ := ih
    simp only [List.foldl_cons, List.foldl_nil, State.pushBeat, inFlight_mode, inFlight_ctx_xpose, inFlight_ctx_ports, inFlight_rs]
    refine ⟨mode, unit, ports, pc, tick, fun j below => ?_⟩
    rcases Nat.lt_succ_iff_lt_or_eq.mp below with before | rfl
    · obtain ⟨f, flies, lands⟩ := flights j before
      exact ⟨f, List.mem_append_left _ flies, lands⟩
    · exact ⟨_, List.mem_append_right _ (List.mem_singleton_self _), by rw [tick], by rw [pc, tick]⟩

theorem popPort_fst {s t : State} (a : PortNo) (same : t.ctx.ports = s.ctx.ports) : (t.popPort a).1 = (s.popPort a).1 := by
  simp only [State.popPort, same]
  cases s.ctx.ports[a.toNat].popped with
  | some b => rfl
  | none => cases s.ctx.ports[a.toNat].beats <;> rfl

/-- A pop keeps the mode and the results in flight. -/
theorem popPort_keeps (s : State) (a : PortNo) : (s.popPort a).2.mode = s.mode ∧ ∀ f ∈ s.rs.flights, f ∈ (s.popPort a).2.rs.flights := by
  simp only [State.popPort]
  cases s.ctx.ports[a.toNat].popped with
  | some b => exact ⟨rfl, fun _ flies => flies⟩
  | none =>
    cases s.ctx.ports[a.toNat].beats with
    | nil => exact ⟨rfl, fun _ flies => flies⟩
    | cons b bs =>
      have kept : ∀ f, (s.updPort a f).rs = s.rs := fun f => by
        cases mode : s.mode <;> simp only [State.rs, State.updPort, mode]
      refine ⟨inFlight_mode .., fun f flies => ?_⟩
      simp only [inFlight_rs, kept]
      exact List.mem_append_left _ flies

/-- A unit that has more than one beat to take takes one, and stays at work. -/
theorem xposeTake_goes_on {s : State} {x : Xpose} (user : s.mode = .u) (unit : s.ctx.xpose = some x) (more : 1 < x.left) :
    let t := s.xposeTake
    t.ctx.xpose = some { x with beats := x.beats ++ [(s.popPort x.src).1], left := x.left - 1 }
      ∧ ∀ f ∈ s.rs.flights, f ∈ t.rs.flights := by
  obtain ⟨mode, flights⟩ := popPort_keeps s x.src
  simp only [State.xposeTake, user, unit, Nat.not_le.mpr more, if_false]
  refine ⟨trivial, fun f flies => ?_⟩
  have kept := flights f flies
  simp only [State.rs, mode, user] at kept ⊢
  exact kept

/-- Beats that a block of each lane width takes, two for each bit (R206). -/
theorem xposeBeats_eq : ∀ w : BitVec 2, w ≠ 3 → xposeBeats w = 2 * (32 / 2 ^ w.toNat) ∧ 1 < xposeBeats w := by decide

/-- XPOSE issues: its unit has its first beat, and its pushes are in flight. -/
theorem xpose_issues {s : State} {g : Guard} {d a : PortNo} {w : BitVec 2} (serves : ReadsAndPushes [a.setWidth 6] 31 s) (turn : Turn g s)
    (idle : s.ctx.xpose = none) (pass : s.pushTrap 6 d (xposeBeats w) = none) (many : 1 < xposeBeats w) :
    ∃ t x, exec (.xpose g d a w) s = .next t ∧ t.ctx.xpose = some x ∧ x.src = a ∧ x.dst = d ∧ x.beats = [(s.popPort a).1]
      ∧ x.left + 1 = xposeBeats w ∧ ∀ j < xposeBeats w, ∃ f ∈ t.rs.flights,
        f.due = s.rs.tick + 64 + j ∧ ∃ v, f.act = .push 6 d v s.rs.pc s.rs.tick := by
  obtain ⟨user, noTrap, given⟩ := read_serves serves
  have noTrap : (meaningXpose d a w).trap s = none := by simp only [meaningXpose, xtrap, user, idle, noTrap, pass]; rfl
  have acts := (exec_slot (i := .xpose g d a w) rfl s).trans (runSlot_act turn (Nat.zero_le _) noTrap given)
  obtain ⟨mode, unit, ports, pc, tick, pushes⟩ := pushBeats_join { s with
    ctx := { s.ctx with xpose := some ⟨w, a, d, [], xposeBeats w, s.seq⟩ } } 6 d 64 (xposeBeats w)
  obtain ⟨goes, flights⟩ := xposeTake_goes_on (mode.trans user) unit many
  refine ⟨_, _, acts, goes, rfl, rfl, congrArg (fun b => [b]) (popPort_fst a ports), Nat.sub_add_cancel (Nat.le_of_lt many), fun j below => ?_⟩
  obtain ⟨f, flies, due, act⟩ := pushes j below
  exact ⟨f, flights f flies, due.trans (Nat.add_assoc ..).symm, _, act⟩

/-- Settles O23: the ports serve, so each instruction pops its beat and pushes what it makes of it; XPOSE's pushes all join at issue. -/
theorem transforms : Obligations.Transforms := by
  unfold Obligations.Transforms
  intro s g d a turn idle serves pushes
  refine ⟨fun p h => ?xcvt, fun l w lanes => ⟨?xexp, ?xpack⟩, fun w lanes pass => ?xpose⟩
  case xcvt => exact xslot_pushes serves (i := .xcvt g d a p h) rfl turn idle pushes
  case xexp =>
    refine (xslot_pushes serves (i := .xexp g d a l w) rfl turn idle pushes).trans ?_
    dsimp only
    rw [expandGo_lanes]
    rfl
  case xpack =>
    refine (xslot_pushes serves (i := .xpack g d a l w) rfl turn idle pushes).trans ?_
    dsimp only
    rw [packGo_lanes]
    rfl
  case xpose =>
    obtain ⟨count, many⟩ := xposeBeats_eq w lanes
    rw [← count] at pass ⊢
    exact xpose_issues serves turn idle pass many

end Sys2Proof.Proofs

/-! # Speculative decoding (chapter 10): the requests of the SQ instructions -/

namespace Sys2Proof.Proofs

open Sys2Proof Sys2Proof.Machine Sys2Proof.Claims Sys2Proof.Laws

/-! ### Operands in the own SPM (R104, R215) -/

theorem linePieces_cons (fuel a : Nat) {n : Nat} (some_byte : 0 < n) :
    linePieces (fuel + 1) a n = (a, min n (128 - a % 128)) :: linePieces fuel (a + min n (128 - a % 128)) (n - min n (128 - a % 128)) := by
  rw [linePieces, if_neg (Nat.ne_of_gt some_byte)]

/-- An engine reaches nothing at an address above the 48 bits (R104). -/
theorem span_high {va : Word} {n : Nat} (high : va.extractLsb' 48 16 ≠ (0 : BitVec 16)) (some_byte : 0 < n) (s : State) (atp : Word) (mode : Mode)
    (acc : Acc) : ∃ f, s.span atp mode acc va n = .error f := by
  obtain ⟨fuel, pieces⟩ : ∃ fuel, (va.toNat % 128 + n + 127) / 128 = fuel + 1 := ⟨(va.toNat % 128 + n - 1) / 128, by omega⟩
  refine ⟨⟨.tfault, va⟩, ?_⟩
  rw [State.span, piecesOf, pieces, linePieces_cons fuel _ some_byte, State.spanGo, BitVec.ofNat_toNat, BitVec.setWidth_eq, State.translate, if_pos high]

/-- What stands in the own SPM has an address of 48 bits. -/
theorem low_of_inOwnSpm {s : State} {va : Word} {n : Nat} (own : s.inOwnSpm va n = true) : va.extractLsb' 48 16 = (0 : BitVec 16) := by
  refine Decidable.byContradiction fun high => ?_
  obtain ⟨f, fails⟩ := span_high high (Nat.lt_of_lt_of_le Nat.zero_lt_one (Nat.le_max_right n 1)) s s.ctx.csr.atp .u .read
  rw [State.inOwnSpm, State.mxSpan, fails] at own
  exact Bool.false_ne_true own

/-- An aligned operand in the own SPM passes its check. -/
theorem spmCheck_none {s : State} {va : Word} {alignment n : Nat} (aligned : va.toNat % alignment = 0) (own : s.inOwnSpm va n = true) :
    s.spmCheck va alignment n = none := by
  rw [State.spmCheck, if_neg fun bad => bad.2 aligned, State.ownSpmTrap, if_neg (not_not_intro (low_of_inOwnSpm own)), if_pos own]

/-! ### Roles (R210) -/

/-- The role is the two low bits of SQROLE. -/
theorem role_testBit (s : State) {i : Nat} (below : i < 2) : s.role.testBit i = s.ctx.csr.sqrole.getLsbD i := by
  rw [State.role, BitVec.testBit_toNat, BitVec.getLsbD_extractLsb', decide_eq_true below, Bool.true_and, Nat.zero_add]

theorem role_prospector {s : State} (pro : s.ctx.csr.sqrole.getLsbD 0 = true) : s.role % 2 = 1 := by
  simpa [Nat.testBit_zero] using (role_testBit s Nat.zero_lt_two).trans pro

theorem role_assayer {s : State} (assay : s.ctx.csr.sqrole.getLsbD 1 = true) : 2 ≤ s.role :=
  Nat.ge_two_pow_of_testBit ((role_testBit s Nat.one_lt_two).trans assay)

/-! ### The request and its hold (R215, R376) -/

/-- An SQ instruction without a `b` register asks with 0 in its place. -/
theorem src_singleton_one (a : SReg) (s : State) : src [a] s 1 = 0 := by
  cases pop : isPop a <;> simp [src, operands, pop]

/-- What the core holds for is no part of what an instruction leaves still. -/
theorem still_wait (s : State) (w : Wait) : still (s.setRs { s.rs with wait := w }) = still s := by
  cases mode : s.mode <;> simp only [State.setRs, State.rs, still, stillSet, mode]

/-- The request leaves, with the combining buffer before it, and the core holds for the reply. -/
theorem flushComb_asks (u : State) (d : SReg) (op : SqOp) (a b : Word) :
    SqAsked u (u.flushComb.setRs { u.flushComb.rs with wait := .sq d op a b }) d op a b := by
  obtain ⟨-, -, same⟩ := flushComb_still u
  refine ⟨?wait, ?comb, ?reqs, ?flights, (still_wait u.flushComb _).trans same⟩
  case wait => rw [setRs_rs]
  case comb => rw [setRs_comb, State.flushComb, setRs_comb]
  all_goals simp only [setRs_rs, State.flushComb]

/-- An SQ instruction that passes the checks at issue sends its request. -/
theorem sq_asks {i : Instr} {g : Guard} {d a : SReg} {b : Option SReg} {op : SqOp} {s : State} (means : meaningOf i = some (g, meaningSq d a b op))
    (turn : Turn g s) (reads : Operable (a :: b.toList) [d] s)
    (pass : sqCheck op (src (a :: b.toList) s 0) (src (a :: b.toList) s 1) s = none) :
    ∃ t, exec i s = .next t ∧ SqAsked (popped (a :: b.toList) s) t d op (src (a :: b.toList) s 0) (src (a :: b.toList) s 1) := by
  refine ⟨_, (exec_slot means s).trans ?_, flushComb_asks _ d op _ _⟩
  cases b <;> exact runSlot_scalar turn reads pass rfl

/-- Settles O18: each operation passes its checks at issue, and every one that does sends its request and holds. -/
theorem sequenceRequests : Obligations.SequenceRequests := by
  unfold Obligations.SequenceRequests
  intro s g d a b turn
  dsimp only
  refine ⟨fun reads => ⟨fun pro range some_slot most aligned own => ?get, fun pro slot word se nn => ?node, fun assay slot aligned own => ?mask,
    fun assay slot => ?accept, fun sup slot => ?enlist, fun sup slot zero => ?stop, fun sup slot bit => ?release, fun sup zero => ?pool⟩,
    fun reads slot => ⟨fun assay => ?commit, fun role => ?roll⟩⟩
  case get =>
    exact sq_asks (b := some b) rfl turn reads (by
      simpa [-Nat.reducePow, sqCheck, role_prospector pro, range, some_slot, most] using spmCheck_none aligned own)
  case node =>
    exact sq_asks (b := some b) rfl turn reads (by simp [-Nat.reducePow, sqCheck, slotOk, role_prospector pro, slot, word])
  case mask =>
    exact sq_asks (b := some b) rfl turn reads (by
      simpa [sqCheck, slotOk, role_assayer assay, slot] using spmCheck_none aligned own)
  case accept => exact sq_asks (b := some b) rfl turn reads (by simp [sqCheck, slotOk, role_assayer assay, slot])
  case enlist => exact sq_asks (b := some b) rfl turn reads (by simp [sqCheck, slotOk, sup, slot])
  case stop =>
    refine ⟨?preempt, ?resume, ?retire⟩
    all_goals exact sq_asks (b := some b) rfl turn reads (by simp [sqCheck, slotOk, sup, slot, zero])
  case release => exact sq_asks (b := some b) rfl turn reads (by simp [sqCheck, slotOk, sup, slot, bit])
  case pool => exact sq_asks (b := some b) rfl turn reads (by simp [sqCheck, sup, zero])
  case commit =>
    rw [← src_singleton_one a s]
    exact sq_asks (b := none) rfl turn reads (by simp [sqCheck, slotOk, role_assayer assay, slot])
  case roll =>
    rw [← src_singleton_one a s]
    have allowed : s.role % 2 = 1 ∨ 2 ≤ s.role := role.imp role_prospector role_assayer
    exact sq_asks (b := none) rfl turn reads (by simp [sqCheck, slotOk, allowed, slot])

end Sys2Proof.Proofs

/-! # Traps and preemption (chapter 12): the taking of a pending trap -/

namespace Sys2Proof.Proofs

open Sys2Proof Sys2Proof.Machine Sys2Proof.Claims Sys2Proof.Laws

/-! ### The order of two pending causes (R245) -/

/-- R245's four classes in their order. -/
theorem trapClass_eq (t : Trap) :
    trapClass t = if t.cause = .mchk then 0 else if t.kind = .boundary then 1 else if t.cause = .copyfault then 2 else 3 := by
  obtain ⟨cause, kind⟩ := t
  cases cause <;> cases kind <;> rfl

theorem trapClass_le_zero_iff (t : Trap) : trapClass t ≤ 0 ↔ t.cause = .mchk := by
  rw [trapClass_eq]
  grind

theorem trapClass_le_one_iff (t : Trap) : trapClass t ≤ 1 ↔ t.cause = .mchk ∨ t.kind = .boundary := by
  rw [trapClass_eq]
  grind

theorem trapClass_le_two_iff (t : Trap) : trapClass t ≤ 2 ↔ t.cause = .mchk ∨ t.kind = .boundary ∨ t.cause = .copyfault := by
  rw [trapClass_eq]
  grind

/-- A cause does not go before one of an earlier class, nor before one of its own class that issued no later. -/
theorem trapBefore_eq_false_iff {u t : Trap} :
    trapBefore u t = false ↔ trapClass t < trapClass u ∨ trapClass t = trapClass u ∧ t.ttick ≤ u.ttick := by
  simp only [trapBefore, Bool.or_eq_false_iff, Bool.and_eq_false_imp, decide_eq_false_iff_not, beq_iff_eq]
  omega

theorem trapBefore_irrefl (t : Trap) : trapBefore t t = false := trapBefore_eq_false_iff.mpr (.inr ⟨rfl, Nat.le_refl _⟩)

theorem trapBefore_asymm {u t : Trap} (h : trapBefore u t = true) : trapBefore t u = false := by
  rw [← Bool.not_eq_false, trapBefore_eq_false_iff] at h
  rw [trapBefore_eq_false_iff]
  omega

/-- The order of classes and issue ticks is a weak order: not going before is transitive. -/
theorem not_trapBefore_trans {u t v : Trap} (ut : trapBefore u t = false) (tv : trapBefore t v = false) : trapBefore u v = false := by
  rw [trapBefore_eq_false_iff] at *
  omega

/-- MCHK is not overtaken. -/
theorem mchk_of_not_trapBefore {u t : Trap} (h : trapBefore u t = false) (mchk : u.cause = .mchk) : t.cause = .mchk := by
  have := (trapClass_le_zero_iff u).mpr mchk
  rw [trapBefore_eq_false_iff] at h
  exact (trapClass_le_zero_iff t).mp (by omega)

/-- A boundary cause is overtaken by MCHK and by a boundary cause that issued no later alone. -/
theorem boundary_of_not_trapBefore {u t : Trap} (h : trapBefore u t = false) (boundary : u.kind = .boundary) (other : t.cause ≠ .mchk) :
    u.cause = .mchk ∨ t.kind = .boundary ∧ t.ttick ≤ u.ttick := by
  have below := (trapClass_le_one_iff u).mpr (.inr boundary)
  have above := mt (trapClass_le_zero_iff t).mp other
  rw [trapBefore_eq_false_iff] at h
  exact .inr ⟨((trapClass_le_one_iff t).mp (by omega)).resolve_left other, by omega⟩

/-- BUSMISS does not overtake COPYFAULT. -/
theorem not_busmiss_of_not_trapBefore {u t : Trap} (h : trapBefore u t = false) (copy : u.cause = .copyfault) (kind : t.kind ≠ .boundary) :
    t.cause ≠ .busmiss := by
  have := (trapClass_le_two_iff u).mpr (.inr (.inr copy))
  rw [trapBefore_eq_false_iff] at h
  obtain mchk | boundary | copy := (trapClass_le_two_iff t).mp (by omega)
  · simp [mchk]
  · exact absurd boundary kind
  · simp [copy]

/-! ### The cause taken of several -/

/-- Where something is pending, a cause is taken. -/
theorem firstTrap_cons_ne_none (t : Trap) (ts : List Trap) : firstTrap (t :: ts) ≠ none := by
  rw [firstTrap]
  split
  · exact Option.some_ne_none _
  · split <;> exact Option.some_ne_none _

/-- The cause taken is the only one, the head where the one taken of the rest does not go before it, or else that one. -/
theorem firstTrap_cons {t x : Trap} {ts : List Trap} (h : firstTrap (t :: ts) = some x) :
    (ts = [] ∧ x = t) ∨ ∃ y, firstTrap ts = some y ∧ (x = t ∧ trapBefore y t = false ∨ x = y ∧ trapBefore y t = true) := by
  rw [firstTrap] at h
  split at h
  next empty =>
    cases ts with
    | nil => exact .inl ⟨rfl, (Option.some.inj h).symm⟩
    | cons u us => exact absurd empty (firstTrap_cons_ne_none u us)
  next y rest =>
    split at h
    next before => exact .inr ⟨y, rest, .inr ⟨(Option.some.inj h).symm, before⟩⟩
    next after => exact .inr ⟨y, rest, .inl ⟨(Option.some.inj h).symm, eq_false_of_ne_true after⟩⟩

/-- The cause taken is one of the pending ones. -/
theorem firstTrap_mem {ts : List Trap} {x : Trap} (h : firstTrap ts = some x) : x ∈ ts := by
  induction ts with
  | nil => cases h
  | cons t ts ih =>
    obtain ⟨-, rfl⟩ | ⟨y, rest, ⟨rfl, -⟩ | ⟨rfl, -⟩⟩ := firstTrap_cons h
    · exact List.mem_cons_self
    · exact List.mem_cons_self
    · exact List.mem_cons_of_mem _ (ih rest)

/-- Nothing pending goes before the cause taken. -/
theorem not_trapBefore_firstTrap {ts : List Trap} {x : Trap} (h : firstTrap ts = some x) : ∀ u ∈ ts, trapBefore u x = false := by
  induction ts generalizing x with
  | nil => cases h
  | cons t ts ih =>
    obtain ⟨rfl, rfl⟩ | ⟨y, rest, ⟨rfl, least⟩ | ⟨rfl, before⟩⟩ := firstTrap_cons h
    · exact List.forall_mem_singleton.mpr (trapBefore_irrefl x)
    · exact List.forall_mem_cons.mpr ⟨trapBefore_irrefl x, fun u mem => not_trapBefore_trans (ih rest u mem) least⟩
    · exact List.forall_mem_cons.mpr ⟨trapBefore_asymm before, ih rest⟩

/-! ### Trap entry (R246) -/

/-- The replies that trap entry waits for fill results and end requests: nothing else of the register set changes. -/
theorem reply_eq (r : RegSet) : ∃ flights reqs, r.reply = { r with flights := flights, reqs := reqs } := by
  rw [RegSet.reply]
  refine List.foldlRecOn r.reqs _ (motive := fun acc : RegSet => ∃ flights reqs, acc = { r with flights := flights, reqs := reqs }) ⟨_, _, rfl⟩ ?_
  rintro _ ⟨flights, reqs, rfl⟩ q -
  split
  · split <;> exact ⟨_, _, rfl⟩
  · exact ⟨_, _, rfl⟩

/-- The frozen register set keeps everything but its results in flight and its requests. -/
theorem freeze_eq (r : RegSet) (found : List Trap) : ∃ flights reqs, r.freeze found = { r with flights := flights, reqs := reqs } := by
  obtain ⟨flights, reqs, e⟩ := reply_eq r
  exact ⟨flights, _, by rw [RegSet.freeze, e]; rfl⟩

@[simp] theorem freeze_s (r : RegSet) (found : List Trap) : (r.freeze found).s = r.s := by obtain ⟨_, _, e⟩ := freeze_eq r found; rw [e]
@[simp] theorem freeze_h (r : RegSet) (found : List Trap) : (r.freeze found).h = r.h := by obtain ⟨_, _, e⟩ := freeze_eq r found; rw [e]
@[simp] theorem freeze_tick (r : RegSet) (found : List Trap) : (r.freeze found).tick = r.tick := by obtain ⟨_, _, e⟩ := freeze_eq r found; rw [e]

/-- The record of a boundary cause names the bundle and the tick at which its instruction issued. -/
theorem enterTrap_record_of_boundary {s : State} {x : Trap} (boundary : x.kind = .boundary) :
    (s.enterTrap x).trap.tbaddr = x.tbaddr.setWidth 48 ∧ (s.enterTrap x).trap.ttick = BitVec.ofNat 64 x.ttick := by
  simp [State.enterTrap, boundary]

/-- A core that holds for nothing waits for no reply before trap entry. -/
theorem trapDue_of_no_wait {s : State} (live : s.live = true) (mode : s.mode = .u) (turn : s.trap.skipBreak = false) (idle : s.ctx.rs.wait = .none) :
    s.trapDue = true := by
  simp [State.trapDue, entryHeld, live, mode, turn, idle]

/-- A single pending cause may be taken, PROBEHALT once nothing is due to land (R234). -/
theorem ripe_singleton {s : State} {x : Trap} (mode : s.mode = .u) (only : s.pending = [x])
    (landed : x.cause = .probehalt → ∀ f ∈ s.ctx.rs.flights, s.ctx.rs.tick < f.due) : s.ripe = [x] := by
  rw [State.ripe, only]
  split
  next => rfl
  next due =>
    have other : x.cause ≠ .probehalt := fun halt => due (by
      simpa [State.rs, mode, RegSet.due, List.filter_eq_nil_iff] using landed halt)
    simp [other]

/-- A cause that fixes no address of its own leaves ERET the first bundle not issued. -/
theorem resumeAt_of_no_wait {r : RegSet} {x : Trap} (own : x.tepc = none) (idle : r.wait = .none) : r.resumeAt x = r.pc := by
  rw [RegSet.resumeAt, own, idle]

/-- Settles O33: the one ripe cause enters, and the order of classes and issue ticks has a least element that `firstTrap` finds. -/
theorem pendingTrapsAreTaken : Obligations.PendingTrapsAreTaken := by
  unfold Obligations.PendingTrapsAreTaken
  refine ⟨fun s x live mode turn idle only own landed => ?entry, fun ts t h => ⟨firstTrap_mem h, fun u mem => ?order⟩⟩
  case entry =>
    have taken : exec .trapEntry s = .next (s.enterTrap x) := by
      change Host.Outcome.next s.trapEntry = _
      simp [State.trapEntry, trapDue_of_no_wait live mode turn idle, ripe_singleton mode only landed, firstTrap]
    have resumes : (s.enterTrap x).trap.tepc = s.ctx.rs.pc.setWidth 48 := by rw [← resumeAt_of_no_wait own idle]; rfl
    have none_left : (s.enterTrap x).pending = [] := by simp [State.enterTrap, only]
    exact ⟨_, taken, enterTrap_mode s x, rfl, rfl, rfl, rfl, resumes, rfl, rfl, rfl, enterTrap_record_of_boundary, rfl, rfl, rfl, rfl, none_left,
      freeze_s .., freeze_h .., freeze_tick .., rfl, enterTrap_mem s x, rfl, rfl, rfl, rfl, rfl⟩
  case order =>
    have last := not_trapBefore_firstTrap h u mem
    exact ⟨last, mchk_of_not_trapBefore last, boundary_of_not_trapBefore last, not_busmiss_of_not_trapBefore last⟩

end Sys2Proof.Proofs

/-! # Encoding (chapter 16): each slot's word and its instruction, and the words that no instruction has -/

namespace Sys2Proof.Proofs

open Sys2Proof Sys2Proof.Machine Sys2Proof.Claims Sys2Proof.Laws

/-! ### Fields of a word that is written as parts one after another -/

/-- A field is two parts put together exactly where its upper and its lower bits are those parts. -/
theorem fld_append_iff {N m n : Nat} {w : BitVec N} {lo : Nat} {x : BitVec m} {y : BitVec n} :
    fld w lo (m + n) = x ++ y ↔ fld w (lo + n) m = x ∧ fld w lo n = y := by
  have cut : fld w (lo + n) m ++ fld w lo n = fld w lo (m + n) := BitVec.extractLsb'_append_extractLsb'_eq_extractLsb' rfl
  constructor
  · intro h
    rw [← cut] at h
    have upper := congrArg (fld · n m) h
    have lower := congrArg (fld · 0 n) h
    simp only [BitVec.extractLsb'_append_eq_left, BitVec.extractLsb'_append_eq_right] at upper lower
    exact ⟨upper, lower⟩
  · rintro ⟨rfl, rfl⟩
    exact cut.symm

theorem fld_cast_iff {N m n k : Nat} {w : BitVec N} {lo : Nat} {x : BitVec m} {y : BitVec n} {h : m + n = k} :
    fld w lo k = (x ++ y).cast h ↔ fld w (lo + n) m = x ∧ fld w lo n = y := by
  subst h
  exact fld_append_iff

theorem cast_append_eq_iff {N m n : Nat} {w : BitVec N} {x : BitVec m} {y : BitVec n} {h : m + n = N} :
    (x ++ y).cast h = w ↔ fld w n m = x ∧ fld w 0 n = y := by
  subst h
  rw [BitVec.cast_eq, eq_comm, ← BitVec.extractLsb'_eq_self (x := w)]
  simpa using fld_append_iff (w := w) (lo := 0) (x := x) (y := y)

/-- A field of a field is a field of the word. -/
theorem fld_fld {N a n lo len : Nat} {w : BitVec N} (h : lo + len ≤ n) : fld (fld w a n) lo len = fld w (a + lo) len := by
  ext i lt
  have : lo + i < n := by omega
  simp [this, Nat.add_assoc]

/-- A reserved field of zeros, cut in two. -/
theorem fld_eq_zero_iff {N k : Nat} {w : BitVec N} {lo : Nat} (m n : Nat) (h : m + n = k) :
    fld w lo k = 0 ↔ fld w (lo + n) m = 0 ∧ fld w lo n = 0 := by
  subst h
  rw [← fld_append_iff]
  simp

theorem fld_eq_ofBool_iff {N : Nat} {w : BitVec N} {lo : Nat} {b : Bool} : fld w lo 1 = BitVec.ofBool b ↔ w.getLsbD lo = b := by
  rw [BitVec.eq_of_getLsbD_eq_iff]
  simp


theorem fld_hi {w : BitVec 56} {o : BitVec 8} (op : fld w 42 8 = o) : fld w 46 4 = fld o 4 4 := by
  rw [← op, fld_fld (by decide)]

theorem fld_lo {w : BitVec 56} {o : BitVec 8} (op : fld w 42 8 = o) : fld w 42 4 = fld o 0 4 := by
  rw [← op, fld_fld (by decide)]

theorem fld_op {w : BitVec 56} {x y : BitVec 4} (hi : fld w 46 4 = x) (lo : fld w 42 4 = y) : fld w 42 8 = x ++ y :=
  fld_append_iff.mpr ⟨hi, lo⟩


theorem fld_one_eq_zero_iff {N : Nat} {w : BitVec N} {lo : Nat} : fld w lo 1 = 0#1 ↔ w.getLsbD lo = false := by
  rw [← fld_eq_ofBool_iff]
  rfl

theorem encSR_iff {w g op d a b f} : encSR g op d a b f = .s w ↔
    fld w 50 6 = g ∧ fld w 42 8 = op ∧ fld w 36 6 = d ∧ fld w 30 6 = a ∧ fld w 24 6 = b ∧ fld w 16 8 = f ∧ fld w 0 16 = 0 := by
  rw [encSR, Enc.s.injEq]
  simp only [cast_append_eq_iff, fld_append_iff, and_assoc]
  rfl

theorem encSI_iff {w g op d a f} : encSI g op d a f = .s w ↔
    fld w 50 6 = g ∧ fld w 42 8 = op ∧ fld w 36 6 = d ∧ fld w 30 6 = a ∧ fld w 0 30 = f := by
  rw [encSI, Enc.s.injEq]
  simp only [cast_append_eq_iff, fld_append_iff, and_assoc]

theorem encSL_iff {w g op d base disp size sign ord scope lat} : encSL g op d base disp size sign ord scope lat = .s w ↔
    fld w 50 6 = g ∧ fld w 42 8 = op ∧ fld w 36 6 = d ∧ fld w 30 6 = base ∧ fld w 14 16 = disp ∧ fld w 12 2 = size ∧ bit w 11 = sign
      ∧ fld w 9 2 = ord ∧ fld w 6 3 = scope ∧ fld w 0 6 = lat := by
  rw [encSL, Enc.s.injEq]
  simp only [cast_append_eq_iff, fld_append_iff, fld_eq_ofBool_iff, and_assoc]

theorem encSA_iff {w g op d a b c fo size ord scope lat} : encSA g op d a b c fo size ord scope lat = .s w ↔
    fld w 50 6 = g ∧ fld w 42 8 = op ∧ fld w 36 6 = d ∧ fld w 30 6 = a ∧ fld w 24 6 = b ∧ fld w 18 6 = c ∧ bit w 17 = fo
      ∧ fld w 14 3 = 0 ∧ fld w 12 2 = size ∧ bit w 11 = false ∧ fld w 9 2 = ord ∧ fld w 6 3 = scope ∧ fld w 0 6 = lat := by
  rw [encSA, Enc.s.injEq]
  simp only [cast_append_eq_iff, fld_append_iff, fld_eq_ofBool_iff, fld_one_eq_zero_iff, and_assoc]
  rfl

theorem encSX_iff {w g op d a csr imm} : encSX g op d a csr imm = .s w ↔
    fld w 50 6 = g ∧ fld w 42 8 = op ∧ fld w 36 6 = d ∧ fld w 30 6 = a ∧ fld w 18 12 = csr ∧ fld w 0 18 = imm := by
  rw [encSX, Enc.s.injEq]
  simp only [cast_append_eq_iff, fld_append_iff, and_assoc]

theorem encSH_iff {w g op d a hA hB fn scope} : encSH g op d a hA hB fn scope = .s w ↔
    fld w 50 6 = g ∧ fld w 42 8 = op ∧ fld w 36 6 = d ∧ fld w 30 6 = a ∧ fld w 25 5 = hA ∧ fld w 20 5 = hB ∧ fld w 12 8 = fn
      ∧ fld w 9 3 = 0 ∧ fld w 6 3 = scope ∧ fld w 0 6 = 0 := by
  rw [encSH, Enc.s.injEq]
  simp only [cast_append_eq_iff, fld_append_iff, and_assoc]
  rfl

theorem encV_iff {k w j g op t d a b c} : encV k g op t d a b c = .v j w ↔
    k = j ∧ fld w 30 6 = g ∧ fld w 25 5 = op ∧ fld w 22 3 = t.bits ∧ fld w 17 5 = d ∧ fld w 11 6 = a ∧ fld w 5 6 = b ∧ fld w 0 5 = c := by
  rw [encV, Enc.v.injEq]
  simp only [cast_append_eq_iff, fld_append_iff, and_assoc]

theorem encC_iff {k w j g op s d n mode} : encC k g op s d n mode = .c j w ↔
    k = j ∧ fld w 26 6 = g ∧ fld w 21 5 = op ∧ fld w 16 5 = s ∧ fld w 11 5 = d ∧ fld w 8 3 = n ∧ fld w 0 8 = mode := by
  rw [encC, Enc.c.injEq]
  simp only [cast_append_eq_iff, fld_append_iff, and_assoc]

theorem encX_iff {w g op d a mode} : encX g op d a mode = .x w ↔
    fld w 18 6 = g ∧ fld w 14 4 = op ∧ fld w 9 5 = d ∧ fld w 4 5 = a ∧ fld w 0 4 = mode := by
  rw [encX, Enc.x.injEq]
  simp only [cast_append_eq_iff, fld_append_iff, and_assoc]

/-! ### Codes of the enumerations -/

theorem Size.bits_ofBits : ∀ x, (Size.ofBits x).bits = x := by decide
theorem Size.ofBits_bits (c : Size) : Size.ofBits c.bits = c := by cases c <;> rfl
theorem Order.bits_ofBits : ∀ x, (Order.ofBits x).bits = x := by decide
theorem Order.ofBits_bits (c : Order) : Order.ofBits c.bits = c := by cases c <;> rfl
theorem Cond.ofBits_eq_some : ∀ {x : BitVec 4} {c : Cond}, Cond.ofBits x = some c ↔ x = c.bits := by
  have : ∀ x, ∀ c ∈ Cond.ofBits x, x = c.bits := by decide
  exact fun {x c} => ⟨this x c, fun h => by subst h; cases c <;> rfl⟩
theorem AtomOp.ofBits_eq_some : ∀ {x : BitVec 4} {c : AtomOp}, AtomOp.ofBits x = some c ↔ x = c.bits := by
  have : ∀ x, ∀ c ∈ AtomOp.ofBits x, x = c.bits := by decide
  exact fun {x c} => ⟨this x c, fun h => by subst h; cases c <;> rfl⟩
theorem BrCond.ofBits_eq_some : ∀ {x : BitVec 3} {c : BrCond}, BrCond.ofBits x = some c ↔ x = c.bits := by
  have : ∀ x, ∀ c ∈ BrCond.ofBits x, x = c.bits := by decide
  exact fun {x c} => ⟨this x c, fun h => by subst h; cases c <;> rfl⟩
theorem RSel.ofBits_eq_some : ∀ {x : BitVec 3} {c : RSel}, RSel.ofBits x = some c ↔ x = c.bits := by
  have : ∀ x, ∀ c ∈ RSel.ofBits x, x = c.bits := by decide
  exact fun {x c} => ⟨this x c, fun h => by subst h; cases c <;> rfl⟩
theorem HField.ofBits_eq_some : ∀ {x : BitVec 8} {c : HField}, HField.ofBits x = some c ↔ x = c.bits := by
  have : ∀ x, ∀ c ∈ HField.ofBits x, x = c.bits := by decide
  exact fun {x c} => ⟨this x c, fun h => by subst h; cases c <;> rfl⟩
theorem EType.bits_ofBits : ∀ x, (EType.ofBits x).bits = x := by decide
theorem EType.ofBits_bits (c : EType) : EType.ofBits c.bits = c := by cases c <;> rfl
theorem VType.bits_ofBits : ∀ x, (VType.ofBits x).bits = x := by decide
theorem VType.ofBits_bits (c : VType) : VType.ofBits c.bits = c := by cases c <;> rfl
theorem VSlot.bit_ofBit : ∀ b, (VSlot.ofBit b).bit = b := by decide
theorem VSlot.ofBit_bit (c : VSlot) : VSlot.ofBit c.bit = c := by cases c <;> rfl


/-! ### What a slot decodes to is encoded by its word -/

/-- The instruction is well formed and has this word. -/
def Encodes (i : Instr) (e : Enc) : Prop := i.wf = true ∧ encode i = some e

theorem Encodes.of_eq {i : Instr} {e e' : Enc} (wf : i.wf = true) (enc : encode i = some e') (eq : e' = e) : Encodes i e :=
  ⟨wf, enc.trans (congrArg some eq)⟩

theorem dec_ok {z : Bool} {o : Option Instr} {i : Instr} : dec z o = .ok i ↔ z = true ∧ o = some i := by
  cases z <;> cases o <;> simp [dec]

theorem dec_some_ok {z : Bool} {j i : Instr} : dec z (some j) = .ok i ↔ z = true ∧ j = i := by
  rw [dec_ok, Option.some.injEq]

theorem decWf_ok {z : Bool} {j i : Instr} : decWf z j = .ok i ↔ z = true ∧ j.wf = true ∧ j = i := by
  rw [decWf, dec_ok]
  simp

theorem bindWf_ok {α : Type} {o : Option α} {k : α → Instr} {i : Instr} :
    (do let c ← o; if (k c).wf then some (k c) else none) = some i ↔ ∃ c, o = some c ∧ (k c).wf = true ∧ k c = i := by
  cases o <;> simp

section
variable {w : BitVec 56} {i : Instr} {o : BitVec 8}

theorem decBare_encodes {k : BitVec 6 → Instr} (op : fld w 42 8 = o) (h : decBare w k = .ok i)
    (enc : ∀ g, Encodes (k g) (encSR g o 0 0 0 0)) : Encodes i (.s w) := by
  obtain ⟨z, rfl⟩ := dec_some_ok.mp h
  obtain ⟨d, z⟩ := (fld_eq_zero_iff 6 36 rfl).mp (eq_of_beq z)
  obtain ⟨a, z⟩ := (fld_eq_zero_iff 6 30 rfl).mp z
  obtain ⟨b, z⟩ := (fld_eq_zero_iff 6 24 rfl).mp z
  obtain ⟨func, low⟩ := (fld_eq_zero_iff 8 16 rfl).mp z
  rw [← encSR_iff.mpr ⟨rfl, op, d, a, b, func, low⟩]
  exact enc _

theorem decD_encodes {k : BitVec 6 → BitVec 6 → Instr} (op : fld w 42 8 = o) (h : decD w k = .ok i)
    (enc : ∀ g d, Encodes (k g d) (encSR g o d 0 0 0)) : Encodes i (.s w) := by
  obtain ⟨z, rfl⟩ := dec_some_ok.mp h
  obtain ⟨a, z⟩ := (fld_eq_zero_iff 6 30 rfl).mp (eq_of_beq z)
  obtain ⟨b, z⟩ := (fld_eq_zero_iff 6 24 rfl).mp z
  obtain ⟨func, low⟩ := (fld_eq_zero_iff 8 16 rfl).mp z
  rw [← encSR_iff.mpr ⟨rfl, op, rfl, a, b, func, low⟩]
  exact enc ..

theorem decDA_encodes {k : BitVec 6 → BitVec 6 → BitVec 6 → Instr} (op : fld w 42 8 = o) (h : decDA w k = .ok i)
    (enc : ∀ g d a, Encodes (k g d a) (encSR g o d a 0 0)) : Encodes i (.s w) := by
  obtain ⟨z, rfl⟩ := dec_some_ok.mp h
  obtain ⟨b, z⟩ := (fld_eq_zero_iff 6 24 rfl).mp (eq_of_beq z)
  obtain ⟨func, low⟩ := (fld_eq_zero_iff 8 16 rfl).mp z
  rw [← encSR_iff.mpr ⟨rfl, op, rfl, rfl, b, func, low⟩]
  exact enc ..

theorem decA_encodes {k : BitVec 6 → BitVec 6 → Instr} (op : fld w 42 8 = o) (h : decA w k = .ok i)
    (enc : ∀ g a, Encodes (k g a) (encSR g o 0 a 0 0)) : Encodes i (.s w) := by
  obtain ⟨z, rfl⟩ := dec_some_ok.mp h
  obtain ⟨z, d⟩ := Bool.and_eq_true_iff.mp z
  obtain ⟨b, z⟩ := (fld_eq_zero_iff 6 24 rfl).mp (eq_of_beq z)
  obtain ⟨func, low⟩ := (fld_eq_zero_iff 8 16 rfl).mp z
  rw [← encSR_iff.mpr ⟨rfl, op, eq_of_beq d, rfl, b, func, low⟩]
  exact enc ..

theorem decAB_encodes {k : BitVec 6 → BitVec 6 → BitVec 6 → Instr} (op : fld w 42 8 = o) (h : decAB w k = .ok i)
    (enc : ∀ g a b, Encodes (k g a b) (encSR g o 0 a b 0)) : Encodes i (.s w) := by
  obtain ⟨z, rfl⟩ := dec_some_ok.mp h
  obtain ⟨z, d⟩ := Bool.and_eq_true_iff.mp z
  obtain ⟨func, low⟩ := (fld_eq_zero_iff 8 16 rfl).mp (eq_of_beq z)
  rw [← encSR_iff.mpr ⟨rfl, op, eq_of_beq d, rfl, rfl, func, low⟩]
  exact enc ..

theorem decDAB_encodes {k : BitVec 6 → BitVec 6 → BitVec 6 → BitVec 6 → Instr} (op : fld w 42 8 = o) (h : decDAB w k = .ok i)
    (enc : ∀ g d a b, Encodes (k g d a b) (encSR g o d a b 0)) : Encodes i (.s w) := by
  obtain ⟨z, rfl⟩ := dec_some_ok.mp h
  obtain ⟨func, low⟩ := (fld_eq_zero_iff 8 16 rfl).mp (eq_of_beq z)
  rw [← encSR_iff.mpr ⟨rfl, op, rfl, rfl, rfl, func, low⟩]
  exact enc ..

theorem decDAI_encodes {k : BitVec 6 → BitVec 6 → BitVec 6 → BitVec 30 → Instr} (op : fld w 42 8 = o) (h : decDAI w k = .ok i)
    (enc : ∀ g d a imm, Encodes (k g d a imm) (encSI g o d a imm)) : Encodes i (.s w) := by
  obtain rfl := Except.ok.inj h
  rw [← encSI_iff.mpr ⟨rfl, op, rfl, rfl, rfl⟩]
  exact enc ..

theorem decShift_encodes {k : BitVec 6 → BitVec 6 → BitVec 6 → BitVec 6 → Instr} (op : fld w 42 8 = o) (h : decShift w k = .ok i)
    (enc : ∀ g d a n, Encodes (k g d a n) (encSI g o d a ((0#24 ++ n).cast (by decide)))) : Encodes i (.s w) := by
  obtain ⟨z, rfl⟩ := dec_some_ok.mp h
  rw [← encSI_iff.mpr ⟨rfl, op, rfl, rfl, fld_cast_iff.mpr ⟨eq_of_beq (a := fld w (0 + 6) 24) z, rfl⟩⟩]
  exact enc ..


/-- Opcodes 0x00 to 0x0F. -/
theorem decodeS0_encodes (hi : fld w 46 4 = 0#4) (h : decodeS0 w = .ok i) : Encodes i (.s w) := by
  unfold decodeS0 at h
  split at h
  next lo => exact decBare_encodes (fld_op hi lo) h fun _ => ⟨rfl, rfl⟩
  next lo => exact decDAB_encodes (fld_op hi lo) h fun _ _ _ _ => ⟨rfl, rfl⟩
  next lo => exact decDAB_encodes (fld_op hi lo) h fun _ _ _ _ => ⟨rfl, rfl⟩
  next lo => exact decDAB_encodes (fld_op hi lo) h fun _ _ _ _ => ⟨rfl, rfl⟩
  next lo => exact decDAB_encodes (fld_op hi lo) h fun _ _ _ _ => ⟨rfl, rfl⟩
  next lo => exact decDAB_encodes (fld_op hi lo) h fun _ _ _ _ => ⟨rfl, rfl⟩
  next lo => exact decDAB_encodes (fld_op hi lo) h fun _ _ _ _ => ⟨rfl, rfl⟩
  next lo => exact decDAB_encodes (fld_op hi lo) h fun _ _ _ _ => ⟨rfl, rfl⟩
  next lo => exact decDAB_encodes (fld_op hi lo) h fun _ _ _ _ => ⟨rfl, rfl⟩
  next lo => exact decDAB_encodes (fld_op hi lo) h fun _ _ _ _ => ⟨rfl, rfl⟩
  next lo => exact decDAB_encodes (fld_op hi lo) h fun _ _ _ _ => ⟨rfl, rfl⟩
  next lo => exact decDAB_encodes (fld_op hi lo) h fun _ _ _ _ => ⟨rfl, rfl⟩
  next lo => exact decDAB_encodes (fld_op hi lo) h fun _ _ _ _ => ⟨rfl, rfl⟩
  next lo => exact decDAB_encodes (fld_op hi lo) h fun _ _ _ _ => ⟨rfl, rfl⟩
  next lo => exact decDAB_encodes (fld_op hi lo) h fun _ _ _ _ => ⟨rfl, rfl⟩
  next =>
    have lo : fld w 42 4 = 15#4 := by
      simp only [imp_false] at *
      bv_omega
    exact decDAB_encodes (fld_op hi lo) h fun _ _ _ _ => ⟨rfl, rfl⟩

/-- The word of a compare, of either kind of destination. -/
theorem decCmp_encodes {k : Bool → BitVec 6 → Cond → Instr} (op : fld w 42 8 = o) (h : decCmp w k = .ok i)
    (enc : ∀ r cc, (r = false → fld w 40 2 = 0) → encode (k r (sD w) cc) = some (encSR (sG w) o (sD w) (sA w) (sB w) (cmpFunc r cc))) :
    Encodes i (.s w) := by
  obtain ⟨z, h⟩ := dec_ok.mp h
  obtain ⟨cc, code, wf, rfl⟩ := bindWf_ok.mp h
  simp only [Bool.and_eq_true, Bool.or_eq_true, beq_iff_eq] at z
  obtain ⟨⟨low, top⟩, dest⟩ := z
  refine .of_eq wf (enc _ cc fun r => dest.resolve_left (Bool.eq_false_iff.mp r)) (encSR_iff.mpr ⟨rfl, op, rfl, rfl, rfl, ?_, low⟩)
  exact fld_cast_iff.mpr ⟨fld_append_iff.mpr ⟨top, fld_eq_ofBool_iff.mpr rfl⟩, Cond.ofBits_eq_some.mp code⟩

/-- Opcodes 0x10 to 0x1F. -/
theorem decodeS1_encodes (hi : fld w 46 4 = 1#4) (h : decodeS1 w = .ok i) : Encodes i (.s w) := by
  unfold decodeS1 at h
  split at h
  next lo => exact decDAB_encodes (fld_op hi lo) h fun _ _ _ _ => ⟨rfl, rfl⟩
  next lo => exact decDAB_encodes (fld_op hi lo) h fun _ _ _ _ => ⟨rfl, rfl⟩
  next lo => exact decDAB_encodes (fld_op hi lo) h fun _ _ _ _ => ⟨rfl, rfl⟩
  next lo => exact decDA_encodes (fld_op hi lo) h fun _ _ _ => ⟨rfl, rfl⟩
  next lo => exact decDA_encodes (fld_op hi lo) h fun _ _ _ => ⟨rfl, rfl⟩
  next lo =>
    obtain ⟨z, rfl⟩ := dec_some_ok.mp h
    simp only [Bool.and_eq_true, beq_iff_eq] at z
    exact .of_eq rfl rfl (encSR_iff.mpr ⟨rfl, fld_op hi lo, rfl, rfl, rfl, fld_cast_iff.mpr ⟨z.2, rfl⟩, z.1⟩)
  next lo =>
    refine decCmp_encodes (fld_op hi lo) h fun r cc dest => ?_
    cases r
    case true => rfl
    case false =>
      have d : ((0#2 ++ fld (sD w) 0 4).cast rfl : BitVec 6) = sD w := cast_append_eq_iff.mpr ⟨(fld_fld (by decide)).trans (dest rfl), rfl⟩
      exact congrArg (fun d => some (encSR (sG w) 0x16 d (sA w) (sB w) (cmpFunc false cc))) d
  next lo =>
    obtain ⟨z, rfl⟩ := dec_some_ok.mp h
    simp only [Bool.and_eq_true, beq_iff_eq] at z
    exact .of_eq rfl rfl (encSR_iff.mpr ⟨rfl, fld_op hi lo, rfl, rfl, rfl, fld_cast_iff.mpr ⟨z.2, rfl⟩, z.1⟩)
  next lo =>
    obtain ⟨z, wf, rfl⟩ := decWf_ok.mp h
    exact .of_eq wf rfl (encSI_iff.mpr ⟨rfl, fld_op hi lo, rfl, rfl,
      fld_cast_iff.mpr ⟨fld_append_iff.mpr ⟨fld_append_iff.mpr ⟨eq_of_beq z, fld_eq_ofBool_iff.mpr rfl⟩, rfl⟩, rfl⟩⟩)
  next lo =>
    obtain ⟨z, wf, rfl⟩ := decWf_ok.mp h
    exact .of_eq wf rfl (encSI_iff.mpr ⟨rfl, fld_op hi lo, rfl, rfl,
      fld_cast_iff.mpr ⟨fld_append_iff.mpr ⟨eq_of_beq z, rfl⟩, rfl⟩⟩)
  next => cases h

/-- Opcodes 0x20 to 0x2F. -/
theorem decodeS2_encodes (hi : fld w 46 4 = 2#4) (h : decodeS2 w = .ok i) : Encodes i (.s w) := by
  unfold decodeS2 at h
  split at h
  next lo => exact decDAI_encodes (fld_op hi lo) h fun _ _ _ _ => ⟨rfl, rfl⟩
  next lo => exact decDAI_encodes (fld_op hi lo) h fun _ _ _ _ => ⟨rfl, rfl⟩
  next lo => exact decDAI_encodes (fld_op hi lo) h fun _ _ _ _ => ⟨rfl, rfl⟩
  next lo => exact decDAI_encodes (fld_op hi lo) h fun _ _ _ _ => ⟨rfl, rfl⟩
  next lo => exact decShift_encodes (fld_op hi lo) h fun _ _ _ _ => ⟨rfl, rfl⟩
  next lo => exact decShift_encodes (fld_op hi lo) h fun _ _ _ _ => ⟨rfl, rfl⟩
  next lo => exact decShift_encodes (fld_op hi lo) h fun _ _ _ _ => ⟨rfl, rfl⟩
  next lo =>
    obtain ⟨z, h⟩ := dec_ok.mp h
    obtain ⟨cc, code, wf, rfl⟩ := bindWf_ok.mp h
    refine .of_eq wf rfl (encSI_iff.mpr ⟨rfl, fld_op hi lo, rfl, rfl, ?_⟩)
    exact fld_cast_iff.mpr ⟨fld_append_iff.mpr ⟨Cond.ofBits_eq_some.mp code, fld_eq_ofBool_iff.mpr rfl⟩, rfl⟩
  next lo =>
    obtain ⟨z, rfl⟩ := dec_some_ok.mp h
    exact .of_eq rfl rfl (encSI_iff.mpr ⟨rfl, fld_op hi lo, rfl, eq_of_beq z, rfl⟩)
  next lo =>
    obtain ⟨z, rfl⟩ := dec_some_ok.mp h
    simp only [Bool.and_eq_true, beq_iff_eq] at z
    exact .of_eq rfl rfl (encSI_iff.mpr ⟨rfl, fld_op hi lo, rfl, z.1, fld_cast_iff.mpr ⟨fld_append_iff.mpr ⟨z.2, rfl⟩, rfl⟩⟩)
  next => cases h

/-- Opcodes 0x30 to 0x3F. -/
theorem decodeS3_encodes (hi : fld w 46 4 = 3#4) (h : decodeS3 w = .ok i) : Encodes i (.s w) := by
  unfold decodeS3 at h
  split at h
  next lo => exact decDAB_encodes (fld_op hi lo) h fun _ _ _ _ => ⟨rfl, rfl⟩
  next lo => exact decDAB_encodes (fld_op hi lo) h fun _ _ _ _ => ⟨rfl, rfl⟩
  next lo => exact decDAB_encodes (fld_op hi lo) h fun _ _ _ _ => ⟨rfl, rfl⟩
  next lo =>
    obtain ⟨z, rfl⟩ := dec_some_ok.mp h
    simp only [Bool.and_eq_true, beq_iff_eq] at z
    exact .of_eq rfl rfl (encSR_iff.mpr ⟨rfl, fld_op hi lo, rfl, rfl, rfl, fld_cast_iff.mpr ⟨z.2, rfl⟩, z.1⟩)
  next lo => exact decDAB_encodes (fld_op hi lo) h fun _ _ _ _ => ⟨rfl, rfl⟩
  next lo => exact decDAB_encodes (fld_op hi lo) h fun _ _ _ _ => ⟨rfl, rfl⟩
  next lo => exact decCmp_encodes (fld_op hi lo) h fun _ _ _ => rfl
  next lo =>
    obtain ⟨z, h⟩ := dec_ok.mp h
    obtain ⟨rm, code, wf, rfl⟩ := bindWf_ok.mp h
    simp only [Bool.and_eq_true, beq_iff_eq] at z
    refine .of_eq wf rfl (encSR_iff.mpr ⟨rfl, fld_op hi lo, rfl, rfl, fld_cast_iff.mpr ⟨z.2, (EType.bits_ofBits _).symm⟩, ?_, z.1⟩)
    exact fld_cast_iff.mpr ⟨fld_append_iff.mpr ⟨(EType.bits_ofBits _).symm, fld_eq_ofBool_iff.mpr rfl⟩, RSel.ofBits_eq_some.mp code⟩
  next => cases h

/-- The middle of an atomic's word: its operation, with the reserved bits beside it. -/
theorem atomic_fields {aop : AtomOp} (top : fld w 22 2 = 0) (code : AtomOp.ofBits (fld w 18 4) = some aop) (low : fld w 14 4 = 0) :
    fld w 18 6 = opC aop ∧ bit w 17 = false ∧ fld w 14 3 = 0 := by
  obtain ⟨mid, low⟩ := (fld_eq_zero_iff 1 3 rfl).mp low
  exact ⟨fld_cast_iff.mpr ⟨top, AtomOp.ofBits_eq_some.mp code⟩, fld_one_eq_zero_iff.mp mid, low⟩

/-- Opcodes 0x40 to 0x4F. -/
theorem decodeS4_encodes (hi : fld w 46 4 = 4#4) (h : decodeS4 w = .ok i) : Encodes i (.s w) := by
  unfold decodeS4 at h
  split at h
  next lo =>
    obtain ⟨z, wf, rfl⟩ := decWf_ok.mp h
    exact .of_eq wf rfl (encSL_iff.mpr ⟨rfl, fld_op hi lo, rfl, rfl, rfl, (Size.bits_ofBits _).symm, rfl, (Order.bits_ofBits _).symm, rfl, rfl⟩)
  next lo =>
    obtain ⟨z, wf, rfl⟩ := decWf_ok.mp h
    simp only [Bool.and_eq_true, Bool.not_eq_true', beq_iff_eq] at z
    exact .of_eq wf rfl (encSL_iff.mpr ⟨rfl, fld_op hi lo, rfl, rfl, rfl, (Size.bits_ofBits _).symm, z.1, (Order.bits_ofBits _).symm, rfl, z.2⟩)
  next lo =>
    obtain ⟨z, wf, rfl⟩ := decWf_ok.mp h
    exact .of_eq wf rfl (encSL_iff.mpr ⟨rfl, fld_op hi lo, rfl, rfl, rfl, (Size.bits_ofBits _).symm, rfl, (Order.bits_ofBits _).symm, rfl, rfl⟩)
  next lo =>
    obtain ⟨z, wf, rfl⟩ := decWf_ok.mp h
    simp only [Bool.and_eq_true, Bool.not_eq_true', beq_iff_eq] at z
    exact .of_eq wf rfl (encSL_iff.mpr ⟨rfl, fld_op hi lo, rfl, rfl, rfl, (Size.bits_ofBits _).symm, z.1, (Order.bits_ofBits _).symm, rfl, z.2⟩)
  next lo =>
    obtain ⟨z, h⟩ := dec_ok.mp h
    obtain ⟨aop, code, wf, rfl⟩ := bindWf_ok.mp h
    simp only [Bool.and_eq_true, Bool.not_eq_true', beq_iff_eq] at z
    obtain ⟨⟨top, low⟩, mid⟩ := z
    obtain ⟨c, fo, low⟩ := atomic_fields top code low
    exact .of_eq wf rfl (encSA_iff.mpr ⟨rfl, fld_op hi lo, rfl, rfl, rfl, c, fo, low, (Size.bits_ofBits _).symm, mid, (Order.bits_ofBits _).symm, rfl, rfl⟩)
  next lo =>
    obtain ⟨z, h⟩ := dec_ok.mp h
    obtain ⟨aop, code, h⟩ := Option.bind_eq_some_iff.mp h
    obtain ⟨ok, e⟩ := Option.ite_none_right_eq_some.mp h
    obtain rfl := Option.some.inj e
    obtain ⟨wf, rel⟩ := Bool.and_eq_true_iff.mp ok
    have ord : fld w 9 2 = 2#2 := (Order.bits_ofBits _).symm.trans (congrArg Order.bits (eq_of_beq rel))
    simp only [Bool.and_eq_true, Bool.not_eq_true', beq_iff_eq] at z
    obtain ⟨⟨⟨top, low⟩, mid⟩, lat⟩ := z
    obtain ⟨c, fo, low⟩ := atomic_fields top code low
    exact .of_eq wf rfl (encSA_iff.mpr ⟨rfl, fld_op hi lo, rfl, rfl, rfl, c, fo, low, (Size.bits_ofBits _).symm, mid, ord, rfl, lat⟩)
  next lo =>
    obtain ⟨z, wf, rfl⟩ := decWf_ok.mp h
    simp only [Bool.and_eq_true, Bool.not_eq_true', beq_iff_eq] at z
    exact .of_eq wf rfl (encSA_iff.mpr ⟨rfl, fld_op hi lo, rfl, rfl, rfl, rfl, rfl, z.1, (Size.bits_ofBits _).symm, z.2, (Order.bits_ofBits _).symm, rfl, rfl⟩)
  next lo =>
    obtain ⟨z, h⟩ := dec_ok.mp h
    obtain ⟨aop, code, wf, rfl⟩ := bindWf_ok.mp h
    simp only [Bool.and_eq_true, Bool.not_eq_true', beq_iff_eq] at z
    obtain ⟨⟨⟨⟨top, low⟩, mid⟩, lat⟩, d⟩ := z
    obtain ⟨c, fo, low⟩ := atomic_fields top code low
    exact .of_eq wf rfl (encSA_iff.mpr ⟨rfl, fld_op hi lo, d, rfl, rfl, c, fo, low, (Size.bits_ofBits _).symm, mid, (Order.bits_ofBits _).symm, rfl, lat⟩)
  next lo =>
    obtain ⟨z, wf, rfl⟩ := decWf_ok.mp h
    simp only [Bool.and_eq_true, beq_iff_eq] at z
    obtain ⟨z, lat⟩ := z
    obtain ⟨d, z⟩ := (fld_eq_zero_iff 6 24 rfl).mp z
    obtain ⟨a, z⟩ := (fld_eq_zero_iff 6 18 rfl).mp z
    obtain ⟨disp, size⟩ := (fld_eq_zero_iff 16 2 rfl).mp z
    exact .of_eq wf rfl (encSL_iff.mpr ⟨rfl, fld_op hi lo, d, a, disp, size, rfl, (Order.bits_ofBits _).symm, rfl, lat⟩)
  next => cases h

/-- Opcodes 0x50 to 0x5F. -/
theorem decodeS5_encodes (hi : fld w 46 4 = 5#4) (h : decodeS5 w = .ok i) : Encodes i (.s w) := by
  unfold decodeS5 at h
  split at h
  next lo =>
    obtain ⟨z, h⟩ := dec_ok.mp h
    obtain ⟨c, code, e⟩ := Option.bind_eq_some_iff.mp h
    obtain rfl := Option.some.inj e
    have code := BrCond.ofBits_eq_some.mp code
    simp only [Bool.and_eq_true, Bool.or_eq_true, beq_iff_eq] at z
    refine .of_eq ?_ rfl (encSI_iff.mpr ⟨rfl, fld_op hi lo, fld_cast_iff.mpr ⟨code, z.1⟩, rfl, rfl⟩)
    show (c != .always || sA w == 0) = true
    rw [code] at z
    rcases z.2 with other | none_named
    · have : c ≠ .always := by
        rintro rfl
        cases other
      simp [this]
    · simp [none_named]
  next lo =>
    obtain ⟨z, rfl⟩ := dec_some_ok.mp h
    exact .of_eq rfl rfl (encSI_iff.mpr ⟨rfl, fld_op hi lo, eq_of_beq z, rfl, rfl⟩)
  next lo =>
    obtain ⟨z, rfl⟩ := dec_some_ok.mp h
    simp only [Bool.and_eq_true, Bool.or_eq_true, beq_iff_eq] at z
    obtain ⟨top, a⟩ := z
    split
    next reg => exact .of_eq rfl rfl (encSI_iff.mpr ⟨rfl, fld_op hi lo, fld_append_iff (x := 0#5) (y := 1#1).mpr ⟨top, fld_eq_ofBool_iff (b := true).mpr reg⟩, rfl, rfl⟩)
    next imm => exact .of_eq rfl rfl (encSI_iff.mpr ⟨rfl, fld_op hi lo, (fld_eq_zero_iff 5 1 rfl).mpr ⟨top, fld_one_eq_zero_iff.mpr (Bool.eq_false_iff.mpr imm)⟩,
      a.resolve_left imm, rfl⟩)
  next lo =>
    obtain ⟨z, rfl⟩ := dec_some_ok.mp h
    obtain ⟨d, z⟩ := (fld_eq_zero_iff 6 36 rfl).mp (eq_of_beq z)
    obtain ⟨a, imm⟩ := (fld_eq_zero_iff 6 30 rfl).mp z
    exact .of_eq rfl rfl (encSI_iff.mpr ⟨rfl, fld_op hi lo, d, a, imm⟩)
  next lo =>
    obtain ⟨z, rfl⟩ := dec_some_ok.mp h
    obtain ⟨d, a⟩ := (fld_eq_zero_iff 6 6 rfl).mp (eq_of_beq z)
    exact .of_eq rfl rfl (encSI_iff.mpr ⟨rfl, fld_op hi lo, d, a, rfl⟩)
  next lo =>
    obtain ⟨z, h⟩ := dec_ok.mp h
    simp only [Bool.and_eq_true, beq_iff_eq] at z
    obtain ⟨da, top⟩ := z
    obtain ⟨d, a⟩ := (fld_eq_zero_iff 6 6 rfl).mp da
    split at h
    next leave =>
      obtain ⟨code, e⟩ := Option.ite_none_right_eq_some.mp h
      obtain rfl := Option.some.inj e
      exact .of_eq rfl rfl (encSI_iff.mpr ⟨rfl, fld_op hi lo, d, a,
        fld_append_iff (x := 0#21 ++ 1#1) (y := 0#8).mpr ⟨fld_append_iff.mpr ⟨top, fld_eq_ofBool_iff (b := true).mpr leave⟩, eq_of_beq code⟩⟩)
    next stay =>
      obtain rfl := Option.some.inj h
      exact .of_eq rfl rfl (encSI_iff.mpr ⟨rfl, fld_op hi lo, d, a, fld_cast_iff.mpr
        ⟨(fld_eq_zero_iff 21 1 rfl).mpr ⟨top, fld_one_eq_zero_iff.mpr (Bool.eq_false_iff.mpr stay)⟩, rfl⟩⟩)
  next lo =>
    obtain ⟨z, rfl⟩ := dec_some_ok.mp h
    obtain ⟨d, z⟩ := (fld_eq_zero_iff 6 20 rfl).mp (eq_of_beq z)
    obtain ⟨a, top⟩ := (fld_eq_zero_iff 6 14 rfl).mp z
    exact .of_eq rfl rfl (encSI_iff.mpr ⟨rfl, fld_op hi lo, d, a, fld_cast_iff.mpr ⟨top, rfl⟩⟩)
  next lo =>
    obtain ⟨z, rfl⟩ := dec_some_ok.mp h
    obtain ⟨d, z⟩ := (fld_eq_zero_iff 6 20 rfl).mp (eq_of_beq z)
    obtain ⟨a, top⟩ := (fld_eq_zero_iff 6 14 rfl).mp z
    exact .of_eq rfl rfl (encSI_iff.mpr ⟨rfl, fld_op hi lo, d, a, fld_cast_iff.mpr ⟨top, rfl⟩⟩)
  next lo => exact decBare_encodes (fld_op hi lo) h fun _ => ⟨rfl, rfl⟩
  next lo =>
    obtain ⟨z, h⟩ := dec_ok.mp h
    obtain ⟨cc, code, h⟩ := Option.bind_eq_some_iff.mp h
    obtain ⟨ok, e⟩ := Option.ite_none_right_eq_some.mp h
    obtain rfl := Option.some.inj e
    obtain ⟨wf, acq⟩ := Bool.and_eq_true_iff.mp ok
    have ord : fld w 9 2 = 1#2 := (Order.bits_ofBits _).symm.trans (congrArg Order.bits (eq_of_beq acq))
    simp only [Bool.and_eq_true, Bool.not_eq_true', beq_iff_eq] at z
    exact .of_eq wf rfl (encSL_iff.mpr ⟨rfl, fld_op hi lo, rfl, rfl, rfl, (Size.bits_ofBits _).symm, z.1, ord, rfl,
      fld_cast_iff.mpr ⟨z.2, Cond.ofBits_eq_some.mp code⟩⟩)
  next lo =>
    obtain ⟨z, rfl⟩ := dec_some_ok.mp h
    exact .of_eq rfl rfl (encSI_iff.mpr ⟨rfl, fld_op hi lo, fld_cast_iff.mpr ⟨eq_of_beq z, rfl⟩, rfl, rfl⟩)
  next lo => exact decBare_encodes (fld_op hi lo) h fun _ => ⟨rfl, rfl⟩
  next lo => exact decBare_encodes (fld_op hi lo) h fun _ => ⟨rfl, rfl⟩
  next lo =>
    obtain ⟨z, wf, rfl⟩ := decWf_ok.mp h
    obtain ⟨disp, z⟩ := (fld_eq_zero_iff 16 3 rfl).mp (eq_of_beq z)
    obtain ⟨size, sign⟩ := (fld_eq_zero_iff 2 1 rfl).mp z
    exact .of_eq wf rfl (encSL_iff.mpr ⟨rfl, fld_op hi lo, rfl, rfl, disp, size, fld_one_eq_zero_iff.mp sign, (Order.bits_ofBits _).symm, rfl, rfl⟩)
  next lo => exact decBare_encodes (fld_op hi lo) h fun _ => ⟨rfl, rfl⟩
  next => cases h

/-- Opcodes 0x60 to 0x6F. -/
theorem decodeS6_encodes (hi : fld w 46 4 = 6#4) (h : decodeS6 w = .ok i) : Encodes i (.s w) := by
  unfold decodeS6 at h
  split at h
  next lo =>
    split at h
    next remote =>
      obtain ⟨z, wf, rfl⟩ := decWf_ok.mp h
      exact .of_eq wf rfl (encSX_iff.mpr ⟨rfl, fld_op hi lo, rfl, rfl, rfl,
        fld_cast_iff.mpr ⟨fld_append_iff.mpr ⟨fld_eq_ofBool_iff (b := true).mpr remote, eq_of_beq z⟩, rfl⟩⟩)
    next own =>
      obtain ⟨z, wf, rfl⟩ := decWf_ok.mp h
      simp only [Bool.and_eq_true, beq_iff_eq] at z
      exact .of_eq wf rfl (encSX_iff.mpr ⟨rfl, fld_op hi lo, rfl, z.2, rfl, z.1⟩)
  next lo =>
    obtain ⟨z, wf, rfl⟩ := decWf_ok.mp h
    simp only [Bool.and_eq_true, beq_iff_eq] at z
    exact .of_eq wf rfl (encSX_iff.mpr ⟨rfl, fld_op hi lo, z.2, rfl, rfl, z.1⟩)
  next lo =>
    obtain ⟨z, wf, rfl⟩ := decWf_ok.mp h
    simp only [Bool.and_eq_true, beq_iff_eq] at z
    exact .of_eq wf rfl (encSX_iff.mpr ⟨rfl, fld_op hi lo, z.2, rfl, rfl, z.1⟩)
  next lo =>
    obtain ⟨z, wf, rfl⟩ := decWf_ok.mp h
    simp only [Bool.and_eq_true, beq_iff_eq] at z
    exact .of_eq wf rfl (encSX_iff.mpr ⟨rfl, fld_op hi lo, z.2, rfl, rfl, z.1⟩)
  next lo =>
    split at h
    next which =>
      obtain ⟨z, rfl⟩ := dec_some_ok.mp h
      simp only [Bool.and_eq_true, beq_iff_eq] at z
      obtain ⟨low, z⟩ := z
      obtain ⟨d, z⟩ := (fld_eq_zero_iff 6 18 rfl).mp z
      obtain ⟨a, z⟩ := (fld_eq_zero_iff 6 12 rfl).mp z
      obtain ⟨b, top⟩ := (fld_eq_zero_iff 6 6 rfl).mp z
      exact .of_eq rfl rfl (encSR_iff.mpr ⟨rfl, fld_op hi lo, d, a, b, fld_append_iff (x := 0#6) (y := 0#2).mpr ⟨top, which⟩, low⟩)
    next which =>
      obtain ⟨z, rfl⟩ := dec_some_ok.mp h
      simp only [Bool.and_eq_true, beq_iff_eq] at z
      obtain ⟨⟨low, z⟩, d⟩ := z
      obtain ⟨b, top⟩ := (fld_eq_zero_iff 6 6 rfl).mp z
      exact .of_eq rfl rfl (encSR_iff.mpr ⟨rfl, fld_op hi lo, d, rfl, b, fld_append_iff (x := 0#6) (y := 1#2).mpr ⟨top, which⟩, low⟩)
    next which =>
      obtain ⟨z, rfl⟩ := dec_some_ok.mp h
      simp only [Bool.and_eq_true, beq_iff_eq] at z
      obtain ⟨⟨low, top⟩, d⟩ := z
      exact .of_eq rfl rfl (encSR_iff.mpr ⟨rfl, fld_op hi lo, d, rfl, rfl, fld_append_iff (x := 0#6) (y := 2#2).mpr ⟨top, which⟩, low⟩)
    next => cases (dec_ok.mp h).2
  next lo => exact decAB_encodes (fld_op hi lo) h fun _ _ _ => ⟨rfl, rfl⟩
  next lo =>
    obtain ⟨z, rfl⟩ := dec_some_ok.mp h
    simp only [Bool.and_eq_true, beq_iff_eq] at z
    obtain ⟨⟨low, top⟩, d⟩ := z
    exact .of_eq rfl rfl (encSR_iff.mpr ⟨rfl, fld_op hi lo, d, rfl, rfl, fld_cast_iff.mpr ⟨top, fld_eq_ofBool_iff.mpr rfl⟩, low⟩)
  next => cases h

/-- The constant fields of format SH. -/
theorem shZero_fields (h : shZero w = true) : fld w 9 3 = 0 ∧ fld w 6 3 = 0 ∧ fld w 0 6 = 0 := by
  obtain ⟨top, z⟩ := (fld_eq_zero_iff 3 9 rfl).mp (eq_of_beq h)
  exact ⟨top, (fld_eq_zero_iff 3 6 rfl).mp z⟩

/-- Opcodes 0x70 to 0x7F. -/
theorem decodeS7_encodes (hi : fld w 46 4 = 7#4) (h : decodeS7 w = .ok i) : Encodes i (.s w) := by
  unfold decodeS7 at h
  split at h
  next lo =>
    obtain ⟨z, wf, rfl⟩ := decWf_ok.mp h
    simp only [Bool.and_eq_true, Bool.not_eq_true', beq_iff_eq] at z
    obtain ⟨⟨top, mid⟩, lat⟩ := z
    obtain ⟨size, sign⟩ := (fld_eq_zero_iff 2 1 rfl).mp mid
    exact .of_eq wf rfl (encSL_iff.mpr ⟨rfl, fld_op hi lo, fld_cast_iff.mpr ⟨fld_one_eq_zero_iff.mpr top, rfl⟩, rfl, rfl, size,
      fld_one_eq_zero_iff.mp sign, (Order.bits_ofBits _).symm, rfl, lat⟩)
  next lo =>
    obtain ⟨z, wf, rfl⟩ := decWf_ok.mp h
    simp only [Bool.and_eq_true, Bool.not_eq_true', beq_iff_eq] at z
    obtain ⟨⟨top, mid⟩, lat⟩ := z
    obtain ⟨size, sign⟩ := (fld_eq_zero_iff 2 1 rfl).mp mid
    exact .of_eq wf rfl (encSL_iff.mpr ⟨rfl, fld_op hi lo, fld_cast_iff.mpr ⟨fld_one_eq_zero_iff.mpr top, rfl⟩, rfl, rfl, size,
      fld_one_eq_zero_iff.mp sign, (Order.bits_ofBits _).symm, rfl, lat⟩)
  next lo =>
    obtain ⟨z, h⟩ := dec_ok.mp h
    obtain ⟨f, code, rfl⟩ := Option.map_eq_some_iff.mp h
    simp only [Bool.and_eq_true, beq_iff_eq] at z
    obtain ⟨⟨zero, d⟩, hB⟩ := z
    obtain ⟨top, scope, low⟩ := shZero_fields zero
    exact .of_eq rfl rfl (encSH_iff.mpr ⟨rfl, fld_op hi lo, d, rfl, rfl, hB, HField.ofBits_eq_some.mp code, top, scope, low⟩)
  next lo =>
    obtain ⟨z, h⟩ := dec_ok.mp h
    obtain ⟨f, code, rfl⟩ := Option.map_eq_some_iff.mp h
    simp only [Bool.and_eq_true, beq_iff_eq] at z
    obtain ⟨⟨zero, a⟩, hB⟩ := z
    obtain ⟨top, scope, low⟩ := shZero_fields zero
    exact .of_eq rfl rfl (encSH_iff.mpr ⟨rfl, fld_op hi lo, rfl, a, rfl, hB, HField.ofBits_eq_some.mp code, top, scope, low⟩)
  next lo =>
    obtain ⟨z, rfl⟩ := dec_some_ok.mp h
    simp only [Bool.and_eq_true, beq_iff_eq] at z
    obtain ⟨⟨⟨zero, d⟩, hB⟩, fn⟩ := z
    obtain ⟨top, scope, low⟩ := shZero_fields zero
    split
    next tail => exact .of_eq rfl rfl (encSH_iff.mpr ⟨rfl, fld_op hi lo, d, rfl, rfl, hB,
      fld_append_iff (x := 0#7) (y := 1#1).mpr ⟨fn, fld_eq_ofBool_iff (b := true).mpr tail⟩, top, scope, low⟩)
    next head => exact .of_eq rfl rfl (encSH_iff.mpr ⟨rfl, fld_op hi lo, d, rfl, rfl, hB,
      (fld_eq_zero_iff 7 1 rfl).mpr ⟨fn, fld_one_eq_zero_iff.mpr (Bool.eq_false_iff.mpr head)⟩, top, scope, low⟩)
  next lo =>
    obtain ⟨z, rfl⟩ := dec_some_ok.mp h
    simp only [Bool.and_eq_true, beq_iff_eq] at z
    obtain ⟨⟨⟨⟨zero, d⟩, a⟩, hB⟩, fn⟩ := z
    obtain ⟨top, scope, low⟩ := shZero_fields zero
    exact .of_eq rfl rfl (encSH_iff.mpr ⟨rfl, fld_op hi lo, d, a, rfl, hB, fn, top, scope, low⟩)
  next lo =>
    obtain ⟨z, wf, rfl⟩ := decWf_ok.mp h
    simp only [Bool.and_eq_true, Bool.not_eq_true', beq_iff_eq] at z
    obtain ⟨⟨⟨⟨zero, d⟩, a⟩, hB⟩, fn⟩ := z
    obtain ⟨top, scope, low⟩ := shZero_fields zero
    exact .of_eq wf rfl (encSH_iff.mpr ⟨rfl, fld_op hi lo, fld_cast_iff.mpr ⟨fld_one_eq_zero_iff.mpr d, rfl⟩, a, rfl, hB,
      fld_cast_iff.mpr ⟨fld_append_iff.mpr ⟨fn, fld_eq_ofBool_iff.mpr rfl⟩, fld_eq_ofBool_iff.mpr rfl⟩, top, scope, low⟩)
  next lo =>
    split at h
    next handle =>
      obtain ⟨z, rfl⟩ := dec_some_ok.mp h
      simp only [Bool.and_eq_true, beq_iff_eq] at z
      obtain ⟨⟨⟨⟨zero, d⟩, a⟩, hB⟩, fn⟩ := z
      obtain ⟨top, scope, low⟩ := shZero_fields zero
      exact .of_eq rfl rfl (encSH_iff.mpr ⟨rfl, fld_op hi lo, d, a, rfl, hB,
        fld_append_iff (x := 0#7) (y := 1#1).mpr ⟨fn, fld_eq_ofBool_iff (b := true).mpr handle⟩, top, scope, low⟩)
    next port =>
      obtain ⟨z, rfl⟩ := dec_some_ok.mp h
      simp only [Bool.and_eq_true, Bool.not_eq_true', beq_iff_eq] at z
      obtain ⟨⟨⟨⟨⟨zero, d⟩, a⟩, hA⟩, hB⟩, fn⟩ := z
      obtain ⟨top, scope, low⟩ := shZero_fields zero
      exact .of_eq rfl rfl (encSH_iff.mpr ⟨rfl, fld_op hi lo, fld_cast_iff.mpr ⟨fld_one_eq_zero_iff.mpr d, rfl⟩, a, hA, hB,
        (fld_eq_zero_iff 7 1 rfl).mpr ⟨fn, fld_one_eq_zero_iff.mpr (Bool.eq_false_iff.mpr port)⟩, top, scope, low⟩)
  next lo =>
    obtain ⟨z, rfl⟩ := dec_some_ok.mp h
    simp only [Bool.and_eq_true, beq_iff_eq] at z
    obtain ⟨top, z⟩ := z
    obtain ⟨b, z⟩ := (fld_eq_zero_iff 6 24 rfl).mp z
    obtain ⟨func, low⟩ := (fld_eq_zero_iff 8 16 rfl).mp z
    exact .of_eq rfl rfl (encSR_iff.mpr ⟨rfl, fld_op hi lo, fld_cast_iff.mpr ⟨top, rfl⟩, rfl, b, func, low⟩)
  next lo =>
    obtain ⟨z, rfl⟩ := dec_some_ok.mp h
    simp only [Bool.and_eq_true, beq_iff_eq] at z
    obtain ⟨top, z⟩ := z
    obtain ⟨b, z⟩ := (fld_eq_zero_iff 6 24 rfl).mp z
    obtain ⟨func, low⟩ := (fld_eq_zero_iff 8 16 rfl).mp z
    exact .of_eq rfl rfl (encSR_iff.mpr ⟨rfl, fld_op hi lo, fld_cast_iff.mpr ⟨top, rfl⟩, rfl, b, func, low⟩)
  next lo =>
    obtain ⟨z, rfl⟩ := dec_some_ok.mp h
    simp only [Bool.and_eq_true, beq_iff_eq] at z
    obtain ⟨top, z⟩ := z
    obtain ⟨a, z⟩ := (fld_eq_zero_iff 6 30 rfl).mp z
    obtain ⟨b, z⟩ := (fld_eq_zero_iff 6 24 rfl).mp z
    obtain ⟨func, low⟩ := (fld_eq_zero_iff 8 16 rfl).mp z
    exact .of_eq rfl rfl (encSR_iff.mpr ⟨rfl, fld_op hi lo, fld_cast_iff.mpr ⟨top, rfl⟩, a, b, func, low⟩)
  next lo =>
    split at h
    next waits =>
      obtain ⟨z, rfl⟩ := dec_some_ok.mp h
      simp only [Bool.and_eq_true, beq_iff_eq] at z
      obtain ⟨⟨d, a⟩, top⟩ := z
      exact .of_eq rfl rfl (encSI_iff.mpr ⟨rfl, fld_op hi lo, d, a,
        fld_cast_iff.mpr ⟨fld_append_iff.mpr ⟨fld_append_iff.mpr ⟨top, rfl⟩, fld_eq_ofBool_iff (b := true).mpr waits⟩, rfl⟩⟩)
    next reads =>
      obtain ⟨z, rfl⟩ := dec_some_ok.mp h
      simp only [Bool.and_eq_true, beq_iff_eq] at z
      obtain ⟨a, top⟩ := z
      exact .of_eq rfl rfl (encSI_iff.mpr ⟨rfl, fld_op hi lo, rfl, a,
        fld_cast_iff.mpr ⟨(fld_eq_zero_iff 26 1 rfl).mpr ⟨top, fld_one_eq_zero_iff.mpr (Bool.eq_false_iff.mpr reads)⟩, rfl⟩⟩)
  next lo => exact decA_encodes (fld_op hi lo) h fun _ _ => ⟨rfl, rfl⟩
  next lo => exact decAB_encodes (fld_op hi lo) h fun _ _ _ => ⟨rfl, rfl⟩
  next => cases h

/-- Opcodes 0x80 to 0x8F. -/
theorem decodeS8_encodes (hi : fld w 46 4 = 8#4) (h : decodeS8 w = .ok i) : Encodes i (.s w) := by
  unfold decodeS8 at h
  split at h
  next lo => exact decD_encodes (fld_op hi lo) h fun _ _ => ⟨rfl, rfl⟩
  next lo => exact decBare_encodes (fld_op hi lo) h fun _ => ⟨rfl, rfl⟩
  next lo => exact decD_encodes (fld_op hi lo) h fun _ _ => ⟨rfl, rfl⟩
  next lo => exact decD_encodes (fld_op hi lo) h fun _ _ => ⟨rfl, rfl⟩
  next lo => exact decBare_encodes (fld_op hi lo) h fun _ => ⟨rfl, rfl⟩
  next lo =>
    obtain ⟨z, rfl⟩ := dec_some_ok.mp h
    simp only [Bool.and_eq_true, beq_iff_eq] at z
    obtain ⟨⟨⟨⟨⟨d, a⟩, hB⟩, fn⟩, top⟩, low⟩ := z
    exact .of_eq rfl rfl (encSH_iff.mpr ⟨rfl, fld_op hi lo, d, a, rfl, hB, fn, top, rfl, low⟩)
  next lo =>
    obtain ⟨z, rfl⟩ := dec_some_ok.mp h
    simp only [Bool.and_eq_true, beq_iff_eq] at z
    obtain ⟨⟨zero, d⟩, fn⟩ := z
    obtain ⟨top, scope, low⟩ := shZero_fields zero
    exact .of_eq rfl rfl (encSH_iff.mpr ⟨rfl, fld_op hi lo, d, rfl, rfl, rfl, fn, top, scope, low⟩)
  next lo =>
    obtain ⟨z, rfl⟩ := dec_some_ok.mp h
    simp only [Bool.and_eq_true, beq_iff_eq] at z
    exact .of_eq rfl rfl (encSR_iff.mpr ⟨rfl, fld_op hi lo, rfl, rfl, rfl,
      fld_cast_iff.mpr ⟨fld_append_iff.mpr ⟨z.2, fld_eq_ofBool_iff.mpr rfl⟩, rfl⟩, z.1⟩)
  next lo => exact decA_encodes (fld_op hi lo) h fun _ _ => ⟨rfl, rfl⟩
  next => cases h

/-- Opcodes 0x90 to 0x9F. -/
theorem decodeS9_encodes (hi : fld w 46 4 = 9#4) (h : decodeS9 w = .ok i) : Encodes i (.s w) := by
  unfold decodeS9 at h
  split at h
  next lo => exact decDAB_encodes (fld_op hi lo) h fun _ _ _ _ => ⟨rfl, rfl⟩
  next lo =>
    obtain ⟨z, rfl⟩ := dec_some_ok.mp h
    simp only [Bool.and_eq_true, beq_iff_eq] at z
    exact .of_eq rfl rfl (encSR_iff.mpr ⟨rfl, fld_op hi lo, rfl, rfl, rfl,
      fld_cast_iff.mpr ⟨fld_append_iff.mpr ⟨z.2, fld_eq_ofBool_iff.mpr rfl⟩, fld_eq_ofBool_iff.mpr rfl⟩, z.1⟩)
  next lo =>
    obtain ⟨z, rfl⟩ := dec_some_ok.mp h
    simp only [Bool.and_eq_true, beq_iff_eq] at z
    split
    next accept => exact .of_eq rfl rfl (encSR_iff.mpr ⟨rfl, fld_op hi lo, rfl, rfl, rfl,
      fld_append_iff (x := 0#7) (y := 1#1).mpr ⟨z.2, fld_eq_ofBool_iff (b := true).mpr accept⟩, z.1⟩)
    next mask => exact .of_eq rfl rfl (encSR_iff.mpr ⟨rfl, fld_op hi lo, rfl, rfl, rfl,
      (fld_eq_zero_iff 7 1 rfl).mpr ⟨z.2, fld_one_eq_zero_iff.mpr (Bool.eq_false_iff.mpr mask)⟩, z.1⟩)
  next lo => exact decDA_encodes (fld_op hi lo) h fun _ _ _ => ⟨rfl, rfl⟩
  next lo => exact decDA_encodes (fld_op hi lo) h fun _ _ _ => ⟨rfl, rfl⟩
  next lo =>
    obtain ⟨z, h⟩ := dec_ok.mp h
    simp only [Bool.and_eq_true, beq_iff_eq] at z
    obtain ⟨low, top⟩ := z
    split at h
    next which =>
      obtain rfl := Option.some.inj h
      exact .of_eq rfl rfl (encSR_iff.mpr ⟨rfl, fld_op hi lo, rfl, rfl, rfl, fld_append_iff (x := 0#5) (y := 0#3).mpr ⟨top, which⟩, low⟩)
    next which =>
      obtain rfl := Option.some.inj h
      exact .of_eq rfl rfl (encSR_iff.mpr ⟨rfl, fld_op hi lo, rfl, rfl, rfl, fld_append_iff (x := 0#5) (y := 1#3).mpr ⟨top, which⟩, low⟩)
    next which =>
      obtain rfl := Option.some.inj h
      exact .of_eq rfl rfl (encSR_iff.mpr ⟨rfl, fld_op hi lo, rfl, rfl, rfl, fld_append_iff (x := 0#5) (y := 2#3).mpr ⟨top, which⟩, low⟩)
    next which =>
      obtain rfl := Option.some.inj h
      exact .of_eq rfl rfl (encSR_iff.mpr ⟨rfl, fld_op hi lo, rfl, rfl, rfl, fld_append_iff (x := 0#5) (y := 3#3).mpr ⟨top, which⟩, low⟩)
    next which =>
      obtain rfl := Option.some.inj h
      exact .of_eq rfl rfl (encSR_iff.mpr ⟨rfl, fld_op hi lo, rfl, rfl, rfl, fld_append_iff (x := 0#5) (y := 4#3).mpr ⟨top, which⟩, low⟩)
    next which =>
      obtain rfl := Option.some.inj h
      exact .of_eq rfl rfl (encSR_iff.mpr ⟨rfl, fld_op hi lo, rfl, rfl, rfl, fld_append_iff (x := 0#5) (y := 5#3).mpr ⟨top, which⟩, low⟩)
    next => cases h
  next lo => exact decAB_encodes (fld_op hi lo) h fun _ _ _ => ⟨rfl, rfl⟩
  next lo =>
    split at h
    next which =>
      obtain ⟨z, rfl⟩ := dec_some_ok.mp h
      obtain ⟨a, z⟩ := (fld_eq_zero_iff 6 30 rfl).mp (eq_of_beq z)
      obtain ⟨b, z⟩ := (fld_eq_zero_iff 6 24 rfl).mp z
      obtain ⟨func, low⟩ := (fld_eq_zero_iff 8 16 rfl).mp z
      exact .of_eq rfl rfl (encSR_iff.mpr ⟨rfl, fld_op hi lo, rfl, a, b, func, low⟩)
    next which =>
      obtain ⟨z, rfl⟩ := dec_some_ok.mp h
      simp only [Bool.and_eq_true, beq_iff_eq] at z
      exact .of_eq rfl rfl (encSR_iff.mpr ⟨rfl, fld_op hi lo, rfl, rfl, z.2, which, z.1⟩)
    next => cases (dec_ok.mp h).2
  next => cases h

/-- The S slot (Table 16.4), by the upper half of the opcode. -/
theorem decodeS_encodes (h : decodeS w = .ok i) : Encodes i (.s w) := by
  unfold decodeS at h
  split at h
  next hi => exact decodeS0_encodes hi h
  next hi => exact decodeS1_encodes hi h
  next hi => exact decodeS2_encodes hi h
  next hi => exact decodeS3_encodes hi h
  next hi => exact decodeS4_encodes hi h
  next hi => exact decodeS5_encodes hi h
  next hi => exact decodeS6_encodes hi h
  next hi => exact decodeS7_encodes hi h
  next hi => exact decodeS8_encodes hi h
  next hi => exact decodeS9_encodes hi h
  next => cases h

end

section
variable {w : BitVec 36} {k : VSlot} {i : Instr} {o : BitVec 5}

theorem decVAB_encodes {f : VSlot → Guard → VType → PortNo → VOpd → VOpd → Instr} (op : fld w 25 5 = o) (h : decVAB k w f = .ok i)
    (enc : ∀ g t d a b, encode (f k g t d a b) = some (encV k g o t d a b 0)) : Encodes i (.v k w) := by
  obtain ⟨z, wf, rfl⟩ := decWf_ok.mp h
  exact .of_eq wf (enc ..) (encV_iff.mpr ⟨rfl, rfl, op, (VType.bits_ofBits _).symm, rfl, rfl, rfl, eq_of_beq z⟩)

theorem decVA_encodes {f : VSlot → Guard → VType → PortNo → VOpd → Instr} (op : fld w 25 5 = o) (h : decVA k w f = .ok i)
    (enc : ∀ g t d a, encode (f k g t d a) = some (encV k g o t d a 0 0)) : Encodes i (.v k w) := by
  obtain ⟨z, wf, rfl⟩ := decWf_ok.mp h
  obtain ⟨b, c⟩ := (fld_eq_zero_iff 6 5 rfl).mp (eq_of_beq z)
  exact .of_eq wf (enc ..) (encV_iff.mpr ⟨rfl, rfl, op, (VType.bits_ofBits _).symm, rfl, rfl, b, c⟩)

/-- Slot V0 or V1 (Table 16.7). -/
theorem decodeV_encodes (h : decodeV k w = .ok i) : Encodes i (.v k w) := by
  unfold decodeV at h
  split at h
  next op =>
    obtain ⟨z, rfl⟩ := dec_some_ok.mp h
    obtain ⟨t, z⟩ := (fld_eq_zero_iff 3 22 rfl).mp (eq_of_beq z)
    obtain ⟨d, z⟩ := (fld_eq_zero_iff 5 17 rfl).mp z
    obtain ⟨a, z⟩ := (fld_eq_zero_iff 6 11 rfl).mp z
    obtain ⟨b, c⟩ := (fld_eq_zero_iff 6 5 rfl).mp z
    exact .of_eq rfl rfl (encV_iff.mpr ⟨rfl, rfl, op, t, d, a, b, c⟩)
  next op => exact decVAB_encodes op h fun _ _ _ _ _ => rfl
  next op => exact decVAB_encodes op h fun _ _ _ _ _ => rfl
  next op => exact decVAB_encodes op h fun _ _ _ _ _ => rfl
  next op =>
    obtain rfl := Except.ok.inj h
    exact .of_eq rfl rfl (encV_iff.mpr ⟨rfl, rfl, op, (VType.bits_ofBits _).symm, rfl, rfl, rfl, rfl⟩)
  next op => exact decVAB_encodes op h fun _ _ _ _ _ => rfl
  next op => exact decVAB_encodes op h fun _ _ _ _ _ => rfl
  next op => exact decVA_encodes op h fun _ _ _ _ => rfl
  next op => exact decVA_encodes op h fun _ _ _ _ => rfl
  next op => exact decVA_encodes op h fun _ _ _ _ => rfl
  next op => exact decVA_encodes op h fun _ _ _ _ => rfl
  next op => exact decVA_encodes op h fun _ _ _ _ => rfl
  next op => exact decVA_encodes op h fun _ _ _ _ => rfl
  next op =>
    obtain ⟨z, h⟩ := dec_ok.mp h
    obtain ⟨rm, code, h⟩ := Option.bind_eq_some_iff.mp h
    obtain ⟨small, e⟩ := Option.ite_none_right_eq_some.mp h
    obtain rfl := Option.some.inj e
    have upper : ∀ x < 8#5, fld x 3 2 = 0#2 := by decide
    have top : fld w 3 2 = 0#2 := (fld_fld (a := 0) (n := 5) (by decide)).symm.trans (upper _ small)
    exact .of_eq rfl rfl (encV_iff.mpr ⟨rfl, rfl, op, (VType.bits_ofBits _).symm, rfl, rfl,
      fld_cast_iff.mpr ⟨eq_of_beq z, RSel.ofBits_eq_some.mp code⟩, fld_cast_iff.mpr ⟨top, (VType.bits_ofBits _).symm⟩⟩)
  next op =>
    obtain ⟨z, h⟩ := dec_ok.mp h
    dsimp only at h
    split at h
    next => cases h
    next top =>
      obtain ⟨cc, code, wf, rfl⟩ := bindWf_ok.mp h
      exact .of_eq wf rfl (encV_iff.mpr ⟨rfl, rfl, op, (VType.bits_ofBits _).symm, rfl, rfl, rfl,
        fld_cast_iff.mpr ⟨fld_one_eq_zero_iff.mpr (Bool.eq_false_iff.mpr top), Cond.ofBits_eq_some.mp code⟩⟩)
  next op => exact decVAB_encodes op h fun _ _ _ _ _ => rfl
  next op => exact decVAB_encodes op h fun _ _ _ _ _ => rfl
  next op => exact decVAB_encodes op h fun _ _ _ _ _ => rfl
  next op => exact decVAB_encodes op h fun _ _ _ _ _ => rfl
  next op => exact decVAB_encodes op h fun _ _ _ _ _ => rfl
  next op => exact decVAB_encodes op h fun _ _ _ _ _ => rfl
  next op => exact decVA_encodes op h fun _ _ _ _ => rfl
  next op => exact decVA_encodes op h fun _ _ _ _ => rfl
  next op => exact decVA_encodes op h fun _ _ _ _ => rfl
  next op =>
    obtain ⟨z, rfl⟩ := dec_some_ok.mp h
    exact .of_eq rfl rfl (encV_iff.mpr ⟨rfl, rfl, op, (VType.bits_ofBits _).symm, rfl, rfl, rfl,
      fld_cast_iff.mpr ⟨eq_of_beq z, fld_eq_ofBool_iff.mpr rfl⟩⟩)
  next op => exact decVAB_encodes op h fun _ _ _ _ _ => rfl
  next op => exact decVA_encodes op h fun _ _ _ _ => rfl
  next op =>
    obtain ⟨z, rfl⟩ := dec_some_ok.mp h
    obtain ⟨a, z⟩ := (fld_eq_zero_iff 6 11 rfl).mp (eq_of_beq z)
    obtain ⟨b, c⟩ := (fld_eq_zero_iff 6 5 rfl).mp z
    exact .of_eq rfl rfl (encV_iff.mpr ⟨rfl, rfl, op, (VType.bits_ofBits _).symm, rfl, a, b, c⟩)
  next => cases h

end

section
variable {w : BitVec 32} {i : Instr}

/-- The M slot (Table 8.6). -/
theorem decodeM_encodes (h : decodeM w = .ok i) : Encodes i (.m w) := by
  unfold decodeM at h
  split at h
  next op =>
    obtain ⟨z, rfl⟩ := dec_some_ok.mp h
    exact .of_eq rfl rfl (congrArg Enc.m (cast_append_eq_iff.mpr ⟨rfl, (fld_eq_zero_iff 2 24 rfl).mpr ⟨op, eq_of_beq z⟩⟩))
  next op =>
    obtain ⟨z, rfl⟩ := dec_some_ok.mp h
    refine .of_eq rfl rfl (congrArg Enc.m (cast_append_eq_iff.mpr ?_))
    have zero : fld w 3 2 = 0#2 := eq_of_beq z
    simp only [fld_append_iff, fld_eq_ofBool_iff, op, zero, and_self]
  next => cases h

/-- The mode byte of a copy: AR in its top bit, and the operation's own bits. -/
theorem copyMode_iff {ar : Bool} {m n : Nat} {x : BitVec m} {y : BitVec n} {h : 1 + m + n = 8} :
    fld w 0 8 = (BitVec.ofBool ar ++ x ++ y).cast h ↔ (bit w (n + m) = ar ∧ fld w n m = x) ∧ fld w 0 n = y := by
  simp only [fld_cast_iff, fld_append_iff, fld_eq_ofBool_iff, Nat.zero_add]

/-- Slot C0 or C1 (Tables 9.1 and 16.8). -/
theorem decodeC_encodes {c : CSlot} (h : decodeC c w = .ok i) : Encodes i (.c c w) := by
  unfold decodeC at h
  split at h
  next op =>
    obtain ⟨z, rfl⟩ := dec_some_ok.mp h
    obtain ⟨s, z⟩ := (fld_eq_zero_iff 5 16 rfl).mp (eq_of_beq z)
    obtain ⟨d, z⟩ := (fld_eq_zero_iff 5 11 rfl).mp z
    obtain ⟨n, mode⟩ := (fld_eq_zero_iff 3 8 rfl).mp z
    exact .of_eq rfl rfl (encC_iff.mpr ⟨rfl, rfl, op, s, d, n, mode⟩)
  next op =>
    obtain ⟨z, rfl⟩ := dec_some_ok.mp h
    refine .of_eq rfl rfl (encC_iff.mpr ⟨rfl, rfl, op, rfl, rfl, rfl, ?_⟩)
    have zero : fld w 0 1 = 0#1 := fld_one_eq_zero_iff.mpr (Bool.eq_false_of_not_eq_true' z)
    simp only [fld_cast_iff, fld_append_iff, fld_eq_ofBool_iff, zero, and_self]
  next op =>
    obtain ⟨z, h⟩ := dec_ok.mp h
    obtain ⟨aop, code, wf, rfl⟩ := bindWf_ok.mp h
    exact .of_eq wf rfl (encC_iff.mpr ⟨rfl, rfl, op, rfl, rfl, rfl, copyMode_iff.mpr ⟨⟨rfl, eq_of_beq z⟩, AtomOp.ofBits_eq_some.mp code⟩⟩)
  next op =>
    obtain ⟨z, rfl⟩ := dec_some_ok.mp h
    exact .of_eq rfl rfl (encC_iff.mpr ⟨rfl, rfl, op, rfl, rfl, rfl, copyMode_iff.mpr ⟨⟨rfl, eq_of_beq z⟩, rfl⟩⟩)
  next op =>
    obtain ⟨z, rfl⟩ := dec_some_ok.mp h
    exact .of_eq rfl rfl (encC_iff.mpr ⟨rfl, rfl, op, rfl, rfl, rfl, copyMode_iff.mpr ⟨⟨rfl, eq_of_beq z⟩, rfl⟩⟩)
  next op =>
    obtain ⟨z, rfl⟩ := dec_some_ok.mp h
    simp only [Bool.and_eq_true, beq_iff_eq] at z
    exact .of_eq rfl rfl (encC_iff.mpr ⟨rfl, rfl, op, rfl, z.1, rfl, fld_cast_iff.mpr ⟨z.2, rfl⟩⟩)
  next op =>
    obtain ⟨z, rfl⟩ := dec_some_ok.mp h
    exact .of_eq rfl rfl (encC_iff.mpr ⟨rfl, rfl, op, rfl, eq_of_beq z, rfl, rfl⟩)
  next op =>
    obtain ⟨z, rfl⟩ := dec_some_ok.mp h
    simp only [Bool.and_eq_true, beq_iff_eq] at z
    exact .of_eq rfl rfl (encC_iff.mpr ⟨rfl, rfl, op, z.1, rfl, rfl, fld_cast_iff.mpr ⟨z.2, rfl⟩⟩)
  next op =>
    obtain ⟨z, wf, rfl⟩ := decWf_ok.mp h
    exact .of_eq wf rfl (encC_iff.mpr ⟨rfl, rfl, op, rfl, rfl, rfl,
      fld_cast_iff.mpr ⟨fld_append_iff.mpr ⟨eq_of_beq z, fld_eq_ofBool_iff.mpr rfl⟩, rfl⟩⟩)
  next op =>
    obtain ⟨z, rfl⟩ := dec_some_ok.mp h
    exact .of_eq rfl rfl (encC_iff.mpr ⟨rfl, rfl, op, rfl, rfl, rfl, fld_cast_iff.mpr ⟨fld_eq_ofBool_iff.mpr rfl, eq_of_beq z⟩⟩)
  next op =>
    obtain ⟨z, rfl⟩ := dec_some_ok.mp h
    obtain ⟨s, d⟩ := (fld_eq_zero_iff 5 5 rfl).mp (eq_of_beq z)
    exact .of_eq rfl rfl (encC_iff.mpr ⟨rfl, rfl, op, s, d, rfl, rfl⟩)
  next op =>
    obtain ⟨z, rfl⟩ := dec_some_ok.mp h
    exact .of_eq rfl rfl (encC_iff.mpr ⟨rfl, rfl, op, rfl, rfl, rfl, copyMode_iff.mpr ⟨⟨rfl, fld_eq_ofBool_iff.mpr rfl⟩, rfl⟩⟩)
  next => cases h

end

/-- The mode of XEXP and XPACK: the slot whose latch is read, and the width. -/
theorem laneMode_iff {w : BitVec 24} {l : VSlot} {n : BitVec 2} {h : 1 + 1 + 2 = 4} :
    fld w 0 4 = (b1 l.bit ++ 0#1 ++ n).cast h ↔ (bit w 3 = l.bit ∧ bit w 2 = false) ∧ fld w 0 2 = n := by
  simp only [fld_cast_iff, fld_append_iff, fld_eq_ofBool_iff, fld_one_eq_zero_iff]

/-- The X slot (Table 9.5). -/
theorem decodeX_encodes {w : BitVec 24} {i : Instr} (h : decodeX w = .ok i) : Encodes i (.x w) := by
  unfold decodeX at h
  split at h
  next op =>
    obtain ⟨z, rfl⟩ := dec_some_ok.mp h
    obtain ⟨d, z⟩ := (fld_eq_zero_iff 5 9 rfl).mp (eq_of_beq z)
    obtain ⟨a, mode⟩ := (fld_eq_zero_iff 5 4 rfl).mp z
    exact .of_eq rfl rfl (encX_iff.mpr ⟨rfl, op, d, a, mode⟩)
  next op =>
    obtain ⟨z, wf, rfl⟩ := decWf_ok.mp h
    exact .of_eq wf rfl (encX_iff.mpr ⟨rfl, op, rfl, rfl, fld_cast_iff.mpr ⟨eq_of_beq z, rfl⟩⟩)
  next op =>
    obtain rfl := Except.ok.inj h
    exact .of_eq rfl rfl (encX_iff.mpr ⟨rfl, op, rfl, rfl, fld_cast_iff.mpr ⟨fld_eq_ofBool_iff.mpr rfl, rfl⟩⟩)
  next op =>
    obtain ⟨z, wf, rfl⟩ := decWf_ok.mp h
    exact .of_eq wf rfl (encX_iff.mpr ⟨rfl, op, rfl, rfl, laneMode_iff.mpr ⟨⟨(VSlot.bit_ofBit _).symm, Bool.eq_false_of_not_eq_true' z⟩, rfl⟩⟩)
  next op =>
    obtain ⟨z, wf, rfl⟩ := decWf_ok.mp h
    exact .of_eq wf rfl (encX_iff.mpr ⟨rfl, op, rfl, rfl, laneMode_iff.mpr ⟨⟨(VSlot.bit_ofBit _).symm, Bool.eq_false_of_not_eq_true' z⟩, rfl⟩⟩)
  next => cases h

/-- The operating-point header (R266). -/
theorem decodeHeader_encodes {w : BitVec 8} {i : Instr} (h : decodeHeader w = .ok (some i)) : Encodes i (.header w) := by
  unfold decodeHeader at h
  split at h
  next => cases h
  next reserved =>
    split at h
    next request =>
      obtain rfl := Option.some.inj (Except.ok.inj h)
      have low : fld w 0 4 = 0#4 := by simpa using reserved
      exact .of_eq rfl rfl (congrArg Enc.header (cast_append_eq_iff.mpr
        ⟨fld_append_iff.mpr ⟨fld_eq_ofBool_iff (b := true).mpr request, rfl⟩, low⟩))
    next => split at h <;> cases h

/-- Settles O57, slot by slot: each arm of a decoder fixes every bit of its word. -/
theorem decodeEncode : Obligations.DecodeEncode := by
  unfold Obligations.DecodeEncode
  intro i e h
  cases e with
  | header w =>
    rw [Enc.decode] at h
    split at h
    next request => exact decodeHeader_encodes (Except.ok.inj h ▸ request)
    next => cases h
    next => cases h
  | s w => exact decodeS_encodes h
  | v k w => exact decodeV_encodes h
  | m w => exact decodeM_encodes h
  | c k w => exact decodeC_encodes h
  | x w => exact decodeX_encodes h

/-! ### The word of an instruction decodes to it -/

/-- The word that the encoder gives the instruction in slot S decodes to it. -/
def DecodesS (i : Instr) : Prop := ∀ w, i.wf = true → encode i = some (.s w) → decodeS w = .ok i

theorem Size.ofBits_eq {x : BitVec 2} {c : Size} (h : x = c.bits) : Size.ofBits x = c := h ▸ Size.ofBits_bits c
theorem Order.ofBits_eq {x : BitVec 2} {c : Order} (h : x = c.bits) : Order.ofBits x = c := h ▸ Order.ofBits_bits c
theorem EType.ofBits_eq {x : BitVec 4} {c : EType} (h : x = c.bits) : EType.ofBits x = c := h ▸ EType.ofBits_bits c
theorem VType.ofBits_eq {x : BitVec 3} {c : VType} (h : x = c.bits) : VType.ofBits x = c := h ▸ VType.ofBits_bits c
theorem VSlot.ofBit_eq {x : Bool} {c : VSlot} (h : x = c.bit) : VSlot.ofBit x = c := h ▸ VSlot.ofBit_bit c

section
variable {g d a b : BitVec 6} {o : BitVec 8}

theorem decodesS_bare {k : BitVec 6 → Instr} (enc : encode (k g) = some (encSR g o 0 0 0 0))
    (arm : ∀ {w}, fld w 42 8 = o → decodeS w = decBare w k) : DecodesS (k g) := by
  intro w _ h
  obtain ⟨rfl, op, d, a, b, func, low⟩ := encSR_iff.mp (Option.some.inj (enc.symm.trans h))
  refine (arm op).trans (dec_some_ok.mpr ⟨beq_of_eq ?_, rfl⟩)
  exact (fld_eq_zero_iff 6 36 rfl).mpr ⟨d, (fld_eq_zero_iff 6 30 rfl).mpr ⟨a, (fld_eq_zero_iff 6 24 rfl).mpr ⟨b,
    (fld_eq_zero_iff 8 16 rfl).mpr ⟨func, low⟩⟩⟩⟩

theorem decodesS_d {k : BitVec 6 → BitVec 6 → Instr} (enc : encode (k g d) = some (encSR g o d 0 0 0))
    (arm : ∀ {w}, fld w 42 8 = o → decodeS w = decD w k) : DecodesS (k g d) := by
  intro w _ h
  obtain ⟨rfl, op, rfl, a, b, func, low⟩ := encSR_iff.mp (Option.some.inj (enc.symm.trans h))
  refine (arm op).trans (dec_some_ok.mpr ⟨beq_of_eq ?_, rfl⟩)
  exact (fld_eq_zero_iff 6 30 rfl).mpr ⟨a, (fld_eq_zero_iff 6 24 rfl).mpr ⟨b, (fld_eq_zero_iff 8 16 rfl).mpr ⟨func, low⟩⟩⟩

theorem decodesS_da {k : BitVec 6 → BitVec 6 → BitVec 6 → Instr} (enc : encode (k g d a) = some (encSR g o d a 0 0))
    (arm : ∀ {w}, fld w 42 8 = o → decodeS w = decDA w k) : DecodesS (k g d a) := by
  intro w _ h
  obtain ⟨rfl, op, rfl, rfl, b, func, low⟩ := encSR_iff.mp (Option.some.inj (enc.symm.trans h))
  refine (arm op).trans (dec_some_ok.mpr ⟨beq_of_eq ?_, rfl⟩)
  exact (fld_eq_zero_iff 6 24 rfl).mpr ⟨b, (fld_eq_zero_iff 8 16 rfl).mpr ⟨func, low⟩⟩

theorem decodesS_a {k : BitVec 6 → BitVec 6 → Instr} (enc : encode (k g a) = some (encSR g o 0 a 0 0))
    (arm : ∀ {w}, fld w 42 8 = o → decodeS w = decA w k) : DecodesS (k g a) := by
  intro w _ h
  obtain ⟨rfl, op, d, rfl, b, func, low⟩ := encSR_iff.mp (Option.some.inj (enc.symm.trans h))
  refine (arm op).trans (dec_some_ok.mpr ⟨Bool.and_eq_true_iff.mpr ⟨beq_of_eq ?_, beq_of_eq d⟩, rfl⟩)
  exact (fld_eq_zero_iff 6 24 rfl).mpr ⟨b, (fld_eq_zero_iff 8 16 rfl).mpr ⟨func, low⟩⟩

theorem decodesS_ab {k : BitVec 6 → BitVec 6 → BitVec 6 → Instr} (enc : encode (k g a b) = some (encSR g o 0 a b 0))
    (arm : ∀ {w}, fld w 42 8 = o → decodeS w = decAB w k) : DecodesS (k g a b) := by
  intro w _ h
  obtain ⟨rfl, op, d, rfl, rfl, func, low⟩ := encSR_iff.mp (Option.some.inj (enc.symm.trans h))
  refine (arm op).trans (dec_some_ok.mpr ⟨Bool.and_eq_true_iff.mpr ⟨beq_of_eq ?_, beq_of_eq d⟩, rfl⟩)
  exact (fld_eq_zero_iff 8 16 rfl).mpr ⟨func, low⟩

theorem decodesS_dab {k : BitVec 6 → BitVec 6 → BitVec 6 → BitVec 6 → Instr} (enc : encode (k g d a b) = some (encSR g o d a b 0))
    (arm : ∀ {w}, fld w 42 8 = o → decodeS w = decDAB w k) : DecodesS (k g d a b) := by
  intro w _ h
  obtain ⟨rfl, op, rfl, rfl, rfl, func, low⟩ := encSR_iff.mp (Option.some.inj (enc.symm.trans h))
  exact (arm op).trans (dec_some_ok.mpr ⟨beq_of_eq ((fld_eq_zero_iff 8 16 rfl).mpr ⟨func, low⟩), rfl⟩)

theorem decodesS_dai {k : BitVec 6 → BitVec 6 → BitVec 6 → BitVec 30 → Instr} {imm : BitVec 30}
    (enc : encode (k g d a imm) = some (encSI g o d a imm)) (arm : ∀ {w}, fld w 42 8 = o → decodeS w = decDAI w k) :
    DecodesS (k g d a imm) := by
  intro w _ h
  obtain ⟨rfl, op, rfl, rfl, rfl⟩ := encSI_iff.mp (Option.some.inj (enc.symm.trans h))
  exact arm op

theorem decodesS_shift {k : BitVec 6 → BitVec 6 → BitVec 6 → BitVec 6 → Instr} {n : BitVec 6}
    (enc : encode (k g d a n) = some (encSI g o d a ((0#24 ++ n).cast (by decide))))
    (arm : ∀ {w}, fld w 42 8 = o → decodeS w = decShift w k) : DecodesS (k g d a n) := by
  intro w _ h
  obtain ⟨rfl, op, rfl, rfl, imm⟩ := encSI_iff.mp (Option.some.inj (enc.symm.trans h))
  obtain ⟨top, rfl⟩ := fld_cast_iff.mp imm
  exact (arm op).trans (dec_some_ok.mpr ⟨beq_of_eq top, rfl⟩)

theorem decodesS_sel {code : Guard} : DecodesS (.sel g d a b code) := by
  intro w _ h
  obtain ⟨rfl, op, rfl, rfl, rfl, func, low⟩ := encSR_iff.mp (Option.some.inj h)
  obtain ⟨top, rfl⟩ := fld_cast_iff.mp func
  rw [decodeS, decodeS1, fld_hi op, fld_lo op]
  exact dec_some_ok.mpr ⟨Bool.and_eq_true_iff.mpr ⟨beq_of_eq low, beq_of_eq top⟩, rfl⟩

theorem decCmp_word {w : BitVec 56} {k : Bool → BitVec 6 → Cond → Instr} {r : Bool} {cc : Cond} (func : fld w 16 8 = cmpFunc r cc)
    (low : fld w 0 16 = 0) (dest : r = false → fld w 40 2 = 0) (wf : (k r (sD w) cc).wf = true) : decCmp w k = .ok (k r (sD w) cc) := by
  simp only [fld_cast_iff, fld_append_iff, fld_eq_ofBool_iff] at func
  obtain ⟨⟨top, rfl⟩, code⟩ := func
  refine dec_ok.mpr ⟨?_, bindWf_ok.mpr ⟨cc, Cond.ofBits_eq_some.mpr code, wf, rfl⟩⟩
  simp only [Bool.and_eq_true, Bool.or_eq_true, beq_iff_eq]
  refine ⟨⟨low, top⟩, ?_⟩
  by_cases kind : bit w 20
  · exact .inl kind
  · exact .inr (dest (Bool.eq_false_iff.mpr kind))

theorem decodesS_cmpGuard {n : BitVec 4} {cc : Cond} : DecodesS (.cmpGuard g n a b cc) := by
  intro w wf h
  obtain ⟨rfl, op, dest, rfl, rfl, func, low⟩ := encSR_iff.mp (Option.some.inj h)
  obtain ⟨high, rfl⟩ := fld_cast_iff.mp dest
  rw [decodeS, decodeS1, fld_hi op, fld_lo op]
  have number : fld (sD w) 0 4 = fld w 36 4 := fld_fld (by decide)
  rw [← number] at wf ⊢
  exact decCmp_word (r := false) func low (fun _ => high) wf

theorem decodesS_cmpRegister {cc : Cond} : DecodesS (.cmpRegister g d a b cc) := by
  intro w wf h
  obtain ⟨rfl, op, rfl, rfl, rfl, func, low⟩ := encSR_iff.mp (Option.some.inj h)
  rw [decodeS, decodeS1, fld_hi op, fld_lo op]
  exact decCmp_word (r := true) func low nofun wf

theorem decodesS_lea {n : BitVec 3} : DecodesS (.lea g d a b n) := by
  intro w _ h
  obtain ⟨rfl, op, rfl, rfl, rfl, func, low⟩ := encSR_iff.mp (Option.some.inj h)
  obtain ⟨top, rfl⟩ := fld_cast_iff.mp func
  rw [decodeS, decodeS1, fld_hi op, fld_lo op]
  exact dec_some_ok.mpr ⟨Bool.and_eq_true_iff.mpr ⟨beq_of_eq low, beq_of_eq top⟩, rfl⟩

theorem decodesS_ext {pos : BitVec 6} {len : BitVec 7} {sx : Bool} : DecodesS (.ext g d a pos len sx) := by
  intro w wf h
  obtain ⟨rfl, op, rfl, rfl, imm⟩ := encSI_iff.mp (Option.some.inj h)
  simp only [fld_cast_iff, fld_append_iff, fld_eq_ofBool_iff] at imm
  obtain ⟨⟨⟨top, rfl⟩, rfl⟩, rfl⟩ := imm
  rw [decodeS, decodeS1, fld_hi op, fld_lo op]
  exact decWf_ok.mpr ⟨beq_of_eq top, wf, rfl⟩

theorem decodesS_ins {pos : BitVec 6} {len : BitVec 7} : DecodesS (.ins g d a pos len) := by
  intro w wf h
  obtain ⟨rfl, op, rfl, rfl, imm⟩ := encSI_iff.mp (Option.some.inj h)
  simp only [fld_cast_iff, fld_append_iff] at imm
  obtain ⟨⟨top, rfl⟩, rfl⟩ := imm
  rw [decodeS, decodeS1, fld_hi op, fld_lo op]
  exact decWf_ok.mpr ⟨beq_of_eq top, wf, rfl⟩

/-- A guard register's number fits in four bits. -/
theorem guardNumber_iff {w : BitVec 56} : fld w 40 2 = 0 ↔ (sD w).toNat < 16 := by
  rw [← fld_fld (w := w) (a := 36) (n := 6) (lo := 4) (len := 2) (by decide)]
  exact (by decide : ∀ d : BitVec 6, fld d 4 2 = 0 ↔ d.toNat < 16) _

theorem decodesS_cmpi {r : Bool} {cc : Cond} {imm : BitVec 25} : DecodesS (.cmpi g r d a cc imm) := by
  intro w wf h
  obtain ⟨rfl, op, rfl, rfl, fields⟩ := encSI_iff.mp (Option.some.inj h)
  simp only [fld_cast_iff, fld_append_iff, fld_eq_ofBool_iff] at fields
  obtain ⟨⟨code, rfl⟩, rfl⟩ := fields
  rw [decodeS, decodeS2, fld_hi op, fld_lo op]
  refine dec_ok.mpr ⟨?_, bindWf_ok.mpr ⟨cc, Cond.ofBits_eq_some.mpr code, wf, rfl⟩⟩
  obtain ⟨-, kind⟩ := Bool.and_eq_true_iff.mp wf
  rw [Bool.or_eq_true_iff, decide_eq_true_iff] at kind
  exact Bool.or_eq_true_iff.mpr (kind.imp_right fun small => beq_of_eq (guardNumber_iff.mpr small))

theorem decodesS_movi {imm : BitVec 30} : DecodesS (.movi g d imm) := by
  intro w _ h
  obtain ⟨rfl, op, rfl, z, rfl⟩ := encSI_iff.mp (Option.some.inj h)
  rw [decodeS, decodeS2, fld_hi op, fld_lo op]
  exact dec_some_ok.mpr ⟨beq_of_eq z, rfl⟩

theorem decodesS_movk {v : BitVec 16} {k : BitVec 2} : DecodesS (.movk g d v k) := by
  intro w _ h
  obtain ⟨rfl, op, rfl, z, imm⟩ := encSI_iff.mp (Option.some.inj h)
  simp only [fld_cast_iff, fld_append_iff] at imm
  obtain ⟨⟨top, rfl⟩, rfl⟩ := imm
  rw [decodeS, decodeS2, fld_hi op, fld_lo op]
  exact dec_some_ok.mpr ⟨Bool.and_eq_true_iff.mpr ⟨beq_of_eq z, beq_of_eq top⟩, rfl⟩

theorem decodesS_ffma {c : BitVec 6} : DecodesS (.ffma g d a b c) := by
  intro w _ h
  obtain ⟨rfl, op, rfl, rfl, rfl, func, low⟩ := encSR_iff.mp (Option.some.inj h)
  obtain ⟨top, rfl⟩ := fld_cast_iff.mp func
  rw [decodeS, decodeS3, fld_hi op, fld_lo op]
  exact dec_some_ok.mpr ⟨Bool.and_eq_true_iff.mpr ⟨beq_of_eq low, beq_of_eq top⟩, rfl⟩

theorem decodesS_fcmp {r : Bool} {cc : Cond} : DecodesS (.fcmp g r d a b cc) := by
  intro w wf h
  obtain ⟨rfl, op, rfl, rfl, rfl, func, low⟩ := encSR_iff.mp (Option.some.inj h)
  rw [decodeS, decodeS3, fld_hi op, fld_lo op]
  refine decCmp_word func low (fun guard => ?_) wf
  obtain ⟨-, kind⟩ := Bool.and_eq_true_iff.mp wf
  rw [guard, Bool.false_or, decide_eq_true_iff] at kind
  exact guardNumber_iff.mpr kind

theorem decodesS_fcvt {dst src : EType} {nsat : Bool} {rm : RSel} : DecodesS (.fcvt g d a dst src nsat rm) := by
  intro w wf h
  obtain ⟨rfl, op, rfl, rfl, types, func, low⟩ := encSR_iff.mp (Option.some.inj h)
  obtain ⟨top, dst⟩ := fld_cast_iff.mp types
  simp only [fld_cast_iff, fld_append_iff, fld_eq_ofBool_iff] at func
  obtain ⟨⟨src, rfl⟩, code⟩ := func
  obtain rfl := EType.ofBits_eq dst
  obtain rfl := EType.ofBits_eq src
  rw [decodeS, decodeS3, fld_hi op, fld_lo op]
  exact dec_ok.mpr ⟨Bool.and_eq_true_iff.mpr ⟨beq_of_eq low, beq_of_eq top⟩, bindWf_ok.mpr ⟨rm, RSel.ofBits_eq_some.mpr code, wf, rfl⟩⟩

theorem decodesS_ld {disp : BitVec 16} {size : Size} {ord : Order} {scope : Scope} {sx : Bool} {lat : Lat} : DecodesS (.ld g d a disp size sx ord scope lat) := by
  intro w wf h
  obtain ⟨rfl, op, rfl, rfl, rfl, size, rfl, ord, rfl, rfl⟩ := encSL_iff.mp (Option.some.inj h)
  obtain rfl := Size.ofBits_eq size
  obtain rfl := Order.ofBits_eq ord
  rw [decodeS, decodeS4, fld_hi op, fld_lo op]
  exact decWf_ok.mpr ⟨rfl, wf, rfl⟩

theorem decodesS_st {disp : BitVec 16} {size : Size} {ord : Order} {scope : Scope} : DecodesS (.st g d a disp size ord scope) := by
  intro w wf h
  obtain ⟨rfl, op, rfl, rfl, rfl, size, mid, ord, rfl, lat⟩ := encSL_iff.mp (Option.some.inj h)
  obtain rfl := Size.ofBits_eq size
  obtain rfl := Order.ofBits_eq ord
  rw [decodeS, decodeS4, fld_hi op, fld_lo op]
  exact decWf_ok.mpr ⟨Bool.and_eq_true_iff.mpr ⟨congrArg not mid, beq_of_eq lat⟩, wf, rfl⟩

theorem decodesS_ldfe {disp : BitVec 16} {size : Size} {ord : Order} {scope : Scope} {peek : Bool} {lat : Lat} : DecodesS (.ldfe g d a disp size peek ord scope lat) := by
  intro w wf h
  obtain ⟨rfl, op, rfl, rfl, rfl, size, rfl, ord, rfl, rfl⟩ := encSL_iff.mp (Option.some.inj h)
  obtain rfl := Size.ofBits_eq size
  obtain rfl := Order.ofBits_eq ord
  rw [decodeS, decodeS4, fld_hi op, fld_lo op]
  exact decWf_ok.mpr ⟨rfl, wf, rfl⟩

theorem decodesS_stfe {disp : BitVec 16} {size : Size} {ord : Order} {scope : Scope} : DecodesS (.stfe g d a disp size ord scope) := by
  intro w wf h
  obtain ⟨rfl, op, rfl, rfl, rfl, size, mid, ord, rfl, lat⟩ := encSL_iff.mp (Option.some.inj h)
  obtain rfl := Size.ofBits_eq size
  obtain rfl := Order.ofBits_eq ord
  rw [decodeS, decodeS4, fld_hi op, fld_lo op]
  exact decWf_ok.mpr ⟨Bool.and_eq_true_iff.mpr ⟨congrArg not mid, beq_of_eq lat⟩, wf, rfl⟩

/-- The middle of an atomic's word: its operation, with the reserved bits beside it. -/
theorem atomic_reserved {w : BitVec 56} {aop : AtomOp} (c : fld w 18 6 = opC aop) (fo : bit w 17 = false) (low : fld w 14 3 = 0) :
    fld w 22 2 = 0 ∧ AtomOp.ofBits (fld w 18 4) = some aop ∧ fld w 14 4 = 0 := by
  obtain ⟨top, code⟩ := fld_cast_iff.mp c
  exact ⟨top, AtomOp.ofBits_eq_some.mpr code, (fld_eq_zero_iff 1 3 rfl).mpr ⟨fld_one_eq_zero_iff.mpr fo, low⟩⟩

theorem decodesS_amo {aop : AtomOp} {size : Size} {ord : Order} {scope : Scope} {lat : Lat} : DecodesS (.amo g d a b aop size ord scope lat) := by
  intro w wf h
  obtain ⟨rfl, op, rfl, rfl, rfl, c, fo, low, size, mid, ord, rfl, rfl⟩ := encSA_iff.mp (Option.some.inj h)
  obtain ⟨top, code, low⟩ := atomic_reserved c fo low
  obtain rfl := Size.ofBits_eq size
  obtain rfl := Order.ofBits_eq ord
  rw [decodeS, decodeS4, fld_hi op, fld_lo op]
  refine dec_ok.mpr ⟨?_, bindWf_ok.mpr ⟨aop, code, wf, rfl⟩⟩
  simp only [Bool.and_eq_true, Bool.not_eq_true', beq_iff_eq]
  exact ⟨⟨top, low⟩, mid⟩

theorem decodesS_amor {aop : AtomOp} {size : Size} {level : BitVec 3} : DecodesS (.amor g d a b aop size level) := by
  intro w wf h
  obtain ⟨rfl, op, rfl, rfl, rfl, c, fo, low, size, mid, ord, rfl, lat⟩ := encSA_iff.mp (Option.some.inj h)
  obtain ⟨top, code, low⟩ := atomic_reserved c fo low
  obtain rfl := Size.ofBits_eq size
  have rel : sOrd w = .rel := congrArg Order.ofBits ord
  rw [decodeS, decodeS4, fld_hi op, fld_lo op]
  refine dec_ok.mpr ⟨?_, Option.bind_eq_some_iff.mpr ⟨aop, code, if_pos (Bool.and_eq_true_iff.mpr ⟨wf, beq_of_eq rel⟩)⟩⟩
  simp only [Bool.and_eq_true, Bool.not_eq_true', beq_iff_eq]
  exact ⟨⟨⟨top, low⟩, mid⟩, lat⟩

theorem decodesS_cas {c : SReg} {fo : Bool} {size : Size} {ord : Order} {scope : Scope} {lat : Lat} : DecodesS (.cas g d a b c fo size ord scope lat) := by
  intro w wf h
  obtain ⟨rfl, op, rfl, rfl, rfl, rfl, rfl, low, size, mid, ord, rfl, rfl⟩ := encSA_iff.mp (Option.some.inj h)
  obtain rfl := Size.ofBits_eq size
  obtain rfl := Order.ofBits_eq ord
  rw [decodeS, decodeS4, fld_hi op, fld_lo op]
  exact decWf_ok.mpr ⟨Bool.and_eq_true_iff.mpr ⟨beq_of_eq low, congrArg not mid⟩, wf, rfl⟩

theorem decodesS_red {aop : AtomOp} {size : Size} {ord : Order} {scope : Scope} : DecodesS (.red g a b aop size ord scope) := by
  intro w wf h
  obtain ⟨rfl, op, d, rfl, rfl, c, fo, low, size, mid, ord, rfl, lat⟩ := encSA_iff.mp (Option.some.inj h)
  obtain ⟨top, code, low⟩ := atomic_reserved c fo low
  obtain rfl := Size.ofBits_eq size
  obtain rfl := Order.ofBits_eq ord
  rw [decodeS, decodeS4, fld_hi op, fld_lo op]
  refine dec_ok.mpr ⟨?_, bindWf_ok.mpr ⟨aop, code, wf, rfl⟩⟩
  simp only [Bool.and_eq_true, Bool.not_eq_true', beq_iff_eq]
  exact ⟨⟨⟨⟨top, low⟩, mid⟩, lat⟩, d⟩

theorem decodesS_fence {sc : Bool} {ord : Order} {scope : Scope} : DecodesS (.fence g sc ord scope) := by
  intro w wf h
  obtain ⟨rfl, op, d, a, disp, size, rfl, ord, rfl, lat⟩ := encSL_iff.mp (Option.some.inj h)
  obtain rfl := Order.ofBits_eq ord
  have zero : fld w 12 30 = 0 :=
    (fld_eq_zero_iff 6 24 rfl).mpr ⟨d, (fld_eq_zero_iff 6 18 rfl).mpr ⟨a, (fld_eq_zero_iff 16 2 rfl).mpr ⟨disp, size⟩⟩⟩
  rw [decodeS, decodeS4, fld_hi op, fld_lo op]
  exact decWf_ok.mpr ⟨Bool.and_eq_true_iff.mpr ⟨beq_of_eq zero, beq_of_eq lat⟩, wf, rfl⟩

theorem decodesS_br {c : BrCond} {off : BitVec 30} : DecodesS (.br g c a off) := by
  intro w wf h
  obtain ⟨rfl, op, dest, rfl, rfl⟩ := encSI_iff.mp (Option.some.inj h)
  obtain ⟨code, low⟩ := fld_cast_iff.mp dest
  rw [decodeS, decodeS5, fld_hi op, fld_lo op]
  refine dec_ok.mpr ⟨?_, Option.bind_eq_some_iff.mpr ⟨c, BrCond.ofBits_eq_some.mpr code, rfl⟩⟩
  refine Bool.and_eq_true_iff.mpr ⟨beq_of_eq low, Bool.or_eq_true_iff.mpr ?_⟩
  by_cases always : c = .always
  · refine .inr ?_
    simpa [Instr.wf, always] using wf
  · refine .inl (bne_iff_ne.mpr fun zero => always ?_)
    exact Option.some.inj ((BrCond.ofBits_eq_some.mpr (code.symm.trans zero).symm).symm)

theorem decodesS_jmp {off : BitVec 30} : DecodesS (.jmp g a off) := by
  intro w _ h
  obtain ⟨rfl, op, d, rfl, rfl⟩ := encSI_iff.mp (Option.some.inj h)
  rw [decodeS, decodeS5, fld_hi op, fld_lo op]
  exact dec_some_ok.mpr ⟨beq_of_eq d, rfl⟩

theorem decodesS_call {off : BitVec 30} : DecodesS (.call g off) := by
  intro w _ h
  obtain ⟨rfl, op, d, a, rfl⟩ := encSI_iff.mp (Option.some.inj h)
  obtain ⟨top, kind⟩ := (fld_eq_zero_iff 5 1 rfl).mp d
  have kind : bit w 36 = false := fld_one_eq_zero_iff.mp kind
  rw [decodeS, decodeS5, fld_hi op, fld_lo op]
  refine dec_ok.mpr ⟨Bool.and_eq_true_iff.mpr ⟨beq_of_eq top, Bool.or_eq_true_iff.mpr (.inr (beq_of_eq a))⟩, ?_⟩
  rw [kind]
  rfl

theorem decodesS_callRegister {off : BitVec 30} : DecodesS (.callRegister g a off) := by
  intro w _ h
  obtain ⟨rfl, op, d, rfl, rfl⟩ := encSI_iff.mp (Option.some.inj h)
  obtain ⟨top, kind⟩ := fld_append_iff (x := 0#5) (y := 1#1).mp d
  have kind : bit w 36 = true := fld_eq_ofBool_iff (b := true).mp kind
  rw [decodeS, decodeS5, fld_hi op, fld_lo op]
  refine dec_ok.mpr ⟨Bool.and_eq_true_iff.mpr ⟨beq_of_eq top, Bool.or_eq_true_iff.mpr (.inl kind)⟩, ?_⟩
  rw [kind]
  rfl

theorem decodesS_ret : DecodesS (.ret g) := by
  intro w _ h
  obtain ⟨rfl, op, d, a, imm⟩ := encSI_iff.mp (Option.some.inj h)
  have zero : fld w 0 42 = 0 := (fld_eq_zero_iff 6 36 rfl).mpr ⟨d, (fld_eq_zero_iff 6 30 rfl).mpr ⟨a, imm⟩⟩
  rw [decodeS, decodeS5, fld_hi op, fld_lo op]
  exact dec_some_ok.mpr ⟨beq_of_eq zero, rfl⟩

theorem decodesS_bloop {off : BitVec 30} : DecodesS (.bloop g off) := by
  intro w _ h
  obtain ⟨rfl, op, d, a, rfl⟩ := encSI_iff.mp (Option.some.inj h)
  rw [decodeS, decodeS5, fld_hi op, fld_lo op]
  exact dec_some_ok.mpr ⟨beq_of_eq ((fld_eq_zero_iff 6 6 rfl).mpr ⟨d, a⟩), rfl⟩

theorem decodesS_exit {n : BitVec 8} : DecodesS (.exit g n) := by
  intro w _ h
  obtain ⟨rfl, op, d, a, imm⟩ := encSI_iff.mp (Option.some.inj h)
  obtain ⟨top, rfl⟩ := fld_cast_iff.mp imm
  obtain ⟨top, leave⟩ := (fld_eq_zero_iff 21 1 rfl).mp top
  have leave : bit w 8 = false := fld_one_eq_zero_iff.mp leave
  rw [decodeS, decodeS5, fld_hi op, fld_lo op]
  refine dec_ok.mpr ⟨Bool.and_eq_true_iff.mpr ⟨beq_of_eq ((fld_eq_zero_iff 6 6 rfl).mpr ⟨d, a⟩), beq_of_eq top⟩, ?_⟩
  rw [leave]
  rfl

theorem decodesS_exitLeave : DecodesS (.exitLeave g) := by
  intro w _ h
  obtain ⟨rfl, op, d, a, imm⟩ := encSI_iff.mp (Option.some.inj h)
  obtain ⟨top, low⟩ := fld_append_iff (x := 0#21 ++ 1#1) (y := 0#8).mp imm
  obtain ⟨top, leave⟩ := fld_append_iff.mp top
  have leave : bit w 8 = true := fld_eq_ofBool_iff (b := true).mp leave
  rw [decodeS, decodeS5, fld_hi op, fld_lo op]
  refine dec_ok.mpr ⟨Bool.and_eq_true_iff.mpr ⟨beq_of_eq ((fld_eq_zero_iff 6 6 rfl).mpr ⟨d, a⟩), beq_of_eq top⟩, ?_⟩
  rw [leave]
  exact if_pos (beq_of_eq low)

theorem decodesS_trap {code : BitVec 16} : DecodesS (.trap g code) := by
  intro w _ h
  obtain ⟨rfl, op, d, a, imm⟩ := encSI_iff.mp (Option.some.inj h)
  obtain ⟨top, rfl⟩ := fld_cast_iff.mp imm
  have zero : fld w 16 26 = 0 := (fld_eq_zero_iff 6 20 rfl).mpr ⟨d, (fld_eq_zero_iff 6 14 rfl).mpr ⟨a, top⟩⟩
  rw [decodeS, decodeS5, fld_hi op, fld_lo op]
  exact dec_some_ok.mpr ⟨beq_of_eq zero, rfl⟩

theorem decodesS_svc {code : BitVec 16} : DecodesS (.svc g code) := by
  intro w _ h
  obtain ⟨rfl, op, d, a, imm⟩ := encSI_iff.mp (Option.some.inj h)
  obtain ⟨top, rfl⟩ := fld_cast_iff.mp imm
  have zero : fld w 16 26 = 0 := (fld_eq_zero_iff 6 20 rfl).mpr ⟨d, (fld_eq_zero_iff 6 14 rfl).mpr ⟨a, top⟩⟩
  rw [decodeS, decodeS5, fld_hi op, fld_lo op]
  exact dec_some_ok.mpr ⟨beq_of_eq zero, rfl⟩

theorem decodesS_waitm {data base : SReg} {disp : BitVec 16} {size : Size} {scope : Scope} {cc : Cond} :
    DecodesS (.waitm g data base disp size scope cc) := by
  intro w wf h
  obtain ⟨rfl, op, rfl, rfl, rfl, size, mid, ord, rfl, lat⟩ := encSL_iff.mp (Option.some.inj h)
  obtain ⟨top, code⟩ := fld_cast_iff.mp lat
  obtain rfl := Size.ofBits_eq size
  have acq : sOrd w = .acq := congrArg Order.ofBits ord
  rw [decodeS, decodeS5, fld_hi op, fld_lo op]
  refine dec_ok.mpr ⟨Bool.and_eq_true_iff.mpr ⟨congrArg not mid, beq_of_eq top⟩, ?_⟩
  exact Option.bind_eq_some_iff.mpr ⟨cc, Cond.ofBits_eq_some.mpr code, if_pos (Bool.and_eq_true_iff.mpr ⟨wf, beq_of_eq acq⟩)⟩

theorem decodesS_waitc {n : BitVec 3} {imm : BitVec 30} : DecodesS (.waitc g n a imm) := by
  intro w _ h
  obtain ⟨rfl, op, dest, rfl, rfl⟩ := encSI_iff.mp (Option.some.inj h)
  obtain ⟨top, rfl⟩ := fld_cast_iff.mp dest
  rw [decodeS, decodeS5, fld_hi op, fld_lo op]
  exact dec_some_ok.mpr ⟨beq_of_eq top, rfl⟩

theorem decodesS_grab {ord : Order} {scope : Scope} {lat : Lat} : DecodesS (.grab g d a ord scope lat) := by
  intro w wf h
  obtain ⟨rfl, op, rfl, rfl, disp, size, sign, ord, rfl, rfl⟩ := encSL_iff.mp (Option.some.inj h)
  obtain rfl := Order.ofBits_eq ord
  have zero : fld w 11 19 = 0 :=
    (fld_eq_zero_iff 16 3 rfl).mpr ⟨disp, (fld_eq_zero_iff 2 1 rfl).mpr ⟨size, fld_one_eq_zero_iff.mpr sign⟩⟩
  rw [decodeS, decodeS5, fld_hi op, fld_lo op]
  exact decWf_ok.mpr ⟨beq_of_eq zero, wf, rfl⟩

theorem decodesS_csrr {csr : BitVec 12} : DecodesS (.csrr g d csr) := by
  intro w wf h
  obtain ⟨rfl, op, rfl, a, rfl, imm⟩ := encSX_iff.mp (Option.some.inj h)
  have own : bit w 17 = false := fld_one_eq_zero_iff.mp ((fld_eq_zero_iff 1 17 rfl).mp imm).1
  rw [decodeS, decodeS6, fld_hi op, fld_lo op]
  exact (if_neg (Bool.eq_false_iff.mp own)).trans (decWf_ok.mpr ⟨Bool.and_eq_true_iff.mpr ⟨beq_of_eq imm, beq_of_eq a⟩, wf, rfl⟩)

theorem decodesS_csrrRemote {csr : BitVec 12} {lat : Lat} : DecodesS (.csrrRemote g d a csr lat) := by
  intro w wf h
  obtain ⟨rfl, op, rfl, rfl, rfl, imm⟩ := encSX_iff.mp (Option.some.inj h)
  simp only [fld_cast_iff, fld_append_iff] at imm
  obtain ⟨⟨remote, zero⟩, rfl⟩ := imm
  have remote : bit w 17 = true := fld_eq_ofBool_iff (b := true).mp remote
  rw [decodeS, decodeS6, fld_hi op, fld_lo op]
  exact (if_pos remote).trans (decWf_ok.mpr ⟨beq_of_eq zero, wf, rfl⟩)

theorem decodesS_csrw {csr : BitVec 12} : DecodesS (.csrw g a csr) := by
  intro w wf h
  obtain ⟨rfl, op, d, rfl, rfl, imm⟩ := encSX_iff.mp (Option.some.inj h)
  rw [decodeS, decodeS6, fld_hi op, fld_lo op]
  exact decWf_ok.mpr ⟨Bool.and_eq_true_iff.mpr ⟨beq_of_eq imm, beq_of_eq d⟩, wf, rfl⟩

theorem decodesS_csrs {csr : BitVec 12} : DecodesS (.csrs g a csr) := by
  intro w wf h
  obtain ⟨rfl, op, d, rfl, rfl, imm⟩ := encSX_iff.mp (Option.some.inj h)
  rw [decodeS, decodeS6, fld_hi op, fld_lo op]
  exact decWf_ok.mpr ⟨Bool.and_eq_true_iff.mpr ⟨beq_of_eq imm, beq_of_eq d⟩, wf, rfl⟩

theorem decodesS_csrc {csr : BitVec 12} : DecodesS (.csrc g a csr) := by
  intro w wf h
  obtain ⟨rfl, op, d, rfl, rfl, imm⟩ := encSX_iff.mp (Option.some.inj h)
  rw [decodeS, decodeS6, fld_hi op, fld_lo op]
  exact decWf_ok.mpr ⟨Bool.and_eq_true_iff.mpr ⟨beq_of_eq imm, beq_of_eq d⟩, wf, rfl⟩

theorem decodesS_tlbiAll : DecodesS (.tlbiAll g) := by
  intro w _ h
  obtain ⟨rfl, op, d, a, b, func, low⟩ := encSR_iff.mp (Option.some.inj h)
  obtain ⟨top, which⟩ := (fld_eq_zero_iff 6 2 rfl).mp func
  have zero : fld w 18 24 = 0 :=
    (fld_eq_zero_iff 6 18 rfl).mpr ⟨d, (fld_eq_zero_iff 6 12 rfl).mpr ⟨a, (fld_eq_zero_iff 6 6 rfl).mpr ⟨b, top⟩⟩⟩
  have which : fld w 16 2 = 0#2 := which
  rw [decodeS, decodeS6, fld_hi op, fld_lo op, which]
  exact dec_some_ok.mpr ⟨Bool.and_eq_true_iff.mpr ⟨beq_of_eq low, beq_of_eq zero⟩, rfl⟩

theorem decodesS_tlbiAsid : DecodesS (.tlbiAsid g a) := by
  intro w _ h
  obtain ⟨rfl, op, d, rfl, b, func, low⟩ := encSR_iff.mp (Option.some.inj h)
  obtain ⟨top, which⟩ := fld_append_iff (x := 0#6) (y := 1#2).mp func
  have zero : fld w 18 12 = 0 := (fld_eq_zero_iff 6 6 rfl).mpr ⟨b, top⟩
  rw [decodeS, decodeS6, fld_hi op, fld_lo op, which]
  exact dec_some_ok.mpr ⟨Bool.and_eq_true_iff.mpr ⟨Bool.and_eq_true_iff.mpr ⟨beq_of_eq low, beq_of_eq zero⟩, beq_of_eq d⟩, rfl⟩

theorem decodesS_tlbiPage : DecodesS (.tlbiPage g a b) := by
  intro w _ h
  obtain ⟨rfl, op, d, rfl, rfl, func, low⟩ := encSR_iff.mp (Option.some.inj h)
  obtain ⟨top, which⟩ := fld_append_iff (x := 0#6) (y := 2#2).mp func
  rw [decodeS, decodeS6, fld_hi op, fld_lo op, which]
  exact dec_some_ok.mpr ⟨Bool.and_eq_true_iff.mpr ⟨Bool.and_eq_true_iff.mpr ⟨beq_of_eq low, beq_of_eq top⟩, beq_of_eq d⟩, rfl⟩

theorem decodesS_cinv {inv : Bool} : DecodesS (.cinv g a b inv) := by
  intro w _ h
  obtain ⟨rfl, op, d, rfl, rfl, func, low⟩ := encSR_iff.mp (Option.some.inj h)
  simp only [fld_cast_iff, fld_eq_ofBool_iff] at func
  obtain ⟨top, rfl⟩ := func
  rw [decodeS, decodeS6, fld_hi op, fld_lo op]
  exact dec_some_ok.mpr ⟨Bool.and_eq_true_iff.mpr ⟨Bool.and_eq_true_iff.mpr ⟨beq_of_eq low, beq_of_eq top⟩, beq_of_eq d⟩, rfl⟩

theorem decodesS_hld {h : HReg} {disp : BitVec 16} {ord : Order} {scope : Scope} : DecodesS (.hld g h a disp ord scope) := by
  intro w wf enc
  obtain ⟨rfl, op, dest, rfl, rfl, size, sign, ord, rfl, lat⟩ := encSL_iff.mp (Option.some.inj enc)
  obtain ⟨top, rfl⟩ := fld_cast_iff.mp dest
  have top : bit w 41 = false := fld_one_eq_zero_iff.mp top
  have mid : fld w 11 3 = 0 := (fld_eq_zero_iff 2 1 rfl).mpr ⟨size, fld_one_eq_zero_iff.mpr sign⟩
  obtain rfl := Order.ofBits_eq ord
  rw [decodeS, decodeS7, fld_hi op, fld_lo op]
  exact decWf_ok.mpr ⟨Bool.and_eq_true_iff.mpr ⟨Bool.and_eq_true_iff.mpr ⟨congrArg not top, beq_of_eq mid⟩, beq_of_eq lat⟩, wf, rfl⟩

theorem decodesS_hst {h : HReg} {disp : BitVec 16} {ord : Order} {scope : Scope} : DecodesS (.hst g h a disp ord scope) := by
  intro w wf enc
  obtain ⟨rfl, op, dest, rfl, rfl, size, sign, ord, rfl, lat⟩ := encSL_iff.mp (Option.some.inj enc)
  obtain ⟨top, rfl⟩ := fld_cast_iff.mp dest
  have top : bit w 41 = false := fld_one_eq_zero_iff.mp top
  have mid : fld w 11 3 = 0 := (fld_eq_zero_iff 2 1 rfl).mpr ⟨size, fld_one_eq_zero_iff.mpr sign⟩
  obtain rfl := Order.ofBits_eq ord
  rw [decodeS, decodeS7, fld_hi op, fld_lo op]
  exact decWf_ok.mpr ⟨Bool.and_eq_true_iff.mpr ⟨Bool.and_eq_true_iff.mpr ⟨congrArg not top, beq_of_eq mid⟩, beq_of_eq lat⟩, wf, rfl⟩

theorem shZero_of_fields {w : BitVec 56} (top : fld w 9 3 = 0) (scope : fld w 6 3 = 0) (low : fld w 0 6 = 0) : shZero w = true :=
  beq_of_eq ((fld_eq_zero_iff 3 9 rfl).mpr ⟨top, (fld_eq_zero_iff 3 6 rfl).mpr ⟨scope, low⟩⟩)

theorem decodesS_hset {h : HReg} {f : HField} : DecodesS (.hset g h a f) := by
  intro w _ enc
  obtain ⟨rfl, op, d, rfl, rfl, hB, code, top, scope, low⟩ := encSH_iff.mp (Option.some.inj enc)
  rw [decodeS, decodeS7, fld_hi op, fld_lo op]
  refine dec_ok.mpr ⟨?_, Option.map_eq_some_iff.mpr ⟨f, HField.ofBits_eq_some.mpr code, rfl⟩⟩
  simp only [shZero_of_fields top scope low, Bool.and_eq_true, beq_iff_eq]
  exact ⟨⟨trivial, d⟩, hB⟩

theorem decodesS_hget {h : HReg} {f : HField} : DecodesS (.hget g d h f) := by
  intro w _ enc
  obtain ⟨rfl, op, rfl, a, rfl, hB, code, top, scope, low⟩ := encSH_iff.mp (Option.some.inj enc)
  rw [decodeS, decodeS7, fld_hi op, fld_lo op]
  refine dec_ok.mpr ⟨?_, Option.map_eq_some_iff.mpr ⟨f, HField.ofBits_eq_some.mpr code, rfl⟩⟩
  simp only [shZero_of_fields top scope low, Bool.and_eq_true, beq_iff_eq]
  exact ⟨⟨trivial, a⟩, hB⟩

/-- A bit of fn in format SH that stands alone above it. -/
theorem fn_zero_iff {w : BitVec 56} : fld w 12 8 = 0 ↔ fld w 13 7 = 0 ∧ bit w 12 = false := by
  rw [fld_eq_zero_iff 7 1 rfl]
  exact and_congr_right fun _ => fld_one_eq_zero_iff
theorem fn_one_iff {w : BitVec 56} : fld w 12 8 = 1 ↔ fld w 13 7 = 0 ∧ bit w 12 = true :=
  (fld_append_iff (x := 0#7) (y := 1#1)).trans (and_congr_right fun _ => fld_eq_ofBool_iff (b := true))

theorem decodesS_hadvHead {h : HReg} : DecodesS (.hadvHead g h a) := by
  intro w _ enc
  obtain ⟨rfl, op, d, rfl, rfl, hB, func, top, scope, low⟩ := encSH_iff.mp (Option.some.inj enc)
  obtain ⟨fn, head⟩ := fn_zero_iff.mp func
  rw [decodeS, decodeS7, fld_hi op, fld_lo op]
  refine dec_ok.mpr ⟨?_, by rw [head]; rfl⟩
  simp only [shZero_of_fields top scope low, Bool.and_eq_true, beq_iff_eq]
  exact ⟨⟨⟨trivial, d⟩, hB⟩, fn⟩

theorem decodesS_hadvTail {h : HReg} : DecodesS (.hadvTail g h a) := by
  intro w _ enc
  obtain ⟨rfl, op, d, rfl, rfl, hB, func, top, scope, low⟩ := encSH_iff.mp (Option.some.inj enc)
  obtain ⟨fn, tail⟩ := fn_one_iff.mp func
  rw [decodeS, decodeS7, fld_hi op, fld_lo op]
  refine dec_ok.mpr ⟨?_, by rw [tail]; rfl⟩
  simp only [shZero_of_fields top scope low, Bool.and_eq_true, beq_iff_eq]
  exact ⟨⟨⟨trivial, d⟩, hB⟩, fn⟩

theorem decodesS_hwait {h : HReg} : DecodesS (.hwait g h) := by
  intro w _ enc
  obtain ⟨rfl, op, d, a, rfl, hB, fn, top, scope, low⟩ := encSH_iff.mp (Option.some.inj enc)
  rw [decodeS, decodeS7, fld_hi op, fld_lo op]
  refine dec_some_ok.mpr ⟨?_, rfl⟩
  simp only [shZero_of_fields top scope low, Bool.and_eq_true, beq_iff_eq]
  exact ⟨⟨⟨⟨trivial, d⟩, a⟩, hB⟩, fn⟩

theorem decodesS_bind {p : PortNo} {h : HReg} {wr peek : Bool} : DecodesS (.bind g p h wr peek) := by
  intro w wf enc
  obtain ⟨rfl, op, dest, a, rfl, hB, func, top, scope, low⟩ := encSH_iff.mp (Option.some.inj enc)
  obtain ⟨d, rfl⟩ := fld_cast_iff.mp dest
  have d : bit w 41 = false := fld_one_eq_zero_iff.mp d
  simp only [fld_cast_iff, fld_append_iff, fld_eq_ofBool_iff] at func
  obtain ⟨⟨fn, rfl⟩, rfl⟩ := func
  rw [decodeS, decodeS7, fld_hi op, fld_lo op]
  refine decWf_ok.mpr ⟨?_, wf, rfl⟩
  simp only [shZero_of_fields top scope low, Bool.and_eq_true, Bool.not_eq_true', beq_iff_eq]
  exact ⟨⟨⟨⟨trivial, d⟩, a⟩, hB⟩, fn⟩

theorem decodesS_unbindPort {p : PortNo} : DecodesS (.unbindPort g p) := by
  intro w _ enc
  obtain ⟨rfl, op, dest, a, hA, hB, func, top, scope, low⟩ := encSH_iff.mp (Option.some.inj enc)
  obtain ⟨d, rfl⟩ := fld_cast_iff.mp dest
  have d : bit w 41 = false := fld_one_eq_zero_iff.mp d
  obtain ⟨fn, port⟩ := fn_zero_iff.mp func
  rw [decodeS, decodeS7, fld_hi op, fld_lo op]
  refine (if_neg (Bool.eq_false_iff.mp port)).trans (dec_some_ok.mpr ⟨?_, rfl⟩)
  simp only [shZero_of_fields top scope low, Bool.and_eq_true, Bool.not_eq_true', beq_iff_eq]
  exact ⟨⟨⟨⟨⟨trivial, d⟩, a⟩, hA⟩, hB⟩, fn⟩

theorem decodesS_unbindHandle {h : HReg} : DecodesS (.unbindHandle g h) := by
  intro w _ enc
  obtain ⟨rfl, op, d, a, rfl, hB, func, top, scope, low⟩ := encSH_iff.mp (Option.some.inj enc)
  obtain ⟨fn, handle⟩ := fn_one_iff.mp func
  rw [decodeS, decodeS7, fld_hi op, fld_lo op]
  refine (if_pos handle).trans (dec_some_ok.mpr ⟨?_, rfl⟩)
  simp only [shZero_of_fields top scope low, Bool.and_eq_true, beq_iff_eq]
  exact ⟨⟨⟨⟨trivial, d⟩, a⟩, hB⟩, fn⟩

theorem decodesS_mpset {n : BitVec 3} : DecodesS (.mpset g n a) := by
  intro w _ h
  obtain ⟨rfl, op, dest, rfl, b, func, low⟩ := encSR_iff.mp (Option.some.inj h)
  obtain ⟨top, rfl⟩ := fld_cast_iff.mp dest
  have zero : fld w 0 30 = 0 := (fld_eq_zero_iff 6 24 rfl).mpr ⟨b, (fld_eq_zero_iff 8 16 rfl).mpr ⟨func, low⟩⟩
  rw [decodeS, decodeS7, fld_hi op, fld_lo op]
  exact dec_some_ok.mpr ⟨Bool.and_eq_true_iff.mpr ⟨beq_of_eq top, beq_of_eq zero⟩, rfl⟩

theorem decodesS_acq {n : BitVec 3} : DecodesS (.acq g n a) := by
  intro w _ h
  obtain ⟨rfl, op, dest, rfl, b, func, low⟩ := encSR_iff.mp (Option.some.inj h)
  obtain ⟨top, rfl⟩ := fld_cast_iff.mp dest
  have zero : fld w 0 30 = 0 := (fld_eq_zero_iff 6 24 rfl).mpr ⟨b, (fld_eq_zero_iff 8 16 rfl).mpr ⟨func, low⟩⟩
  rw [decodeS, decodeS7, fld_hi op, fld_lo op]
  exact dec_some_ok.mpr ⟨Bool.and_eq_true_iff.mpr ⟨beq_of_eq top, beq_of_eq zero⟩, rfl⟩

theorem decodesS_arel {k : BitVec 3} : DecodesS (.arel g k) := by
  intro w _ h
  obtain ⟨rfl, op, dest, a, b, func, low⟩ := encSR_iff.mp (Option.some.inj h)
  obtain ⟨top, rfl⟩ := fld_cast_iff.mp dest
  have zero : fld w 0 36 = 0 :=
    (fld_eq_zero_iff 6 30 rfl).mpr ⟨a, (fld_eq_zero_iff 6 24 rfl).mpr ⟨b, (fld_eq_zero_iff 8 16 rfl).mpr ⟨func, low⟩⟩⟩
  rw [decodeS, decodeS7, fld_hi op, fld_lo op]
  exact dec_some_ok.mpr ⟨Bool.and_eq_true_iff.mpr ⟨beq_of_eq top, beq_of_eq zero⟩, rfl⟩

theorem decodesS_averRead {k : BitVec 3} : DecodesS (.averRead g d k) := by
  intro w _ h
  obtain ⟨rfl, op, rfl, a, imm⟩ := encSI_iff.mp (Option.some.inj h)
  obtain ⟨top, rfl⟩ := fld_cast_iff.mp imm
  obtain ⟨top, reads⟩ := (fld_eq_zero_iff 26 1 rfl).mp top
  have reads : bit w 3 = false := fld_one_eq_zero_iff.mp reads
  rw [decodeS, decodeS7, fld_hi op, fld_lo op]
  exact (if_neg (Bool.eq_false_iff.mp reads)).trans (dec_some_ok.mpr ⟨Bool.and_eq_true_iff.mpr ⟨beq_of_eq a, beq_of_eq top⟩, rfl⟩)

theorem decodesS_averWait {k : BitVec 3} {v : BitVec 8} : DecodesS (.averWait g k v) := by
  intro w _ h
  obtain ⟨rfl, op, d, a, imm⟩ := encSI_iff.mp (Option.some.inj h)
  simp only [fld_cast_iff, fld_append_iff] at imm
  obtain ⟨⟨⟨top, rfl⟩, waits⟩, rfl⟩ := imm
  have waits : bit w 3 = true := fld_eq_ofBool_iff (b := true).mp waits
  rw [decodeS, decodeS7, fld_hi op, fld_lo op]
  refine (if_pos waits).trans (dec_some_ok.mpr ⟨?_, rfl⟩)
  simp only [Bool.and_eq_true, beq_iff_eq]
  exact ⟨⟨d, a⟩, top⟩

theorem decodesS_vpub {h : HReg} {scope : Scope} : DecodesS (.vpub g h scope) := by
  intro w _ enc
  obtain ⟨rfl, op, d, a, rfl, hB, fn, top, rfl, low⟩ := encSH_iff.mp (Option.some.inj enc)
  rw [decodeS, decodeS8, fld_hi op, fld_lo op]
  refine dec_some_ok.mpr ⟨?_, rfl⟩
  simp only [Bool.and_eq_true, beq_iff_eq]
  exact ⟨⟨⟨⟨⟨d, a⟩, hB⟩, fn⟩, top⟩, low⟩

theorem decodesS_vbind {hd hs : HReg} : DecodesS (.vbind g hd hs a) := by
  intro w _ enc
  obtain ⟨rfl, op, d, rfl, rfl, rfl, fn, top, scope, low⟩ := encSH_iff.mp (Option.some.inj enc)
  rw [decodeS, decodeS8, fld_hi op, fld_lo op]
  refine dec_some_ok.mpr ⟨?_, rfl⟩
  simp only [shZero_of_fields top scope low, Bool.and_eq_true, beq_iff_eq]
  exact ⟨⟨trivial, d⟩, fn⟩

theorem decodesS_tapx {n : BitVec 4} {post : Bool} : DecodesS (.tapx g d n a b post) := by
  intro w _ h
  obtain ⟨rfl, op, rfl, rfl, rfl, func, low⟩ := encSR_iff.mp (Option.some.inj h)
  simp only [fld_cast_iff, fld_append_iff, fld_eq_ofBool_iff] at func
  obtain ⟨⟨top, rfl⟩, rfl⟩ := func
  rw [decodeS, decodeS8, fld_hi op, fld_lo op]
  exact dec_some_ok.mpr ⟨Bool.and_eq_true_iff.mpr ⟨beq_of_eq low, beq_of_eq top⟩, rfl⟩

theorem decodesS_sqnode {sl nn : Bool} : DecodesS (.sqnode g d a b sl nn) := by
  intro w _ h
  obtain ⟨rfl, op, rfl, rfl, rfl, func, low⟩ := encSR_iff.mp (Option.some.inj h)
  simp only [fld_cast_iff, fld_append_iff, fld_eq_ofBool_iff] at func
  obtain ⟨⟨top, rfl⟩, rfl⟩ := func
  rw [decodeS, decodeS9, fld_hi op, fld_lo op]
  exact dec_some_ok.mpr ⟨Bool.and_eq_true_iff.mpr ⟨beq_of_eq low, beq_of_eq top⟩, rfl⟩

theorem decodesS_sqaccMask : DecodesS (.sqaccMask g d a b) := by
  intro w _ h
  obtain ⟨rfl, op, rfl, rfl, rfl, func, low⟩ := encSR_iff.mp (Option.some.inj h)
  obtain ⟨top, mask⟩ := (fld_eq_zero_iff 7 1 rfl).mp func
  have mask : bit w 16 = false := fld_one_eq_zero_iff.mp mask
  rw [decodeS, decodeS9, fld_hi op, fld_lo op]
  exact dec_ok.mpr ⟨Bool.and_eq_true_iff.mpr ⟨beq_of_eq low, beq_of_eq top⟩, by rw [mask]; rfl⟩

theorem decodesS_sqaccAccept : DecodesS (.sqaccAccept g d a b) := by
  intro w _ h
  obtain ⟨rfl, op, rfl, rfl, rfl, func, low⟩ := encSR_iff.mp (Option.some.inj h)
  obtain ⟨top, accept⟩ := fld_append_iff (x := 0#7) (y := 1#1).mp func
  have accept : bit w 16 = true := fld_eq_ofBool_iff (b := true).mp accept
  rw [decodeS, decodeS9, fld_hi op, fld_lo op]
  exact dec_ok.mpr ⟨Bool.and_eq_true_iff.mpr ⟨beq_of_eq low, beq_of_eq top⟩, by rw [accept]; rfl⟩

/-- The operation of SQSET is the low three bits of func. -/
theorem decodesS_sqset {k : BitVec 6 → BitVec 6 → BitVec 6 → BitVec 6 → Instr} {n : BitVec 3}
    (enc : encode (k g d a b) = some (encSR g 0x95 d a b (0#5 ++ n)))
    (arm : ∀ {w : BitVec 56}, fld w 42 8 = 0x95 → fld w 16 3 = n →
      decodeS w = dec (fld w 0 16 == 0 && fld w 19 5 == 0) (some (k (sG w) (sD w) (sA w) (sB w)))) : DecodesS (k g d a b) := by
  intro w _ h
  obtain ⟨rfl, op, rfl, rfl, rfl, func, low⟩ := encSR_iff.mp (Option.some.inj (enc.symm.trans h))
  obtain ⟨top, which⟩ := fld_append_iff (x := 0#5) (y := n).mp func
  exact (arm op which).trans (dec_some_ok.mpr ⟨Bool.and_eq_true_iff.mpr ⟨beq_of_eq low, beq_of_eq top⟩, rfl⟩)

theorem decodesS_ecmarkRead : DecodesS (.ecmarkRead g d) := by
  intro w _ h
  obtain ⟨rfl, op, rfl, a, b, func, low⟩ := encSR_iff.mp (Option.some.inj h)
  have zero : fld w 0 36 = 0 :=
    (fld_eq_zero_iff 6 30 rfl).mpr ⟨a, (fld_eq_zero_iff 6 24 rfl).mpr ⟨b, (fld_eq_zero_iff 8 16 rfl).mpr ⟨func, low⟩⟩⟩
  rw [decodeS, decodeS9, fld_hi op, fld_lo op, sFunc, func]
  exact dec_some_ok.mpr ⟨beq_of_eq zero, rfl⟩

theorem decodesS_ecmarkMark : DecodesS (.ecmarkMark g d a) := by
  intro w _ h
  obtain ⟨rfl, op, rfl, rfl, b, func, low⟩ := encSR_iff.mp (Option.some.inj h)
  rw [decodeS, decodeS9, fld_hi op, fld_lo op, sFunc, func]
  exact dec_some_ok.mpr ⟨Bool.and_eq_true_iff.mpr ⟨beq_of_eq low, beq_of_eq b⟩, rfl⟩

end

section
variable {k : VSlot} {g : Guard} {t : VType} {d : PortNo} {a b : VOpd} {o : BitVec 5}

/-- The word that the encoder gives the instruction in a vector slot decodes to it. -/
def DecodesV (i : Instr) : Prop := ∀ k w, i.wf = true → encode i = some (.v k w) → decodeV k w = .ok i

theorem decodesV_ab {f : VSlot → Guard → VType → PortNo → VOpd → VOpd → Instr}
    (enc : encode (f k g t d a b) = some (encV k g o t d a b 0)) (arm : ∀ {w}, fld w 25 5 = o → decodeV k w = decVAB k w f) :
    DecodesV (f k g t d a b) := by
  intro _ w wf h
  obtain ⟨rfl, rfl, op, ty, rfl, rfl, rfl, c⟩ := encV_iff.mp (Option.some.inj (enc.symm.trans h))
  obtain rfl := VType.ofBits_eq ty
  exact (arm op).trans (decWf_ok.mpr ⟨beq_of_eq c, wf, rfl⟩)

theorem decodesV_a {f : VSlot → Guard → VType → PortNo → VOpd → Instr}
    (enc : encode (f k g t d a) = some (encV k g o t d a 0 0)) (arm : ∀ {w}, fld w 25 5 = o → decodeV k w = decVA k w f) :
    DecodesV (f k g t d a) := by
  intro _ w wf h
  obtain ⟨rfl, rfl, op, ty, rfl, rfl, b, c⟩ := encV_iff.mp (Option.some.inj (enc.symm.trans h))
  obtain rfl := VType.ofBits_eq ty
  exact (arm op).trans (decWf_ok.mpr ⟨beq_of_eq ((fld_eq_zero_iff 6 5 rfl).mpr ⟨b, c⟩), wf, rfl⟩)

theorem decodesV_vnop : DecodesV (.vnop k g) := by
  intro _ w _ h
  obtain ⟨rfl, rfl, op, t, d, a, b, c⟩ := encV_iff.mp (Option.some.inj h)
  have zero : fld w 0 25 = 0 := (fld_eq_zero_iff 3 22 rfl).mpr ⟨t, (fld_eq_zero_iff 5 17 rfl).mpr ⟨d,
    (fld_eq_zero_iff 6 11 rfl).mpr ⟨a, (fld_eq_zero_iff 6 5 rfl).mpr ⟨b, c⟩⟩⟩⟩
  rw [decodeV, op]
  exact dec_some_ok.mpr ⟨beq_of_eq zero, rfl⟩

theorem decodesV_vfma {c : BitVec 5} : DecodesV (.vfma k g t d a b c) := by
  intro _ w _ h
  obtain ⟨rfl, rfl, op, ty, rfl, rfl, rfl, rfl⟩ := encV_iff.mp (Option.some.inj h)
  obtain rfl := VType.ofBits_eq ty
  rw [decodeV, op]
  rfl

theorem decodesV_vcvt {rm : RSel} {src : VType} : DecodesV (.vcvt k g t d a rm src) := by
  intro _ w _ h
  obtain ⟨rfl, rfl, op, ty, rfl, rfl, b, c⟩ := encV_iff.mp (Option.some.inj h)
  obtain rfl := VType.ofBits_eq ty
  obtain ⟨zero, code⟩ := fld_cast_iff.mp b
  obtain ⟨top, source⟩ := fld_cast_iff.mp c
  obtain rfl := VType.ofBits_eq source
  have upper : ∀ x : BitVec 5, fld x 3 2 = 0#2 → x < 8#5 := by decide
  have small : vC w < 8#5 := upper _ ((fld_fld (a := 0) (n := 5) (by decide)).trans top)
  rw [decodeV, op]
  exact dec_ok.mpr ⟨beq_of_eq zero, Option.bind_eq_some_iff.mpr ⟨rm, RSel.ofBits_eq_some.mpr code, if_pos small⟩⟩

theorem decodesV_vcmp {cc : Cond} : DecodesV (.vcmp k g t d a b cc) := by
  intro _ w wf h
  obtain ⟨rfl, rfl, op, ty, rfl, rfl, rfl, c⟩ := encV_iff.mp (Option.some.inj h)
  obtain rfl := VType.ofBits_eq ty
  obtain ⟨top, code⟩ := fld_cast_iff.mp c
  have top : bit w 4 = false := fld_one_eq_zero_iff.mp top
  rw [decodeV, op]
  refine dec_ok.mpr ⟨rfl, ?_⟩
  rw [top]
  exact bindWf_ok.mpr ⟨cc, Cond.ofBits_eq_some.mpr code, wf, rfl⟩

theorem decodesV_vtopk {n : BitVec 6} {idx : Bool} : DecodesV (.vtopk k g t d a n idx) := by
  intro _ w _ h
  obtain ⟨rfl, rfl, op, ty, rfl, rfl, rfl, c⟩ := encV_iff.mp (Option.some.inj h)
  obtain rfl := VType.ofBits_eq ty
  obtain ⟨top, index⟩ := fld_cast_iff.mp c
  obtain rfl := fld_eq_ofBool_iff.mp index
  rw [decodeV, op]
  exact dec_some_ok.mpr ⟨beq_of_eq top, rfl⟩

theorem decodesV_vrng : DecodesV (.vrng k g t d) := by
  intro _ w _ h
  obtain ⟨rfl, rfl, op, ty, rfl, a, b, c⟩ := encV_iff.mp (Option.some.inj h)
  obtain rfl := VType.ofBits_eq ty
  have zero : fld w 0 17 = 0 := (fld_eq_zero_iff 6 11 rfl).mpr ⟨a, (fld_eq_zero_iff 6 5 rfl).mpr ⟨b, c⟩⟩
  rw [decodeV, op]
  exact dec_some_ok.mpr ⟨beq_of_eq zero, rfl⟩

end

section
variable {g : Guard} {c : CSlot} {hs hd : HReg} {n : BitVec 3}

theorem decodesM_mnop {w : BitVec 32} (h : encode (.mnop g) = some (.m w)) : decodeM w = .ok (.mnop g) := by
  obtain ⟨rfl, z⟩ := cast_append_eq_iff.mp (Enc.m.inj (Option.some.inj h))
  obtain ⟨op, zero⟩ := (fld_eq_zero_iff 2 24 rfl).mp z
  rw [decodeM, show fld w 24 2 = 0#2 from op]
  exact dec_some_ok.mpr ⟨beq_of_eq zero, rfl⟩

theorem decodesM_mcall {w : BitVec 32} {r e : BitVec 8} {pop bump ignv : Bool} (h : encode (.mcall g r e n pop bump ignv) = some (.m w)) :
    decodeM w = .ok (.mcall g r e n pop bump ignv) := by
  have fields := cast_append_eq_iff.mp (Enc.m.inj (Option.some.inj h))
  simp only [fld_append_iff, fld_eq_ofBool_iff] at fields
  obtain ⟨⟨⟨⟨⟨⟨⟨⟨rfl, op⟩, rfl⟩, rfl⟩, rfl⟩, zero⟩, rfl⟩, rfl⟩, rfl⟩ := fields
  rw [decodeM, show fld w 24 2 = 1#2 from op]
  exact dec_some_ok.mpr ⟨beq_of_eq zero, rfl⟩

/-- The word that the encoder gives the instruction in a copy slot decodes to it. -/
def DecodesC (i : Instr) : Prop := ∀ c w, i.wf = true → encode i = some (.c c w) → decodeC c w = .ok i

theorem decodesC_cnop : DecodesC (.cnop c g) := by
  intro _ w _ h
  obtain ⟨rfl, rfl, op, s, d, n, mode⟩ := encC_iff.mp (Option.some.inj h)
  have zero : fld w 0 21 = 0 := (fld_eq_zero_iff 5 16 rfl).mpr ⟨s, (fld_eq_zero_iff 5 11 rfl).mpr ⟨d, (fld_eq_zero_iff 3 8 rfl).mpr ⟨n, mode⟩⟩⟩
  rw [decodeC, op]
  exact dec_some_ok.mpr ⟨beq_of_eq zero, rfl⟩

theorem decodesC_cpy {ar nsat cons : Bool} {rcn : BitVec 4} : DecodesC (.cpy c g hs hd n ar rcn nsat cons) := by
  intro _ w _ h
  obtain ⟨rfl, rfl, op, rfl, rfl, rfl, mode⟩ := encC_iff.mp (Option.some.inj h)
  simp only [fld_cast_iff, fld_append_iff, fld_eq_ofBool_iff] at mode
  obtain ⟨⟨⟨⟨rfl, rfl⟩, rfl⟩, rfl⟩, zero⟩ := mode
  rw [decodeC, op]
  exact dec_some_ok.mpr ⟨congrArg not (fld_one_eq_zero_iff.mp zero), rfl⟩

theorem decodesC_cpyr {ar : Bool} {aop : AtomOp} : DecodesC (.cpyr c g hs hd n ar aop) := by
  intro _ w wf h
  obtain ⟨rfl, rfl, op, rfl, rfl, rfl, mode⟩ := encC_iff.mp (Option.some.inj h)
  obtain ⟨⟨rfl, zero⟩, code⟩ := copyMode_iff.mp mode
  rw [decodeC, op]
  exact dec_ok.mpr ⟨beq_of_eq zero, bindWf_ok.mpr ⟨aop, AtomOp.ofBits_eq_some.mpr code, wf, rfl⟩⟩

theorem decodesC_gath {ar : Bool} {hx : HReg} : DecodesC (.gath c g hs hd n ar hx) := by
  intro _ w _ h
  obtain ⟨rfl, rfl, op, rfl, rfl, rfl, mode⟩ := encC_iff.mp (Option.some.inj h)
  obtain ⟨⟨rfl, zero⟩, rfl⟩ := copyMode_iff.mp mode
  rw [decodeC, op]
  exact dec_some_ok.mpr ⟨beq_of_eq zero, rfl⟩

theorem decodesC_scat {ar : Bool} {hx : HReg} : DecodesC (.scat c g hs hd n ar hx) := by
  intro _ w _ h
  obtain ⟨rfl, rfl, op, rfl, rfl, rfl, mode⟩ := encC_iff.mp (Option.some.inj h)
  obtain ⟨⟨rfl, zero⟩, rfl⟩ := copyMode_iff.mp mode
  rw [decodeC, op]
  exact dec_some_ok.mpr ⟨beq_of_eq zero, rfl⟩

theorem decodesC_chain {ch : BitVec 3} : DecodesC (.chain c g hs n ch) := by
  intro _ w _ h
  obtain ⟨rfl, rfl, op, rfl, d, rfl, mode⟩ := encC_iff.mp (Option.some.inj h)
  obtain ⟨zero, rfl⟩ := fld_cast_iff.mp mode
  rw [decodeC, op]
  exact dec_some_ok.mpr ⟨Bool.and_eq_true_iff.mpr ⟨beq_of_eq d, beq_of_eq zero⟩, rfl⟩

theorem decodesC_bdrv {mask : BitVec 8} : DecodesC (.bdrv c g hs n mask) := by
  intro _ w _ h
  obtain ⟨rfl, rfl, op, rfl, d, rfl, rfl⟩ := encC_iff.mp (Option.some.inj h)
  rw [decodeC, op]
  exact dec_some_ok.mpr ⟨beq_of_eq d, rfl⟩

theorem decodesC_blat {pos : BitVec 3} : DecodesC (.blat c g hd n pos) := by
  intro _ w _ h
  obtain ⟨rfl, rfl, op, s, rfl, rfl, mode⟩ := encC_iff.mp (Option.some.inj h)
  obtain ⟨zero, rfl⟩ := fld_cast_iff.mp mode
  rw [decodeC, op]
  exact dec_some_ok.mpr ⟨Bool.and_eq_true_iff.mpr ⟨beq_of_eq s, beq_of_eq zero⟩, rfl⟩

theorem decodesC_wstr {wb1 : Bool} {mask : BitVec 2} : DecodesC (.wstr c g hs hd n wb1 mask) := by
  intro _ w wf h
  obtain ⟨rfl, rfl, op, rfl, rfl, rfl, mode⟩ := encC_iff.mp (Option.some.inj h)
  simp only [fld_cast_iff, fld_append_iff, fld_eq_ofBool_iff] at mode
  obtain ⟨⟨zero, rfl⟩, rfl⟩ := mode
  rw [decodeC, op]
  exact decWf_ok.mpr ⟨beq_of_eq zero, wf, rfl⟩

theorem decodesC_kvcp {ar : Bool} : DecodesC (.kvcp c g hs hd n ar) := by
  intro _ w _ h
  obtain ⟨rfl, rfl, op, rfl, rfl, rfl, mode⟩ := encC_iff.mp (Option.some.inj h)
  obtain ⟨top, zero⟩ := fld_cast_iff.mp mode
  obtain rfl := fld_eq_ofBool_iff.mp top
  rw [decodeC, op]
  exact dec_some_ok.mpr ⟨beq_of_eq zero, rfl⟩

theorem decodesC_cnta {inc : BitVec 8} : DecodesC (.cnta c g n inc) := by
  intro _ w _ h
  obtain ⟨rfl, rfl, op, s, d, rfl, rfl⟩ := encC_iff.mp (Option.some.inj h)
  rw [decodeC, op]
  exact dec_some_ok.mpr ⟨beq_of_eq ((fld_eq_zero_iff 5 5 rfl).mpr ⟨s, d⟩), rfl⟩

theorem decodesC_logf {ar keep : Bool} {m : BitVec 6} : DecodesC (.logf c g hs hd n ar keep m) := by
  intro _ w _ h
  obtain ⟨rfl, rfl, op, rfl, rfl, rfl, mode⟩ := encC_iff.mp (Option.some.inj h)
  obtain ⟨⟨rfl, keeps⟩, rfl⟩ := copyMode_iff.mp mode
  obtain rfl := fld_eq_ofBool_iff.mp keeps
  rw [decodeC, op]
  rfl

end

section
variable {g : Guard} {d a : PortNo} {n : BitVec 2} {l : VSlot}

/-- The word that the encoder gives the instruction in slot X decodes to it. -/
def DecodesX (i : Instr) : Prop := ∀ w, i.wf = true → encode i = some (.x w) → decodeX w = .ok i

theorem decodesX_xnop : DecodesX (.xnop g) := by
  intro w _ h
  obtain ⟨rfl, op, d, a, mode⟩ := encX_iff.mp (Option.some.inj h)
  have zero : fld w 0 14 = 0 := (fld_eq_zero_iff 5 9 rfl).mpr ⟨d, (fld_eq_zero_iff 5 4 rfl).mpr ⟨a, mode⟩⟩
  rw [decodeX, op]
  exact dec_some_ok.mpr ⟨beq_of_eq zero, rfl⟩

theorem decodesX_xpose : DecodesX (.xpose g d a n) := by
  intro w wf h
  obtain ⟨rfl, op, rfl, rfl, mode⟩ := encX_iff.mp (Option.some.inj h)
  obtain ⟨zero, rfl⟩ := fld_cast_iff.mp mode
  rw [decodeX, op]
  exact decWf_ok.mpr ⟨beq_of_eq zero, wf, rfl⟩

theorem decodesX_xcvt {pair : BitVec 3} {hi : Bool} : DecodesX (.xcvt g d a pair hi) := by
  intro w _ h
  obtain ⟨rfl, op, rfl, rfl, mode⟩ := encX_iff.mp (Option.some.inj h)
  obtain ⟨half, rfl⟩ := fld_cast_iff.mp mode
  obtain rfl := fld_eq_ofBool_iff.mp half
  rw [decodeX, op]
  rfl

theorem decodesX_xexp : DecodesX (.xexp g d a l n) := by
  intro w wf h
  obtain ⟨rfl, op, rfl, rfl, mode⟩ := encX_iff.mp (Option.some.inj h)
  obtain ⟨⟨lane, zero⟩, rfl⟩ := laneMode_iff.mp mode
  obtain rfl := VSlot.ofBit_eq lane
  rw [decodeX, op]
  exact decWf_ok.mpr ⟨congrArg not zero, wf, rfl⟩

theorem decodesX_xpack : DecodesX (.xpack g d a l n) := by
  intro w wf h
  obtain ⟨rfl, op, rfl, rfl, mode⟩ := encX_iff.mp (Option.some.inj h)
  obtain ⟨⟨lane, zero⟩, rfl⟩ := laneMode_iff.mp mode
  obtain rfl := VSlot.ofBit_eq lane
  rw [decodeX, op]
  exact decWf_ok.mpr ⟨congrArg not zero, wf, rfl⟩

end

theorem decodesHeader {t : BitVec 3} {w : BitVec 8} (h : encode (.oppRequest t) = some (.header w)) :
    decodeHeader w = .ok (some (.oppRequest t)) := by
  obtain ⟨upper, low⟩ := cast_append_eq_iff.mp (Enc.header.inj (Option.some.inj h))
  obtain ⟨top, rfl⟩ := fld_append_iff.mp upper
  have request : bit w 7 = true := fld_eq_ofBool_iff (b := true).mp top
  rw [decodeHeader, low, request]
  rfl

/-- Every instruction of slot S. -/
theorem decodesS (i : Instr) : DecodesS i := by
  cases i with
  | nop => exact decodesS_bare rfl (fun op => by rw [decodeS, decodeS0, fld_hi op, fld_lo op]; rfl)
  | add => exact decodesS_dab rfl (fun op => by rw [decodeS, decodeS0, fld_hi op, fld_lo op]; rfl)
  | sub => exact decodesS_dab rfl (fun op => by rw [decodeS, decodeS0, fld_hi op, fld_lo op]; rfl)
  | and => exact decodesS_dab rfl (fun op => by rw [decodeS, decodeS0, fld_hi op, fld_lo op]; rfl)
  | or => exact decodesS_dab rfl (fun op => by rw [decodeS, decodeS0, fld_hi op, fld_lo op]; rfl)
  | xor => exact decodesS_dab rfl (fun op => by rw [decodeS, decodeS0, fld_hi op, fld_lo op]; rfl)
  | andn => exact decodesS_dab rfl (fun op => by rw [decodeS, decodeS0, fld_hi op, fld_lo op]; rfl)
  | shl => exact decodesS_dab rfl (fun op => by rw [decodeS, decodeS0, fld_hi op, fld_lo op]; rfl)
  | shr => exact decodesS_dab rfl (fun op => by rw [decodeS, decodeS0, fld_hi op, fld_lo op]; rfl)
  | sra => exact decodesS_dab rfl (fun op => by rw [decodeS, decodeS0, fld_hi op, fld_lo op]; rfl)
  | min => exact decodesS_dab rfl (fun op => by rw [decodeS, decodeS0, fld_hi op, fld_lo op]; rfl)
  | minu => exact decodesS_dab rfl (fun op => by rw [decodeS, decodeS1, fld_hi op, fld_lo op]; rfl)
  | max => exact decodesS_dab rfl (fun op => by rw [decodeS, decodeS1, fld_hi op, fld_lo op]; rfl)
  | maxu => exact decodesS_dab rfl (fun op => by rw [decodeS, decodeS1, fld_hi op, fld_lo op]; rfl)
  | mul => exact decodesS_dab rfl (fun op => by rw [decodeS, decodeS0, fld_hi op, fld_lo op]; rfl)
  | mulh => exact decodesS_dab rfl (fun op => by rw [decodeS, decodeS0, fld_hi op, fld_lo op]; rfl)
  | mulhu => exact decodesS_dab rfl (fun op => by rw [decodeS, decodeS0, fld_hi op, fld_lo op]; rfl)
  | div => exact decodesS_dab rfl (fun op => by rw [decodeS, decodeS0, fld_hi op, fld_lo op]; rfl)
  | divu => exact decodesS_dab rfl (fun op => by rw [decodeS, decodeS0, fld_hi op, fld_lo op]; rfl)
  | clz => exact decodesS_da rfl (fun op => by rw [decodeS, decodeS1, fld_hi op, fld_lo op]; rfl)
  | popc => exact decodesS_da rfl (fun op => by rw [decodeS, decodeS1, fld_hi op, fld_lo op]; rfl)
  | sel => exact decodesS_sel
  | cmpGuard => exact decodesS_cmpGuard
  | cmpRegister => exact decodesS_cmpRegister
  | cmpi => exact decodesS_cmpi
  | lea => exact decodesS_lea
  | ext => exact decodesS_ext
  | ins => exact decodesS_ins
  | addi => exact decodesS_dai rfl (fun op => by rw [decodeS, decodeS2, fld_hi op, fld_lo op]; rfl)
  | andi => exact decodesS_dai rfl (fun op => by rw [decodeS, decodeS2, fld_hi op, fld_lo op]; rfl)
  | ori => exact decodesS_dai rfl (fun op => by rw [decodeS, decodeS2, fld_hi op, fld_lo op]; rfl)
  | xori => exact decodesS_dai rfl (fun op => by rw [decodeS, decodeS2, fld_hi op, fld_lo op]; rfl)
  | shli => exact decodesS_shift rfl (fun op => by rw [decodeS, decodeS2, fld_hi op, fld_lo op]; rfl)
  | shri => exact decodesS_shift rfl (fun op => by rw [decodeS, decodeS2, fld_hi op, fld_lo op]; rfl)
  | srai => exact decodesS_shift rfl (fun op => by rw [decodeS, decodeS2, fld_hi op, fld_lo op]; rfl)
  | movi => exact decodesS_movi
  | movk => exact decodesS_movk
  | fadd => exact decodesS_dab rfl (fun op => by rw [decodeS, decodeS3, fld_hi op, fld_lo op]; rfl)
  | fsub => exact decodesS_dab rfl (fun op => by rw [decodeS, decodeS3, fld_hi op, fld_lo op]; rfl)
  | fmul => exact decodesS_dab rfl (fun op => by rw [decodeS, decodeS3, fld_hi op, fld_lo op]; rfl)
  | ffma => exact decodesS_ffma
  | fmin => exact decodesS_dab rfl (fun op => by rw [decodeS, decodeS3, fld_hi op, fld_lo op]; rfl)
  | fmax => exact decodesS_dab rfl (fun op => by rw [decodeS, decodeS3, fld_hi op, fld_lo op]; rfl)
  | fcmp => exact decodesS_fcmp
  | fcvt => exact decodesS_fcvt
  | ld => exact decodesS_ld
  | st => exact decodesS_st
  | ldfe => exact decodesS_ldfe
  | stfe => exact decodesS_stfe
  | amo => exact decodesS_amo
  | amor => exact decodesS_amor
  | cas => exact decodesS_cas
  | red => exact decodesS_red
  | fence => exact decodesS_fence
  | br => exact decodesS_br
  | jmp => exact decodesS_jmp
  | call => exact decodesS_call
  | callRegister => exact decodesS_callRegister
  | ret => exact decodesS_ret
  | bloop => exact decodesS_bloop
  | exit => exact decodesS_exit
  | exitLeave => exact decodesS_exitLeave
  | trap => exact decodesS_trap
  | svc => exact decodesS_svc
  | eret => exact decodesS_bare rfl (fun op => by rw [decodeS, decodeS5, fld_hi op, fld_lo op]; rfl)
  | waitm => exact decodesS_waitm
  | waitc => exact decodesS_waitc
  | sync => exact decodesS_bare rfl (fun op => by rw [decodeS, decodeS5, fld_hi op, fld_lo op]; rfl)
  | arrive => exact decodesS_bare rfl (fun op => by rw [decodeS, decodeS5, fld_hi op, fld_lo op]; rfl)
  | grab => exact decodesS_grab
  | yield => exact decodesS_bare rfl (fun op => by rw [decodeS, decodeS5, fld_hi op, fld_lo op]; rfl)
  | csrr => exact decodesS_csrr
  | csrrRemote => exact decodesS_csrrRemote
  | csrw => exact decodesS_csrw
  | csrs => exact decodesS_csrs
  | csrc => exact decodesS_csrc
  | tlbiAll => exact decodesS_tlbiAll
  | tlbiAsid => exact decodesS_tlbiAsid
  | tlbiPage => exact decodesS_tlbiPage
  | cflush => exact decodesS_ab rfl (fun op => by rw [decodeS, decodeS6, fld_hi op, fld_lo op]; rfl)
  | cinv => exact decodesS_cinv
  | hld => exact decodesS_hld
  | hst => exact decodesS_hst
  | hset => exact decodesS_hset
  | hget => exact decodesS_hget
  | hadvHead => exact decodesS_hadvHead
  | hadvTail => exact decodesS_hadvTail
  | hwait => exact decodesS_hwait
  | bind => exact decodesS_bind
  | unbindPort => exact decodesS_unbindPort
  | unbindHandle => exact decodesS_unbindHandle
  | mpset => exact decodesS_mpset
  | acq => exact decodesS_acq
  | arel => exact decodesS_arel
  | averRead => exact decodesS_averRead
  | averWait => exact decodesS_averWait
  | mload => exact decodesS_a rfl (fun op => by rw [decodeS, decodeS7, fld_hi op, fld_lo op]; rfl)
  | maskld => exact decodesS_ab rfl (fun op => by rw [decodeS, decodeS7, fld_hi op, fld_lo op]; rfl)
  | snap => exact decodesS_d rfl (fun op => by rw [decodeS, decodeS8, fld_hi op, fld_lo op]; rfl)
  | snapx => exact decodesS_bare rfl (fun op => by rw [decodeS, decodeS8, fld_hi op, fld_lo op]; rfl)
  | tbegin => exact decodesS_d rfl (fun op => by rw [decodeS, decodeS8, fld_hi op, fld_lo op]; rfl)
  | tcommit => exact decodesS_d rfl (fun op => by rw [decodeS, decodeS8, fld_hi op, fld_lo op]; rfl)
  | tabort => exact decodesS_bare rfl (fun op => by rw [decodeS, decodeS8, fld_hi op, fld_lo op]; rfl)
  | vpub => exact decodesS_vpub
  | vbind => exact decodesS_vbind
  | tapx => exact decodesS_tapx
  | tapw => exact decodesS_a rfl (fun op => by rw [decodeS, decodeS8, fld_hi op, fld_lo op]; rfl)
  | sqget => exact decodesS_dab rfl (fun op => by rw [decodeS, decodeS9, fld_hi op, fld_lo op]; rfl)
  | sqnode => exact decodesS_sqnode
  | sqaccMask => exact decodesS_sqaccMask
  | sqaccAccept => exact decodesS_sqaccAccept
  | sqcommit => exact decodesS_da rfl (fun op => by rw [decodeS, decodeS9, fld_hi op, fld_lo op]; rfl)
  | sqroll => exact decodesS_da rfl (fun op => by rw [decodeS, decodeS9, fld_hi op, fld_lo op]; rfl)
  | sqsetAdmit => exact decodesS_sqset (n := 0) rfl (fun op which => by rw [decodeS, decodeS9, fld_hi op, fld_lo op, which]; rfl)
  | sqsetPreempt => exact decodesS_sqset (n := 1) rfl (fun op which => by rw [decodeS, decodeS9, fld_hi op, fld_lo op, which]; rfl)
  | sqsetResume => exact decodesS_sqset (n := 2) rfl (fun op which => by rw [decodeS, decodeS9, fld_hi op, fld_lo op, which]; rfl)
  | sqsetRelease => exact decodesS_sqset (n := 3) rfl (fun op which => by rw [decodeS, decodeS9, fld_hi op, fld_lo op, which]; rfl)
  | sqsetRetire => exact decodesS_sqset (n := 4) rfl (fun op which => by rw [decodeS, decodeS9, fld_hi op, fld_lo op, which]; rfl)
  | sqsetPool => exact decodesS_sqset (n := 5) rfl (fun op which => by rw [decodeS, decodeS9, fld_hi op, fld_lo op, which]; rfl)
  | rngseed => exact decodesS_ab rfl (fun op => by rw [decodeS, decodeS9, fld_hi op, fld_lo op]; rfl)
  | ecmarkRead => exact decodesS_ecmarkRead
  | ecmarkMark => exact decodesS_ecmarkMark
  | _ => exact fun _ _ h => nomatch h

/-- Every instruction of a vector slot. -/
theorem decodesV (i : Instr) : DecodesV i := by
  cases i with
  | vnop => exact decodesV_vnop
  | vadd => exact decodesV_ab rfl (fun op => by rw [decodeV, op]; rfl)
  | vsub => exact decodesV_ab rfl (fun op => by rw [decodeV, op]; rfl)
  | vmul => exact decodesV_ab rfl (fun op => by rw [decodeV, op]; rfl)
  | vfma => exact decodesV_vfma
  | vmin => exact decodesV_ab rfl (fun op => by rw [decodeV, op]; rfl)
  | vmax => exact decodesV_ab rfl (fun op => by rw [decodeV, op]; rfl)
  | vabs => exact decodesV_a rfl (fun op => by rw [decodeV, op]; rfl)
  | vneg => exact decodesV_a rfl (fun op => by rw [decodeV, op]; rfl)
  | vexp2 => exact decodesV_a rfl (fun op => by rw [decodeV, op]; rfl)
  | vlog2 => exact decodesV_a rfl (fun op => by rw [decodeV, op]; rfl)
  | vrcp => exact decodesV_a rfl (fun op => by rw [decodeV, op]; rfl)
  | vrsq => exact decodesV_a rfl (fun op => by rw [decodeV, op]; rfl)
  | vcvt => exact decodesV_vcvt
  | vcmp => exact decodesV_vcmp
  | vsel => exact decodesV_ab rfl (fun op => by rw [decodeV, op]; rfl)
  | vand => exact decodesV_ab rfl (fun op => by rw [decodeV, op]; rfl)
  | vor => exact decodesV_ab rfl (fun op => by rw [decodeV, op]; rfl)
  | vxor => exact decodesV_ab rfl (fun op => by rw [decodeV, op]; rfl)
  | vshl => exact decodesV_ab rfl (fun op => by rw [decodeV, op]; rfl)
  | vshr => exact decodesV_ab rfl (fun op => by rw [decodeV, op]; rfl)
  | vrsum => exact decodesV_a rfl (fun op => by rw [decodeV, op]; rfl)
  | vrmax => exact decodesV_a rfl (fun op => by rw [decodeV, op]; rfl)
  | vscan => exact decodesV_a rfl (fun op => by rw [decodeV, op]; rfl)
  | vtopk => exact decodesV_vtopk
  | vperm => exact decodesV_ab rfl (fun op => by rw [decodeV, op]; rfl)
  | vmov => exact decodesV_a rfl (fun op => by rw [decodeV, op]; rfl)
  | vrng => exact decodesV_vrng
  | _ => exact fun _ _ _ h => nomatch h

/-- Every instruction of a copy slot. -/
theorem decodesC (i : Instr) : DecodesC i := by
  cases i with
  | cnop => exact decodesC_cnop
  | cpy => exact decodesC_cpy
  | cpyr => exact decodesC_cpyr
  | gath => exact decodesC_gath
  | scat => exact decodesC_scat
  | chain => exact decodesC_chain
  | bdrv => exact decodesC_bdrv
  | blat => exact decodesC_blat
  | wstr => exact decodesC_wstr
  | kvcp => exact decodesC_kvcp
  | cnta => exact decodesC_cnta
  | logf => exact decodesC_logf
  | _ => exact fun _ _ _ h => nomatch h

/-- Every instruction of slot X. -/
theorem decodesX (i : Instr) : DecodesX i := by
  cases i with
  | xnop => exact decodesX_xnop
  | xpose => exact decodesX_xpose
  | xcvt => exact decodesX_xcvt
  | xexp => exact decodesX_xexp
  | xpack => exact decodesX_xpack
  | _ => exact fun _ _ h => nomatch h

/-- Settles O56: the fields of the word say which arm of the decoder reads it, and give that arm every operand back. -/
theorem encodeDecode : Obligations.EncodeDecode := by
  unfold Obligations.EncodeDecode
  intro i e wf h
  cases e with
  | header w =>
    cases i with
    | oppRequest => rw [Enc.decode, decodesHeader h]
    | _ => cases h
  | s w => exact decodesS i w wf h
  | v k w => exact decodesV i k w wf h
  | m w =>
    cases i with
    | mnop => exact decodesM_mnop h
    | mcall => exact decodesM_mcall h
    | _ => cases h
  | c c w => exact decodesC i c w wf h
  | x w => exact decodesX i w wf h

/-- Settles O55: each word is decoded field by field. -/
theorem decodeWords : Obligations.DecodeWords := by
  unfold Obligations.DecodeWords
  refine ⟨?bundle, ?nops, ?si, ?sl, ?sa, ?sb, ?sx, ?sh, ?v1, ?m, ?c0, ?x⟩ <;> rfl

/-! ### The fates of words that no instruction has -/

theorem dec_illslot {z : Bool} {i : Option Instr} (h : z = false) : dec z i = .error .illslot := by
  subst h
  rfl

theorem dec_illop {z : Bool} {i : Option Instr} (h : z = true) (none_listed : i = none) : dec z i = .error .illop := by
  subst h none_listed
  rfl

theorem decWf_illop {z : Bool} {i : Instr} (h : z = true) (ill : i.wf = false) : decWf z i = .error .illop :=
  dec_illop h (if_neg (Bool.eq_false_iff.mp ill))

section
variable {w : BitVec 56}

theorem opcode_toNat : (fld w 42 8).toNat = 16 * (fld w 46 4).toNat + (fld w 42 4).toNat := by
  rw [show fld w 42 8 = fld w 46 4 ++ fld w 42 4 from fld_op rfl rfl, BitVec.toNat_append, ← Nat.shiftLeft_add_eq_or_of_lt (BitVec.isLt _),
    Nat.shiftLeft_eq, Nat.mul_comm]

theorem opcode_eq {n : Nat} (h : (fld w 42 8).toNat = n) : fld w 42 8 = BitVec.ofNat 8 n := by
  rw [← h, BitVec.ofNat_toNat, BitVec.setWidth_eq]

theorem decodeS1_illop (h : 10 ≤ (fld w 42 4).toNat) : decodeS1 w = .error .illop := by
  unfold decodeS1
  split <;> simp_all

theorem decodeS2_illop (h : 10 ≤ (fld w 42 4).toNat) : decodeS2 w = .error .illop := by
  unfold decodeS2
  split <;> simp_all

theorem decodeS3_illop (h : 8 ≤ (fld w 42 4).toNat) : decodeS3 w = .error .illop := by
  unfold decodeS3
  split <;> simp_all

theorem decodeS4_illop (h : 9 ≤ (fld w 42 4).toNat) : decodeS4 w = .error .illop := by
  unfold decodeS4
  split <;> simp_all

theorem decodeS5_illop (h : 15 ≤ (fld w 42 4).toNat) : decodeS5 w = .error .illop := by
  unfold decodeS5
  split <;> simp_all

theorem decodeS6_illop (h : 7 ≤ (fld w 42 4).toNat) : decodeS6 w = .error .illop := by
  unfold decodeS6
  split <;> simp_all

theorem decodeS7_illop (h : 14 ≤ (fld w 42 4).toNat) : decodeS7 w = .error .illop := by
  unfold decodeS7
  split <;> simp_all

theorem decodeS8_illop (h : (fld w 42 4).toNat = 7 ∨ 10 ≤ (fld w 42 4).toNat) : decodeS8 w = .error .illop := by
  unfold decodeS8
  split <;> simp_all

theorem decodeS9_illop (h : (fld w 42 4).toNat = 6 ∨ (fld w 42 4).toNat = 7 ∨ 10 ≤ (fld w 42 4).toNat) : decodeS9 w = .error .illop := by
  unfold decodeS9
  split <;> simp_all

/-- An opcode that Table 16.4 does not list. -/
def Unlisted (op : Nat) : Prop :=
  (0x1A ≤ op ∧ op ≤ 0x1F) ∨ (0x2A ≤ op ∧ op ≤ 0x2F) ∨ (0x38 ≤ op ∧ op ≤ 0x3F) ∨ (0x49 ≤ op ∧ op ≤ 0x4F) ∨ op = 0x5F ∨ (0x67 ≤ op ∧ op ≤ 0x6F)
    ∨ op = 0x7E ∨ op = 0x7F ∨ op = 0x87 ∨ (0x8A ≤ op ∧ op ≤ 0x8F) ∨ op = 0x96 ∨ op = 0x97 ∨ 0x9A ≤ op

theorem decodeS_illop (h : Unlisted (fld w 42 8).toNat) : decodeS w = .error .illop := by
  rw [Unlisted, opcode_toNat] at h
  have low := (fld w 42 4).isLt
  unfold decodeS
  split
  next hi => simp only [hi, BitVec.toNat_ofNat] at h; omega
  next hi => simp only [hi, BitVec.toNat_ofNat] at h; exact decodeS1_illop (by omega)
  next hi => simp only [hi, BitVec.toNat_ofNat] at h; exact decodeS2_illop (by omega)
  next hi => simp only [hi, BitVec.toNat_ofNat] at h; exact decodeS3_illop (by omega)
  next hi => simp only [hi, BitVec.toNat_ofNat] at h; exact decodeS4_illop (by omega)
  next hi => simp only [hi, BitVec.toNat_ofNat] at h; exact decodeS5_illop (by omega)
  next hi => simp only [hi, BitVec.toNat_ofNat] at h; exact decodeS6_illop (by omega)
  next hi => simp only [hi, BitVec.toNat_ofNat] at h; exact decodeS7_illop (by omega)
  next hi => simp only [hi, BitVec.toNat_ofNat] at h; exact decodeS8_illop (by omega)
  next hi => simp only [hi, BitVec.toNat_ofNat] at h; exact decodeS9_illop (by omega)
  next => rfl

theorem decodeS_bare {op : Nat} (h : (fld w 42 8).toNat = op)
    (listed : op = 0x00 ∨ op = 0x53 ∨ op = 0x58 ∨ op = 0x5B ∨ op = 0x5C ∨ op = 0x5E ∨ op = 0x81 ∨ op = 0x84) : ∃ k, decodeS w = decBare w k := by
  have code := opcode_eq h
  rcases listed with rfl | rfl | rfl | rfl | rfl | rfl | rfl | rfl
  all_goals exact ⟨_, by rw [decodeS, decodeS0, decodeS5, decodeS8, fld_hi code, fld_lo code]; rfl⟩

theorem decodeS_dab {op : Nat} (h : (fld w 42 8).toNat = op)
    (listed : (0x01 ≤ op ∧ op ≤ 0x12) ∨ (0x30 ≤ op ∧ op ≤ 0x32) ∨ op = 0x34 ∨ op = 0x35 ∨ op = 0x90) : ∃ k, decodeS w = decDAB w k := by
  have code := opcode_eq h
  rcases listed with ⟨ge, le⟩ | ⟨ge, le⟩ | rfl | rfl | rfl
  case inl | inr.inl =>
    interval_cases op
    all_goals exact ⟨_, by rw [decodeS, decodeS0, decodeS1, decodeS3, fld_hi code, fld_lo code]; rfl⟩
  all_goals exact ⟨_, by rw [decodeS, decodeS3, decodeS9, fld_hi code, fld_lo code]; rfl⟩

theorem decodeS_da {op : Nat} (h : (fld w 42 8).toNat = op) (listed : op = 0x13 ∨ op = 0x14 ∨ op = 0x93 ∨ op = 0x94) :
    ∃ k, decodeS w = decDA w k := by
  have code := opcode_eq h
  rcases listed with rfl | rfl | rfl | rfl
  all_goals exact ⟨_, by rw [decodeS, decodeS1, decodeS9, fld_hi code, fld_lo code]; rfl⟩

theorem decodeS_shift {op : Nat} (h : (fld w 42 8).toNat = op) (listed : 0x24 ≤ op ∧ op ≤ 0x26) : ∃ k, decodeS w = decShift w k := by
  have code := opcode_eq h
  obtain ⟨ge, le⟩ := listed
  interval_cases op
  all_goals exact ⟨_, by rw [decodeS, decodeS2, fld_hi code, fld_lo code]; rfl⟩

/-- Stores take no latency: their field is reserved. -/
theorem decodeS_store_illslot {op : Nat} (h : (fld w 42 8).toNat = op) (listed : op = 0x41 ∨ op = 0x43) (lat : sLat w ≠ 0) :
    decodeS w = .error .illslot := by
  have code := opcode_eq h
  have reserved : (!bit w 11 && sLat w == 0) = false := by rw [beq_false_of_ne lat, Bool.and_false]
  rcases listed with rfl | rfl
  all_goals
    rw [decodeS, decodeS4, fld_hi code, fld_lo code]
    exact dec_illslot reserved

/-- A branch whose condition no table lists. -/
theorem decodeS_br_illop (h : (fld w 42 8).toNat = 0x50) (low : fld w 36 3 = 0) (cond : fld w 39 3 = 7) : decodeS w = .error .illop := by
  have code := opcode_eq h
  rw [decodeS, decodeS5, fld_hi code, fld_lo code]
  refine dec_illop ?_ ?_
  · rw [low, cond]
    rfl
  · rw [cond]
    rfl

end

section
variable {k : VSlot} {w : BitVec 36}

theorem vopcode_eq {n : Nat} (h : (fld w 25 5).toNat = n) : fld w 25 5 = BitVec.ofNat 5 n := by
  rw [← h, BitVec.ofNat_toNat, BitVec.setWidth_eq]

theorem decodeV_illop (h : 28 ≤ (fld w 25 5).toNat) : decodeV k w = .error .illop := by
  unfold decodeV
  split
  case h_29 => rfl
  all_goals
    next op =>
      rw [op] at h
      exact absurd h (by decide)

theorem decodeV_a {op : Nat} (h : (fld w 25 5).toNat = op) (listed : op ∈ [7, 8, 9, 10, 11, 12, 21, 22, 23, 26]) : ∃ f, decodeV k w = decVA k w f := by
  have code := vopcode_eq h
  simp only [List.mem_cons, List.not_mem_nil, or_false] at listed
  rcases listed with rfl | rfl | rfl | rfl | rfl | rfl | rfl | rfl | rfl | rfl
  all_goals exact ⟨_, by rw [decodeV, code]; rfl⟩

theorem isFp_ofBits : ∀ c : BitVec 3, (VType.ofBits c).isFp = decide (c.toNat < 3) := by decide

/-- The transcendental functions are defined on the floating-point types alone. -/
theorem decodeV_trans_illop {op : Nat} (h : (fld w 25 5).toNat = op) (listed : op ∈ [9, 10, 11, 12]) (zero : fld w 0 11 = 0)
    (int : 3 ≤ (fld w 22 3).toNat) : decodeV k w = .error .illop := by
  have code := vopcode_eq h
  have notFp : (vT w).isFp = false := by rw [isFp_ofBits]; exact decide_eq_false (Nat.not_lt.mpr int)
  simp only [List.mem_cons, List.not_mem_nil, or_false] at listed
  rcases listed with rfl | rfl | rfl | rfl
  all_goals
    rw [decodeV, code]
    exact decWf_illop (beq_of_eq zero) notFp

/-- The shifts are defined on the integer types alone. -/
theorem decodeV_shift_illop {op : Nat} (h : (fld w 25 5).toNat = op) (listed : op = 19 ∨ op = 20) (zero : vC w = 0)
    (fp : (fld w 22 3).toNat < 3) : decodeV k w = .error .illop := by
  have code := vopcode_eq h
  have notInt : (vT w).isInt = false := by rw [VType.isInt, isFp_ofBits, decide_eq_true fp]; rfl
  rcases listed with rfl | rfl
  all_goals
    rw [decodeV, code]
    exact decWf_illop (beq_of_eq zero) notInt

end

theorem decodeC_illop {c : CSlot} {w : BitVec 32} (h : 12 ≤ (fld w 21 5).toNat) : decodeC c w = .error .illop := by
  unfold decodeC
  split
  case h_13 => rfl
  all_goals
    next op =>
      rw [op] at h
      exact absurd h (by decide)

/-- CPYR with SWAP or with an operation that Table 6.6 does not list. -/
theorem decodeC_cpyr_illop {c : CSlot} {w : BitVec 32} (h : fld w 21 5 = 2) (zero : fld w 4 3 = 0)
    (mode : fld w 0 4 = 0 ∨ 10 ≤ (fld w 0 4).toNat) : decodeC c w = .error .illop := by
  rw [decodeC, h]
  refine dec_illop (beq_of_eq zero) ?_
  rcases mode with swap | unlisted
  · rw [swap]
    rfl
  · have none_listed : ∀ x : BitVec 4, 10 ≤ x.toNat → AtomOp.ofBits x = none := by decide
    rw [none_listed _ unlisted]
    rfl

theorem decodeM_illop {w : BitVec 32} (h : 2 ≤ (fld w 24 2).toNat) : decodeM w = .error .illop := by
  unfold decodeM
  split
  case h_3 => rfl
  all_goals
    next op =>
      rw [op] at h
      exact absurd h (by decide)

theorem decodeX_illop {w : BitVec 24} (h : 5 ≤ (fld w 14 4).toNat) : decodeX w = .error .illop := by
  unfold decodeX
  split
  case h_6 => rfl
  all_goals
    next op =>
      rw [op] at h
      exact absurd h (by decide)

theorem decodeHeader_illslot {w : BitVec 8} (h : fld w 0 4 ≠ 0 ∨ bit w 7 = false ∧ fld w 4 3 ≠ 0) : decodeHeader w = .error .illslot := by
  rw [decodeHeader]
  split
  next => rfl
  next zero =>
    obtain low | ⟨plain, point⟩ := h
    · exact absurd (bne_iff_ne.mpr low) zero
    · rw [if_neg (Bool.eq_false_iff.mp plain), if_neg (by simpa using point)]

theorem firstFate_found {f : Fate} {n : Nat} {bits : BitVec 64} {r : Except Fate Instr} {ds : List (Except SlotFate Instr)} (h : r = .error f) :
    firstFate f (slotNo n bits r :: ds) = some ⟨BitVec.ofNat 3 n, bits, f⟩ := by
  subst h
  simp [slotNo, firstFate]

theorem firstFate_skips {f : Fate} {n : Nat} {bits : BitVec 64} {r : Except Fate Instr} {ds : List (Except SlotFate Instr)} (h : r ≠ .error f) :
    firstFate f (slotNo n bits r :: ds) = firstFate f ds := by
  cases r with
  | ok i => rfl
  | error e => exact if_neg fun same => h (congrArg Except.error same)

/-- Settles O58, part by part: an opcode no table lists, a reserved field, and the order of a bundle's fates. -/
theorem fatesOfEncodings : Obligations.FatesOfEncodings := by
  unfold Obligations.FatesOfEncodings
  refine ⟨fun w => ⟨decodeS_illop, ?bare, ?dab, ?da, ?shift, decodeS_br_illop, decodeS_store_illslot rfl⟩,
    fun k w => ⟨decodeV_illop, ?vnop, ?va, decodeV_trans_illop rfl, decodeV_shift_illop rfl⟩,
    fun w => ⟨decodeM_illop, ?mnop, ?mcall, fun c => ⟨decodeC_illop, ?cnop, decodeC_cpyr_illop⟩⟩,
    fun w => ⟨decodeX_illop, ?xres, ?xill⟩, fun w => decodeHeader_illslot, fun w => ⟨?header, ?order⟩⟩
  case bare =>
    intro op reserved
    obtain ⟨k, arm⟩ := decodeS_bare rfl op
    exact arm.trans (dec_illslot (beq_false_of_ne reserved))
  case dab =>
    intro op reserved
    obtain ⟨k, arm⟩ := decodeS_dab rfl op
    exact arm.trans (dec_illslot (beq_false_of_ne reserved))
  case da =>
    intro op reserved
    obtain ⟨k, arm⟩ := decodeS_da rfl op
    exact arm.trans (dec_illslot (beq_false_of_ne reserved))
  case shift =>
    intro op reserved
    obtain ⟨k, arm⟩ := decodeS_shift rfl op
    exact arm.trans (dec_illslot (beq_false_of_ne reserved))
  case vnop =>
    intro op reserved
    rw [decodeV, vopcode_eq op]
    exact dec_illslot (beq_false_of_ne reserved)
  case va =>
    intro op reserved
    obtain ⟨f, arm⟩ := decodeV_a rfl op
    exact arm.trans (dec_illslot (beq_false_of_ne reserved))
  case mnop =>
    intro (op : fld w 24 2 = 0) reserved
    rw [decodeM, op]
    exact dec_illslot (beq_false_of_ne reserved)
  case mcall =>
    intro (op : fld w 24 2 = 1) reserved
    rw [decodeM, op]
    exact dec_illslot (beq_false_of_ne reserved)
  case cnop =>
    intro (op : fld w 21 5 = 0) reserved
    rw [decodeC, op]
    exact dec_illslot (beq_false_of_ne reserved)
  case xres =>
    intro (op : fld w 14 4 = 1) reserved
    rw [decodeX, op]
    exact dec_illslot (beq_false_of_ne reserved)
  case xill =>
    intro (op : fld w 14 4 = 1) mode
    obtain ⟨zero, width⟩ := fld_append_iff (x := 0#2) (y := 3#2).mp mode
    rw [decodeX, op]
    refine decWf_illop (beq_of_eq zero) ?_
    rw [width]
    rfl
  case header =>
    intro h
    rw [decodeBundle, h]
  case order =>
    intro r header s x v0 v1 m c0 c1
    have found : firstFate .illslot (Slots.ofBundle w).decoded = some ⟨6, (Slots.ofBundle w).x.setWidth 64, .illslot⟩ := by
      rw [Slots.decoded, firstFate_skips (by rw [s]; nofun), firstFate_skips v0, firstFate_skips v1, firstFate_skips m, firstFate_skips c0,
        firstFate_skips c1, firstFate_found x]
      rfl
    rw [decodeBundle, header]
    dsimp only
    rw [found]

end Sys2Proof.Proofs
/-! # The scalar integer instructions (chapters 17 to 19): one lemma per shape of operand list, one fact per function of Table 17.1 -/

namespace Sys2Proof.Proofs

open Sys2Proof Sys2Proof.Machine Sys2Proof.Claims Sys2Proof.Laws

/-- A scalar instruction with no trap and no hold of its own acts on its operands' values. -/
theorem exec_scalar {i : Instr} {g : Guard} {srcs dsts : List SReg} {act : List Word → State → State} {s : State}
    (hi : meaningOf i = some (g, Slot.scalar srcs dsts noTrap noHold act)) (ht : Turn g s) (ho : Operable srcs dsts s) :
    exec i s = .next (act (operands srcs s).1 (popped srcs s)) := by
  rw [exec_slot hi, runSlot_scalar ht ho rfl rfl]

/-- A two-source instruction lands its function of the sources. -/
theorem exec_alu2 {i : Instr} {g : Guard} {lat : Nat} {d a b : SReg} {f : Word → Word → Word} {s : State} {v : Word}
    (hi : meaningOf i = some (g, alu2 lat d a b f)) (ht : Turn g s) (ho : Operable [a, b] [d] s)
    (hv : f (src [a, b] s 0) (src [a, b] s 1) = v) : exec i s = .next ((popped [a, b] s).landS d lat v) := by
  rw [exec_scalar hi ht ho, ← hv]; rfl

/-- A one-source instruction lands its function of the source. -/
theorem exec_alu1 {i : Instr} {g : Guard} {lat : Nat} {d a : SReg} {f : Word → Word} {s : State} {v : Word}
    (hi : meaningOf i = some (g, alu1 lat d a f)) (ht : Turn g s) (ho : Operable [a] [d] s)
    (hv : f (src [a] s 0) = v) : exec i s = .next ((popped [a] s).landS d lat v) := by
  rw [exec_scalar hi ht ho, ← hv]; rfl

/-! ## The functions of Table 17.1 -/

theorem smin_eq (x y : Word) : smin x y = if x.toInt ≤ y.toInt then x else y := by
  rw [smin, BitVec.slt_eq_decide]
  by_cases h : y.toInt < x.toInt
  · simp [h, not_le.mpr h]
  · simp [h, not_lt.mp h]

theorem smax_eq (x y : Word) : smax x y = if x.toInt ≤ y.toInt then y else x := by
  rw [smax, BitVec.slt_eq_decide]
  rcases lt_trichotomy x.toInt y.toInt with h | h | h
  · simp [h, h.le]
  · simp [BitVec.eq_of_toInt_eq h]
  · simp [h.not_gt, h.not_ge]

theorem umin_eq (x y : Word) : umin x y = if x.toNat ≤ y.toNat then x else y := by
  rw [umin, BitVec.ult_eq_decide]
  by_cases h : y.toNat < x.toNat
  · simp [h, not_le.mpr h]
  · simp [h, not_lt.mp h]

theorem umax_eq (x y : Word) : umax x y = if x.toNat ≤ y.toNat then y else x := by
  rw [umax, BitVec.ult_eq_decide]
  rcases lt_trichotomy x.toNat y.toNat with h | h | h
  · simp [h, h.le]
  · simp [BitVec.eq_of_toNat_eq h]
  · simp [h.not_gt, h.not_ge]

/-- The upper half of a product of 128 bits is that of the exact product (R370). -/
theorem mulhS_eq (x y : Word) : mulhS x y = (x.signExtend 128 * y.signExtend 128).extractLsb' 64 64 := by
  have e : x.signExtend 128 * y.signExtend 128 = BitVec.ofInt 128 (x.toInt * y.toInt) := by
    rw [BitVec.ofInt_mul]; rfl
  rw [e]
  apply BitVec.eq_of_toNat_eq
  rw [mulhS, BitVec.extractLsb'_toNat, BitVec.toNat_ofInt, BitVec.toNat_ofInt, Nat.shiftRight_eq_div_pow]
  omega

theorem mulhU_eq (x y : Word) : mulhU x y = (x.setWidth 128 * y.setWidth 128).extractLsb' 64 64 := by
  have hp : x.toNat * y.toNat < 2 ^ 128 := by
    have := Nat.mul_lt_mul'' x.isLt y.isLt
    simpa using this
  apply BitVec.eq_of_toNat_eq
  simp [mulhU, BitVec.extractLsb'_toNat, Nat.shiftRight_eq_div_pow, BitVec.toNat_mul]
  omega

theorem divS_eq (x y : Word) : divS x y = if y = 0 then BitVec.allOnes 64 else x.sdiv y := by
  have e : BitVec.ofInt 64 (Int.tdiv x.toInt y.toInt) = x.sdiv y :=
    BitVec.eq_of_toInt_eq (by rw [BitVec.toInt_ofInt, BitVec.toInt_sdiv])
  rw [divS, e]

theorem twoPow_eq_pow (n : Nat) : BitVec.twoPow 64 n = 2 ^ n := by
  apply BitVec.eq_of_toNat_eq
  rw [BitVec.toNat_twoPow, BitVec.toNat_pow]; rfl

theorem divU_eq (x y : Word) : divU x y = if y = 0 then BitVec.allOnes 64 else x.udiv y := by
  have e : BitVec.ofNat 64 (x.toNat / y.toNat) = x.udiv y :=
    BitVec.eq_of_toNat_eq (by rw [BitVec.toNat_ofNat, BitVec.udiv_eq, BitVec.toNat_udiv]
                              exact Nat.mod_eq_of_lt (lt_of_le_of_lt (Nat.div_le_self _ _) x.isLt))
  rw [divU, e]

/-- CLZ counts from the highest bit down: with the bits from `k` up known to be zero, it goes on to the lower ones. -/
theorem clzGo_eq (x : Word) (k : Nat) (hk : k ≤ 64) :
    clzGo x k = 64 - k + ((List.range' (64 - k) k).takeWhile fun i => !x.getMsbD i).length := by
  induction k with
  | zero => rfl
  | succ k ih =>
    have hb : x.getMsbD (64 - (k + 1)) = x.getLsbD k := by
      rw [BitVec.getMsbD_eq_getLsbD, show 64 - 1 - (64 - (k + 1)) = k by omega]
      simp only [show 64 - (k + 1) < 64 by omega, decide_true, Bool.true_and]
    rw [clzGo, List.range'_succ, show 64 - (k + 1) + 1 = 64 - k by omega, List.takeWhile_cons, hb]
    cases x.getLsbD k with
    | true => simp
    | false => rw [ih (by omega)]; simp; omega

theorem popGo_eq (x : Word) (k : Nat) : popGo x k = ((List.range k).filter fun i => x.getLsbD i).length := by
  induction k with
  | zero => rfl
  | succ k ih =>
    rw [popGo, ih, List.range_succ, List.filter_append, List.length_append, Nat.add_comm]
    cases h : x.getLsbD k <;> simp [h]

theorem clz64_eq (x : Word) :
    clz64 x = BitVec.ofNat 64 ((List.range 64).takeWhile fun k => !x.getMsbD k).length := by
  rw [clz64, clzGo_eq x 64 le_rfl, List.range_eq_range']; simp

theorem pop64_eq (x : Word) : pop64 x = BitVec.ofNat 64 ((List.range 64).filter fun k => x.getLsbD k).length := by
  rw [pop64, popGo_eq]

theorem shiftCount_setWidth (n : BitVec 6) : (n.setWidth 64).toNat % 64 = n.toNat := by
  simp [BitVec.toNat_setWidth]; omega

theorem fieldOk_len_pos {pos : BitVec 6} {len : BitVec 7} (h : fieldOk pos len = true) : 0 < len.toNat := by
  simp [fieldOk] at h; omega

theorem extField_unsigned (x : Word) (pos len : Nat) : extField x pos len false = (x.extractLsb' pos len).setWidth 64 := by
  apply BitVec.eq_of_toNat_eq
  simp [extField, Nat.shiftRight_eq_div_pow]

theorem extField_signed (x : Word) (pos len : Nat) (h : 0 < len) :
    extField x pos len true = (x.extractLsb' pos len).signExtend 64 := by
  have e : (x.extractLsb' pos len).toNat = x.toNat / 2 ^ pos % 2 ^ len := by
    rw [BitVec.extractLsb'_toNat, Nat.shiftRight_eq_div_pow]
  have p : 2 ^ len = 2 * 2 ^ (len - 1) := by rw [← pow_succ', Nat.sub_add_cancel h]
  rw [BitVec.signExtend, BitVec.toInt_eq_toNat_cond, e]
  simp only [extField, sext, if_true, Nat.mod_mod]
  by_cases c : 2 ^ (len - 1) ≤ x.toNat / 2 ^ pos % 2 ^ len
  · rw [if_pos c, if_neg (by omega)]
  · rw [if_neg c, if_pos (by omega)]

/-- A word is the old one with a field replaced where its bits are so. -/
theorem setBits_eq_of_bits {w v : Word} {lo len n : Nat}
    (h : ∀ i < 64, v.getLsbD i = if lo ≤ i ∧ i < lo + len then n.testBit (i - lo) else w.getLsbD i) :
    setBits w lo len n = v :=
  BitVec.eq_of_getLsbD_eq fun i hi => by rw [setBits_getLsbD w lo len n i hi, h i hi]

/-! ## The obligations -/

/-- Settles O1: each of the nineteen is `alu2` of its function, equal to the one the statement names. -/
theorem integerResults : Obligations.IntegerResults := by
  unfold Obligations.IntegerResults
  intro s g d a b ht ho
  refine ⟨exec_alu2 rfl ht ho rfl, exec_alu2 rfl ht ho rfl, exec_alu2 rfl ht ho rfl, exec_alu2 rfl ht ho rfl,
    exec_alu2 rfl ht ho rfl, exec_alu2 rfl ht ho rfl, exec_alu2 rfl ht ho rfl, exec_alu2 rfl ht ho rfl,
    exec_alu2 rfl ht ho rfl, exec_alu2 rfl ht ho (smin_eq _ _), exec_alu2 rfl ht ho (smax_eq _ _),
    exec_alu2 rfl ht ho (umin_eq _ _), exec_alu2 rfl ht ho (umax_eq _ _), exec_alu2 rfl ht ho rfl,
    exec_alu2 rfl ht ho (mulhS_eq _ _), exec_alu2 rfl ht ho (mulhU_eq _ _), exec_alu2 rfl ht ho (divS_eq _ _),
    exec_alu2 rfl ht ho (divU_eq _ _), fun n => exec_alu2 rfl ht ho ?_⟩
  rw [BitVec.shiftLeft_eq_mul_twoPow, twoPow_eq_pow]

/-- Settles O2: each is `alu1` of its function, or a word with a field replaced (`setBits_eq_of_bits`). -/
theorem integerFieldResults : Obligations.IntegerFieldResults := by
  unfold Obligations.IntegerFieldResults
  intro s g d a ht
  refine ⟨fun ho => ⟨exec_alu1 rfl ht ho (clz64_eq _), exec_alu1 rfl ht ho (pop64_eq _), fun imm => ?_, fun n => ?_,
    fun pos len hf => ?_⟩, fun ho pos len v hf hv => ?_, fun ho imm => ?_, fun ho imm k v hv => ?_⟩
  · exact ⟨exec_alu1 rfl ht ho rfl, exec_alu1 rfl ht ho rfl, exec_alu1 rfl ht ho rfl, exec_alu1 rfl ht ho rfl⟩
  · refine ⟨exec_alu1 rfl ht ho ?_, exec_alu1 rfl ht ho ?_, exec_alu1 rfl ht ho ?_⟩
    · rw [shl6, shiftCount_setWidth]
    · rw [shr6, shiftCount_setWidth]
    · rw [sra6, shiftCount_setWidth]
  · exact ⟨exec_alu1 rfl ht ho (extField_unsigned _ _ _),
      exec_alu1 rfl ht ho (extField_signed _ _ _ (fieldOk_len_pos hf))⟩
  · rw [exec_scalar rfl ht ho, ← setBits_eq_of_bits (n := (src [d, a] s 1).toNat) hv]; rfl
  · rw [exec_scalar (act := fun _ s => s.landS d 1 (imm30 imm)) rfl ht ho]; rfl
  · rw [exec_scalar rfl ht ho, ← setBits_eq_of_bits (n := imm.toNat) hv]; rfl

/-! ## Compares and SEL -/

/-- A compare that names no register lands its truth value in a bit of gr. -/
theorem landCond_guard (s : State) (d : SReg) (lat : Nat) (r : Bool) :
    s.landCond false d lat r = s.inFlight lat (.greg (d.setWidth 4) r) := by
  rw [State.landCond, ← BitVec.setWidth_eq_extractLsb']
  · simp
  · decide

/-- The ten integer conditions of Table 16.5 as relations on the words' numbers. -/
def intRelations : List (Cond × (Word → Word → Prop)) :=
  [(.eq, fun x y => x = y), (.ne, fun x y => x ≠ y), (.lt, fun x y => x.toInt < y.toInt), (.ge, fun x y => y.toInt ≤ x.toInt),
    (.ltu, fun x y => x.toNat < y.toNat), (.geu, fun x y => y.toNat ≤ x.toNat), (.gt, fun x y => y.toInt < x.toInt),
    (.le, fun x y => x.toInt ≤ y.toInt), (.gtu, fun x y => y.toNat < x.toNat), (.leu, fun x y => x.toNat ≤ y.toNat)]

theorem intCond_iff {cc : Cond} {holds : Word → Word → Prop} (h : (cc, holds) ∈ intRelations) (x y : Word) :
    intCond cc x y = true ↔ holds x y := by
  simp only [intRelations, List.mem_cons, Prod.mk.injEq, List.not_mem_nil, or_false] at h
  rcases h with ⟨rfl, rfl⟩ | ⟨rfl, rfl⟩ | ⟨rfl, rfl⟩ | ⟨rfl, rfl⟩ | ⟨rfl, rfl⟩ | ⟨rfl, rfl⟩ | ⟨rfl, rfl⟩ | ⟨rfl, rfl⟩ |
    ⟨rfl, rfl⟩ | ⟨rfl, rfl⟩ <;> simp [intCond, BitVec.slt_eq_decide, BitVec.ult_eq_decide]

/-- The truth value that a compare lands is the one whose truth is the relation. -/
theorem intCond_eq {cc : Cond} {holds : Word → Word → Prop} (h : (cc, holds) ∈ intRelations) {x y : Word} {r : Bool}
    (hr : r = true ↔ holds x y) : intCond cc x y = r := by
  rw [Bool.eq_iff_iff, intCond_iff h, hr]

/-- Settles O3: a compare lands the truth of its condition (`intCond_eq`); popping its sources leaves SEL's guard bit. -/
theorem compareAndSelect : Obligations.CompareAndSelect := by
  unfold Obligations.CompareAndSelect
  intro s g a b cc holds ht hc
  refine ⟨fun r hr => ⟨fun ho n => ?_, fun d ho => ?_⟩, fun imm r hr => ⟨fun ho d hd => ?_, fun d ho => ?_⟩,
    fun d code ho r hr => ?_⟩
  · rw [exec_scalar rfl ht ho, ← intCond_eq hc hr]
    rw [show n = (n.setWidth 6).setWidth 4 by simp, ← landCond_guard]; simp; rfl
  · rw [exec_scalar rfl ht ho, ← intCond_eq hc hr]; rfl
  · rw [exec_scalar rfl ht ho, ← intCond_eq hc hr, ← landCond_guard]; rfl
  · rw [exec_scalar rfl ht ho, ← intCond_eq hc hr]; rfl
  · rw [exec_scalar rfl ht ho, ← hr, ← guardOn_popped [a, b] code s]; rfl

end Sys2Proof.Proofs
/-! # Control (chapters 17 to 19): branches, TRAP and SVC, EXIT, waits, arrivals and YIELD -/

namespace Sys2Proof.Proofs

open Sys2Proof Sys2Proof.Machine Sys2Proof.Claims Sys2Proof.Laws

/-! ## Branches (R73, R74, R331, R332) -/

theorem bundleOffset_eq (off : BitVec 30) : bundleOffset off = 32 * off.signExtend 64 := by
  rw [bundleOffset, BitVec.shiftLeft_eq_mul_twoPow, twoPow_eq_pow, BitVec.mul_comm]; rfl

theorem double_eq (v : Word) : v <<< 1 = 2 * v := by
  rw [BitVec.shiftLeft_eq_mul_twoPow, twoPow_eq_pow, BitVec.mul_comm]; rfl

theorem and31_toNat (v : Word) : (v &&& 31).toNat = v.toNat % 32 := by
  rw [BitVec.toNat_and]; exact Nat.and_two_pow_sub_one_eq_mod v.toNat 5

theorem targetTrap_none {v : Word} (h : v.toNat % 32 = 0) : targetTrap v = none := by
  have e : v &&& 31 = 0 := BitVec.eq_of_toNat_eq (by rw [and31_toNat, h]; rfl)
  rw [targetTrap, if_neg (not_not.mpr e)]

theorem targetTrap_some {v : Word} (h : v.toNat % 32 ≠ 0) : targetTrap v = some (mkTrap .align 0 v) := by
  have e : v &&& 31 ≠ 0 := fun z => h (by rw [← and31_toNat, z]; rfl)
  rw [targetTrap, if_pos e]

/-- A scalar instruction that traps on its operands' values takes its trap. -/
theorem exec_scalar_trap {i : Instr} {g : Guard} {srcs dsts : List SReg} {tr : List Word → State → Option Trap}
    {ho : List Word → State → Bool} {act : List Word → State → State} {s : State} {x : Trap}
    (hi : meaningOf i = some (g, Slot.scalar srcs dsts tr ho act)) (turn : Turn g s) (op : Operable srcs dsts s)
    (ht : tr (operands srcs s).1 s = some x) : exec i s = .next (s.raise x) := by
  rw [exec_slot hi, runSlot_trap turn (Nat.zero_le _) (by rw [scalar_trap op, ht])]

/-- One that neither traps nor holds on them acts on them. -/
theorem exec_scalar_act {i : Instr} {g : Guard} {srcs dsts : List SReg} {tr : List Word → State → Option Trap}
    {ho : List Word → State → Bool} {act : List Word → State → State} {s : State}
    (hi : meaningOf i = some (g, Slot.scalar srcs dsts tr ho act)) (turn : Turn g s) (op : Operable srcs dsts s)
    (ht : tr (operands srcs s).1 s = none) (hh : ho (operands srcs s).1 s = false) :
    exec i s = .next (act (operands srcs s).1 (popped srcs s)) := by
  rw [exec_slot hi, runSlot_scalar turn op ht hh]

/-- An instruction without operands can always read them. -/
theorem operable_nil (s : State) : Operable [] [] s := ⟨by simp, by simp, by simp, rfl⟩

theorem exec_br_of_cond {s : State} {g : Guard} {c : BrCond} {a : SReg} {off : BitVec 30} (conditional : c ≠ .always)
    (turn : Turn g s) (op : Operable [a] [] s) : exec (.br g c a off) s = .next
      (if brCond c (src [a] s 0) then (popped [a] s).branch (s.rs.pc + 32 * off.signExtend 64) else popped [a] s) := by
  have m : meaningOf (.br g c a off) = some (g, Slot.scalar [a] [] noTrap noHold fun vs s =>
      if brCond c (arg vs 0) then s.branch (s.rs.pc + bundleOffset off) else s) := by
    rw [← if_neg (α := List SReg) (t := []) (e := [a]) conditional]; rfl
  rw [exec_scalar m turn op, bundleOffset_eq, popped_rs]; rfl

/-- The six branch conditions as relations on the tested number (R299). -/
def branchRelations : List (BrCond × (Word → Prop)) :=
  [(.eqz, fun v => v = 0), (.nez, fun v => v ≠ 0), (.ltz, fun v => v.toInt < 0), (.gez, fun v => 0 ≤ v.toInt),
    (.gtz, fun v => 0 < v.toInt), (.lez, fun v => v.toInt ≤ 0)]

theorem brCond_iff {c : BrCond} {taken : Word → Prop} (h : (c, taken) ∈ branchRelations) (v : Word) :
    c ≠ .always ∧ (brCond c v = true ↔ taken v) := by
  simp only [branchRelations, List.mem_cons, Prod.mk.injEq, List.not_mem_nil, or_false] at h
  rcases h with ⟨rfl, rfl⟩ | ⟨rfl, rfl⟩ | ⟨rfl, rfl⟩ | ⟨rfl, rfl⟩ | ⟨rfl, rfl⟩ | ⟨rfl, rfl⟩ <;>
    simp [brCond, BitVec.slt_eq_decide]

/-- The sources of BLOOP are lc, ec and sr, which no queue stands behind. -/
theorem operands_bloop (s : State) : operands [48, 55, 51] s = ([s.sreg 48, s.sreg 55, s.sreg 51], s) :=
  operands_plain _ s (by decide)

theorem exec_bloop_eq {s : State} {g : Guard} {off : BitVec 30} (turn : Turn g s) (op : Operable [48, 55, 51] [] s) :
    exec (.bloop g off) s = .next
      (if s.sreg 48 ≠ 0 then ((s.landS 48 1 (s.sreg 48 - 1)).landS 51 1 ((2 * s.sreg 51 ||| 1) &&& 0xFFFF)).branch (s.rs.pc + 32 * off.signExtend 64)
       else if s.sreg 55 ≠ 0 then ((s.landS 55 1 (s.sreg 55 - 1)).landS 51 1 ((2 * s.sreg 51) &&& 0xFFFF)).branch (s.rs.pc + 32 * off.signExtend 64)
       else s) := by
  rw [exec_scalar rfl turn op, popped, operands_bloop, ← bundleOffset_eq, ← double_eq]; rfl

/-- Settles O6: each case of the instruction's meaning, with its target (`bundleOffset_eq`) and its check (`targetTrap_none`, `targetTrap_some`). -/
theorem branches : Obligations.Branches := by
  unfold Obligations.Branches
  intro s g a off turn goes rel t far
  have hfar : arg (operands [a] s).1 0 + bundleOffset off = far := by rw [bundleOffset_eq]; rfl
  refine ⟨fun op => ⟨?br, ?call⟩, fun op => ⟨fun c taken hc => ?cond, fun al => ⟨?jmp, ?callRegister⟩, fun mis => ⟨?jmpTrap, ?callTrap⟩⟩,
    fun op => ⟨fun al => ?ret, fun mis => ?retTrap⟩, fun op => ?bloop⟩
  case br =>
    rw [exec_scalar (srcs := []) (act := fun _ s => s.branch (s.rs.pc + bundleOffset off)) rfl turn op, bundleOffset_eq]; rfl
  case call =>
    rw [exec_scalar (act := fun _ s => (s.landS 49 1 (s.rs.pc + 32)).branch (s.rs.pc + bundleOffset off)) rfl turn op, bundleOffset_eq]; rfl
  case cond =>
    obtain ⟨conditional, iff⟩ := brCond_iff hc (src [a] s 0)
    rw [exec_br_of_cond conditional turn op]
    exact ⟨fun yes => by rw [if_pos (iff.mpr yes)]; rfl, fun no => by rw [if_neg (mt iff.mp no)]⟩
  case jmp => rw [← hfar] at al ⊢; rw [exec_scalar_act rfl turn op (targetTrap_none al) rfl]; rfl
  case callRegister =>
    rw [← hfar] at al ⊢; rw [exec_scalar_act rfl turn op (targetTrap_none al) rfl, ← popped_rs [a] s]; rfl
  case jmpTrap => exact exec_scalar_trap rfl turn op (by rw [hfar]; exact targetTrap_some mis)
  case callTrap => exact exec_scalar_trap rfl turn op (by rw [hfar]; exact targetTrap_some mis)
  case ret =>
    have e : operands [49] s = ([s.sreg 49], s) := operands_plain _ s (by decide)
    rw [exec_scalar_act rfl turn op (by rw [e]; exact targetTrap_none al) rfl, popped, e]; rfl
  case retTrap =>
    have e : operands [49] s = ([s.sreg 49], s) := operands_plain _ s (by decide)
    exact exec_scalar_trap rfl turn op (by rw [e]; exact targetTrap_some mis)
  case bloop =>
    rw [exec_bloop_eq turn op]
    refine ⟨fun lc => ?_, fun lc ec => ?_, fun lc ec => ?_⟩
    · rw [if_pos lc]; rfl
    · rw [if_neg (not_not.mpr lc), if_pos ec]; rfl
    · rw [if_neg (not_not.mpr lc), if_neg (not_not.mpr ec)]

/-! ## TRAP and SVC (R246, R378) -/

/-- Trap entry changes no register of either set (R246). -/
theorem enterTrap_get (s : State) (x : Trap) (n : SReg) :
    (s.enterTrap x).ctx.rs.get (s.enterTrap x).ctx n = s.ctx.rs.get s.ctx n
      ∧ (s.enterTrap x).sup.get (s.enterTrap x).ctx n = s.sup.get s.ctx n := by
  obtain ⟨flights, reqs, e⟩ := freeze_eq s.ctx.rs (x :: s.pending)
  simp only [State.enterTrap, e]
  exact ⟨rfl, rfl⟩

/-- TRAP and SVC take the trap of their cause, which resumes at the following bundle. -/
theorem exec_trapCode {i : Instr} {s : State} {g : Guard} {cause : Cause} {code : BitVec 16} (turn : Turn g s) (user : s.mode = .u)
    (other : cause ≠ .mchk) (means : meaningOf i = some (g, meaningTrap cause code)) :
    exec i s = .next (s.enterTrap { mkTrap cause 0 (code.setWidth 64) with tepc := some (s.rs.pc + 32) }) := by
  rw [exec_scalar_trap means turn (operable_nil s) rfl]
  simp [State.raise, user, State.lostMet, mkTrap, other]

/-- The whole record and state that a bundle's trap with an address of its own leaves in S mode. -/
theorem enterTrap_bundle {s : State} (user : s.mode = .u) (cause : Cause) (v next : Word) :
    let t := s.enterTrap { mkTrap cause 0 v with tepc := some next }
    t.mode = .s ∧ t.sup.pc = s.trap.tvec.setWidth 64 ∧ t.trap.tcause = cause.code.setWidth 16 ∧ t.trap.tepc = next.setWidth 48
      ∧ t.trap.tbaddr = s.rs.pc.setWidth 48 ∧ t.trap.ttick = BitVec.ofNat 64 s.rs.tick ∧ t.trap.tval = v ∧ t.trap.busy = true := by
  have code : tcauseOf { mkTrap cause 0 v with tepc := some next } = cause.code.setWidth 16 := by
    cases cause <;> simp only [tcauseOf, mkTrap] <;> rfl
  simp only [State.rs, user]
  exact ⟨rfl, rfl, code, rfl, rfl, rfl, rfl, rfl⟩

/-- Settles O7: both are the entry of a bundle's trap (`exec_trapCode`), whose record `enterTrap_bundle` reads. -/
theorem trapAndSvc : Obligations.TrapAndSvc := by
  unfold Obligations.TrapAndSvc
  intro s g code turn user p hp
  obtain ⟨cause, other, means, hcode⟩ : ∃ cause, cause ≠ Cause.mchk ∧ meaningOf p.1 = some (g, meaningTrap cause code)
      ∧ cause.code.setWidth 16 = p.2 := by
    simp only [List.mem_cons, List.not_mem_nil, or_false] at hp
    rcases hp with rfl | rfl
    · exact ⟨.trap, by decide, rfl, rfl⟩
    · exact ⟨.svc, by decide, rfl, rfl⟩
  obtain ⟨mode, pc, tcause, tepc, tbaddr, ttick, tval, busy⟩ := enterTrap_bundle user cause (code.setWidth 64) (s.rs.pc + 32)
  exact ⟨_, exec_trapCode turn user other means, mode, pc, tcause.trans hcode, tepc, tbaddr, ttick, tval, busy, rfl, rfl, rfl, rfl,
    fun n => (enterTrap_get s _ n).1, fun n => (enterTrap_get s _ n).2, freeze_h .., rfl, rfl, rfl, rfl⟩

/-! ## EXIT, waits, arrivals and YIELD -/

/-- EXIT of either form begins its drain behind the combining buffer (R348). -/
theorem exec_exit {i : Instr} {s : State} {g : Guard} {n : BitVec 8} {leave : Bool} (turn : Turn g s) (user : s.mode = .u)
    (member : n.toNat ≤ s.ntask) (means : meaningOf i = some (g, meaningExit g n leave)) : ∃ t, exec i s = .next t
      ∧ t.ctx.rs.wait = .exitDrain n leave 0 ∧ t.ctx.rs.reqs = s.ctx.rs.reqs ++ s.comb ∧ t.comb = [] ∧ still t = still s := by
  obtain ⟨-, -, same⟩ := flushComb_still s
  refine ⟨_, exec_scalar_act means turn (operable_nil s) ?_ rfl, ?_, ?_, ?_, (still_wait s.flushComb (.exitDrain n leave 0)).trans same⟩
  · simp [user, not_lt.mpr member]
  all_goals simp only [popped, operands, State.flushComb, State.setRs, State.rs, user]

theorem counterReached_of_nonneg {ec target : BitVec 32} (h : 0 ≤ (ec - target).toInt) : counterReached ec target = true := by
  rw [counterReached, BitVec.msb_eq_toInt, decide_eq_false (not_lt.mpr h)]; rfl

/-- WAITC's target is formed from the low 32 bits (R393). -/
theorem waitcTarget (v : Word) (imm : BitVec 30) : (v + imm.setWidth 64).setWidth 32 = v.setWidth 32 + imm.setWidth 32 := by
  rw [BitVec.setWidth_add _ _ (by decide), BitVec.setWidth_setWidth_of_le _ (by decide)]

/-- With nothing sent and nothing combined before it, WAITM goes on where its condition holds. -/
theorem waitmHolds_false {s : State} {a comparand : Word} {n : Nat} {scope : Scope} {cc : Cond} {p : Pa} (quiet : s.liveReqs = [])
    (bare : s.comb = []) (place : s.waitmPlace a n = .ok p) (true' : waitmTrue cc n (s.numPa p.pa.toNat n) comparand.toNat = true) :
    s.waitmHolds a comparand n scope cc = false := by
  simp [State.waitmHolds, quiet, bare, place, true']

/-- A level that has a domain is one of the six that a context keeps (R44). -/
theorem level_lt_of_levelOk {c : Ctx} {l : BitVec 3} (h : c.levelOk l = true) : l.toNat < 6 := by
  by_contra above
  have : ∀ l : BitVec 3, ¬ l.toNat < 6 → l = 6 ∨ l = 7 := by decide
  rcases this l above with rfl | rfl <;> simp [Ctx.levelOk] at h

/-- SYNC's hold and the arrival change the domains and what the core holds for alone. -/
theorem arriveNow_still (u : State) (l : BitVec 3) (sync : Bool) :
    still { u.arriveNow l sync with ctx := { (u.arriveNow l sync).ctx with doms := u.ctx.doms } } = still u := by
  cases sync
  · rfl
  · cases mode : u.mode <;> simp only [State.arriveNow, State.arrive, State.setRs, State.rs, still, stillSet, mode, Ctx.updDom, if_true]

theorem arriveNow_doms (u : State) (l : BitVec 3) (sync : Bool) : (u.arriveNow l sync).ctx.doms = (u.arrive l).ctx.doms := by
  cases sync
  · rfl
  · cases mode : (u.arrive l).mode <;> simp [State.arriveNow, State.setRs, mode]

theorem arriveNow_comb (u : State) (l : BitVec 3) (sync : Bool) : (u.arriveNow l sync).comb = u.comb := by
  cases sync
  · rfl
  · simp [State.arriveNow, State.arrive]

/-- Sending the combining buffer leaves the domains of the context. -/
theorem flushComb_doms (s : State) : s.flushComb.ctx.doms = s.ctx.doms ∧ s.flushComb.ctx.csr = s.ctx.csr ∧ s.flushComb.comb = [] := by
  cases mode : s.mode <;> simp [State.flushComb, State.setRs, mode]

/-- SYNC and ARRIVE of a member that is not ahead add its arrival at the level; SYNC then holds for the phase (R42, R43). -/
theorem exec_arrive {i : Instr} {s : State} {g : Guard} {sync : Bool} {l : BitVec 3} (turn : Turn g s) (level : l = s.ctx.slvl)
    (ok : s.ctx.levelOk l = true) (near : (s.ctx.dom l).own < 2) (means : meaningOf i = some (g, meaningArrive sync)) :
    ∃ t, exec i s = .next t ∧ (t.ctx.dom l).own = (s.ctx.dom l).own + 1 ∧ t.comb = []
      ∧ (sync = true → t.rs.wait = .phase l ((s.ctx.dom l).phc + BitVec.ofNat 32 (s.ctx.dom l).own + 1))
      ∧ still { t with ctx := { t.ctx with doms := s.ctx.doms } } = still s := by
  subst level
  obtain ⟨-, -, same⟩ := flushComb_still s
  obtain ⟨doms, csr, comb⟩ := flushComb_doms s
  have slvl : s.flushComb.ctx.slvl = s.ctx.slvl := by rw [Ctx.slvl, csr, ← Ctx.slvl]
  have dom : s.flushComb.ctx.dom s.ctx.slvl = s.ctx.dom s.ctx.slvl := by rw [Ctx.dom, doms, ← Ctx.dom]
  have ahead : s.flushComb.ctx.phaseAhead s.ctx.slvl = false := by simp [Ctx.phaseAhead, dom]; omega
  have acts : exec i s = .next (s.flushComb.arriveNow s.ctx.slvl sync) := by
    rw [exec_scalar_act means turn (operable_nil s) (by simp [ok]) rfl]
    simp [popped, operands, slvl, ahead]
  refine ⟨_, acts, ?own, by rw [arriveNow_comb, comb], ?wait, ?still⟩
  case own =>
    rw [Ctx.dom, arriveNow_doms, ← Ctx.dom, State.arrive, updDom_dom _ (level_lt_of_levelOk ok), dom]
  case wait => rintro rfl; simp [State.arriveNow, dom]
  case still => rw [← doms, arriveNow_still, same]

/-- YIELD asks for the switch in U mode alone, where a context as high is ready (R395). -/
theorem exec_yield {s : State} {g : Guard} (turn : Turn g s) : exec (.yield g) s = .next
    (if s.mode == .u && s.parked.any (fun c => s.wakes c && decide (s.ctx.effClass ≤ c.effClass)) then s.setRs { s.rs with wait := .yield } else s) :=
  exec_scalar (i := .yield g) rfl turn (operable_nil s)

/-- Settles O8: EXIT, WAITC, WAITM, the two arrivals and YIELD, each by its meaning at issue. -/
theorem exitWaitsAndArrivals : Obligations.ExitWaitsAndArrivals := by
  unfold Obligations.ExitWaitsAndArrivals
  intro s g turn fresh
  refine ⟨fun user => ⟨fun n member => exec_exit turn user member rfl, exec_exit turn user (Nat.zero_le _) rfl⟩, ?waitc, ?waitm,
    fun ok near => ⟨?arrive, ?sync⟩, fun none_ready => ?stay, fun user c mem wakes class' => ?yield⟩
  case waitc =>
    intro n a imm op reached
    rw [← waitcTarget] at reached
    exact exec_scalar_act (act := fun _ s => s.acquireL1) rfl turn op rfl (congrArg not (counterReached_of_nonneg reached))
  case waitm =>
    intro data base disp size scope cc p op quiet bare place met
    have e : s.waitmPlace (effAddr (arg (operands [base, data] s).1 0) disp) (sizeBytes size) = .ok p := place
    rw [exec_slot (m := meaningWaitm data base disp size scope cc) rfl, meaningWaitm, runSlot_scalar turn op]
    · rfl
    · simp only [e]
    · exact waitmHolds_false quiet bare place met
  case arrive =>
    obtain ⟨t, acts, own, comb, -, same⟩ := exec_arrive (i := .arrive g) turn rfl ok near rfl
    exact ⟨t, acts, own, comb, same⟩
  case sync =>
    obtain ⟨t, acts, own, -, wait, same⟩ := exec_arrive (i := .sync g) turn rfl ok near rfl
    exact ⟨t, acts, own, wait rfl, same⟩
  case stay =>
    have nobody : s.parked.any (fun c => s.wakes c && decide (s.ctx.effClass ≤ c.effClass)) = false := by
      rw [List.any_eq_false]
      intro c mem
      rcases none_ready c mem with h | h <;> simp [h]
    rw [exec_yield turn, nobody, Bool.and_false]; rfl
  case yield =>
    have somebody : s.parked.any (fun c => s.wakes c && decide (s.ctx.effClass ≤ c.effClass)) = true :=
      List.any_eq_true.mpr ⟨c, mem, by simp [wakes, class']⟩
    rw [exec_yield turn, somebody, user]; rfl

end Sys2Proof.Proofs
/-! # Control and status registers (chapter 17): which accesses a mode may make, and what a landed write leaves -/

namespace Sys2Proof.Proofs

open Sys2Proof Sys2Proof.Machine Sys2Proof.Claims Sys2Proof.Laws

/-! ## Access (R342) -/

theorem csrUReads_iff (k : Nat) : csrUReads k = true ↔
    k ≠ 0x050 ∧ ¬(0x210 ≤ k ∧ k ≤ 0x216) ∧ k ≠ 0x324 ∧ ¬(0x500 ≤ k ∧ k ≤ 0x50B) ∧ k < 0xF00 := by
  simp [csrUReads]; omega

theorem csrUWrites_iff (k : Nat) : csrUWrites k = true ↔
    k = 0x008 ∨ k = 0x010 ∨ (0x030 ≤ k ∧ k ≤ 0x033) ∨ k = 0x052 ∨ k = 0x053 ∨ (0x200 ≤ k ∧ k ≤ 0x20F) := by
  simp [csrUWrites]; tauto

theorem csrUReads_lt {k : Nat} (h : csrUReads k = true) : k < 0xF00 := ((csrUReads_iff k).mp h).2.2.2.2

theorem csrUWrites_lt {k : Nat} (h : csrUWrites k = true) : k < 0xF00 := by
  have := (csrUWrites_iff k).mp h; omega

/-- A read is made where the mode may read the register, and traps with PRIV elsewhere. -/
theorem csrTrap_read (s : State) (n : BitVec 12) : csrTrap s false false n =
    if s.mode = .u ∧ csrUReads n.toNat = true ∨ s.mode = .s ∧ n.toNat < 0xF00 then none else some (mkTrap .priv 0 (n.setWidth 64)) := by
  cases mode : s.mode
  · by_cases h : csrUReads n.toNat = true
    · simp [csrTrap, mode, h, csrUReads_lt h]
    · simp [csrTrap, mode, h]
  · by_cases h : n.toNat < 0xF00 <;> simp [csrTrap, mode, h]

/-- A write likewise; U mode may clear the full bits of the mailboxes besides (R76). -/
theorem csrTrap_write (s : State) (clear : Bool) (n : BitVec 12) : csrTrap s true clear n =
    if s.mode = .u ∧ (csrUWrites n.toNat = true ∨ clear = true ∧ n.toNat = 0x040) ∨ s.mode = .s ∧ n.toNat < 0xF00 then none
    else some (mkTrap .priv 0 (n.setWidth 64)) := by
  cases mode : s.mode
  · by_cases h : csrUWrites n.toNat = true
    · simp [csrTrap, mode, h, csrUWrites_lt h]
    · by_cases m : clear = true ∧ n.toNat = 0x040
      · simp [csrTrap, mode, m]
      · simp [csrTrap, mode, h, m]
  · by_cases h : n.toNat < 0xF00 <;> simp [csrTrap, mode, h]

/-- A CSR write that traps does so on its own. -/
theorem exec_csrWrite_priv {i j : Instr} {s : State} {g : Guard} {op : CsrOp} {a : SReg} {n : BitVec 12} (turn : Turn g s) (reads : Operable [a] [] s)
    (means : meaningOf i = some (g, meaningCsrWrite op a n j)) {x : Trap} (trap : csrTrap s true (op == .clear) n = some x) :
    exec i s = .next (s.raise x) :=
  exec_scalar_trap means turn reads (by simp only [trap])

/-- One that does not lands at t + 1 (R341). -/
theorem exec_csrWrite_lands {i j : Instr} {s : State} {g : Guard} {op : CsrOp} {a : SReg} {n : BitVec 12} (turn : Turn g s) (reads : Operable [a] [] s)
    (means : meaningOf i = some (g, meaningCsrWrite op a n j)) (trap : csrTrap s true (op == .clear) n = none)
    (run : n = 0x052 → feopTrap s (csrCombine op 0 (src [a] s 0)) j = none) :
    exec i s = .next ((popped [a] s).inFlight 1 (.csr op n (src [a] s 0))) := by
  refine exec_scalar_act (act := fun vs s => s.inFlight 1 (.csr op n (arg vs 0))) means turn reads ?_ rfl
  simp only [trap]
  split
  next feop => exact run feop
  next => rfl

/-- FEOP of an empty operation, or of a run within the allocation, is no misuse (R117). -/
theorem feopTrap_none {s : State} {v : Word} {i : Instr}
    (h : v.toNat / 2 ^ 62 = 0 ∨ v.toNat / 2 ^ 62 < 3 ∧ v.toNat % 2 ^ 18 + v.toNat / 2 ^ 24 % 2 ^ 20 ≤ s.ctx.spmBanks * 8192) :
    feopTrap s v i = none := by
  have op : (v.extractLsb' 62 2).toNat = v.toNat / 2 ^ 62 := by
    simp only [BitVec.extractLsb'_toNat, Nat.shiftRight_eq_div_pow]; omega
  have first : (v.extractLsb' 0 18).toNat = v.toNat % 2 ^ 18 := by simp [BitVec.extractLsb'_toNat]
  have count : (v.extractLsb' 24 20).toNat = v.toNat / 2 ^ 24 % 2 ^ 20 := by
    simp only [BitVec.extractLsb'_toNat, Nat.shiftRight_eq_div_pow]
  have three : v.extractLsb' 62 2 ≠ (3 : BitVec 2) := fun e => by
    have : v.toNat / 2 ^ 62 = 3 := by rw [← op, e]; rfl
    omega
  have inside : ¬ (v.extractLsb' 62 2 ≠ (0 : BitVec 2) ∧ (v.extractLsb' 24 20).toNat ≠ 0
      ∧ s.ctx.granules < (v.extractLsb' 0 18).toNat + (v.extractLsb' 24 20).toNat) := by
    rintro ⟨some_op, -, beyond⟩
    have : v.toNat / 2 ^ 62 ≠ 0 := fun z => some_op (BitVec.eq_of_toNat_eq (op.trans z))
    rw [first, count, Ctx.granules] at beyond
    omega
  simp only [feopTrap]
  rw [if_neg three, if_neg inside]

/-- Settles O11: `csrTrap_read` and `csrTrap_write` are the whole of R342; what traps and what lands follows. -/
theorem csrAccess : Obligations.CsrAccess := by
  unfold Obligations.CsrAccess
  intro s g d a n turn k uReads uWrites priv
  refine ⟨fun op => ⟨fun may => ?_, fun may => ?_⟩, fun op => ?_⟩
  · have pass : csrTrap s false false n = none := by simp only [csrTrap_read, csrUReads_iff]; exact if_pos may
    exact exec_scalar_act (act := fun _ s => s.landS d 2 (csrRead s n)) rfl turn op pass rfl
  · exact exec_scalar_trap rfl turn op (by simp only [csrTrap_read, csrUReads_iff]; exact if_neg may)
  intro v lands may
  have notFeop {f : Prop} (k' : k ≠ 0x052) : n = 0x052 → f := fun e => absurd (congrArg BitVec.toNat e) k'
  have pass {o : CsrOp} (h : may) : csrTrap s true (o == .clear) n = none := by
    simp only [csrTrap_write, csrUWrites_iff]
    exact if_pos (h.imp_left fun ⟨user, w⟩ => ⟨user, .inl w⟩)
  have bar {o : CsrOp} (h : ¬ may) (other : o ≠ .clear) : csrTrap s true (o == .clear) n = some (mkTrap .priv 0 (n.setWidth 64)) := by
    simp only [csrTrap_write, csrUWrites_iff, beq_iff_eq, other, false_and, or_false]
    exact if_neg h
  refine ⟨fun h k' => ⟨?_, ?_⟩, fun h k' => ?_, fun h => ⟨?_, ?_⟩, fun h => ?_, fun k' run => ?_⟩
  · exact exec_csrWrite_lands turn op rfl (pass h) (notFeop k')
  · exact exec_csrWrite_lands turn op rfl (pass h) (notFeop k')
  · exact exec_csrWrite_lands turn op rfl (by
      simp only [csrTrap_write, csrUWrites_iff, beq_self_eq_true, true_and]; exact if_pos (by tauto)) (notFeop k')
  · exact exec_csrWrite_priv turn op rfl (bar h (by decide))
  · exact exec_csrWrite_priv turn op rfl (bar h (by decide))
  · exact exec_csrWrite_priv turn op rfl (by
      simp only [csrTrap_write, csrUWrites_iff, beq_self_eq_true, true_and]; exact if_neg (by tauto))
  · have here : may := by
      cases mode : s.mode
      · exact .inl ⟨mode, by omega⟩
      · exact .inr ⟨mode, by omega⟩
    exact exec_csrWrite_lands turn op rfl (pass here) fun _ => feopTrap_none run

/-! ## What a landed write leaves (R341, R343) -/

/-- U mode stores no supervisor register (Table 12.2). -/
theorem csrStore_user {s : State} (user : s.mode = .u) {n : Nat} (h : 0x210 ≤ n) (v : Word) : s.csrStore n v = s := by
  simp only [State.csrStore]
  repeat rw [if_neg (by omega)]
  repeat rw [dif_neg (by omega)]
  rw [user]

/-- Counter `k` is the register of number 0x208 + k (Table 9.2). -/
theorem counterNumber (k : Fin 8) : (0x208 + BitVec.ofNat 12 k : BitVec 12).toNat = 0x208 + k := by
  revert k; decide

theorem csrValue_counter (s : State) (c : Ctx) (k : Fin 8) : csrValue s c (0x208 + k) = c.ec[k].setWidth 64 := by
  have read : csrValue s c (0x208 + k) = (c.ec.toList.getD (0x208 + k - 0x208) 0).setWidth 64 := by
    fin_cases k <;> rfl
  rw [read, Nat.add_sub_cancel_left]
  simp

theorem csrStore_counter (s : State) (k : Fin 8) (v : Word) :
    s.csrStore (0x208 + k) v = { s with ctx := { s.ctx with ec := s.ctx.ec.set k (v.setWidth 32) } } := by
  fin_cases k <;> rfl

/-- U mode writes SLVL of DMR alone: the group point that binds the core stays, and with it the limit (R40, R265). -/
theorem limit_dmrStore (s : State) (v : Word) : (s.updCsr fun k => { k with dmr := dmrStore .u k.dmr v }).limit = s.limit := by
  have high : (dmrStore .u s.ctx.csr.dmr v).extractLsb' 48 16 = s.ctx.csr.dmr.extractLsb' 48 16 := by
    have keep : (~~~7#64).extractLsb' 48 16 = BitVec.allOnes 16 := by decide
    have drop : (7#64).extractLsb' 48 16 = 0#16 := by decide
    rw [dmrStore, BitVec.extractLsb'_or, BitVec.extractLsb'_and, BitVec.extractLsb'_and, keep, drop, BitVec.and_allOnes, BitVec.and_zero,
      BitVec.or_zero]
  simp only [State.limit, State.ceiling, State.groupLimit, State.updCsr, Ctx.groupPoint, high]
  rfl

/-- A core within its limit stays at its point. -/
theorem applyCeiling_of_within {s : State} (h : s.power.reach ≤ s.limit) : s.applyCeiling = s := by
  simp [State.applyCeiling, BitVec.not_lt.mpr h]

/-- U mode writes SLVL of DMR, and the core goes on at its point where it is within its limit. -/
theorem csrStore_dmr_user {s : State} (user : s.mode = .u) (v : Word) : ∃ p, s.csrStore 0x010 v =
    { s with power := p, ctx := { s.ctx with csr := { s.ctx.csr with dmr := (s.ctx.csr.dmr &&& ~~~7#64) ||| (v &&& 7#64) } } }
      ∧ (s.power.reach ≤ s.limit → p = s.power) := by
  have store : s.csrStore 0x010 v = (s.updCsr fun k => { k with dmr := dmrStore s.mode k.dmr v }).applyCeiling := rfl
  have limit := limit_dmrStore s v
  rw [user] at store
  generalize written : (s.updCsr fun k => { k with dmr := dmrStore .u k.dmr v }) = u at store limit
  obtain ⟨p, e⟩ := applyCeiling_eq u
  refine ⟨p, by rw [store, e, ← written]; rfl, fun low => ?_⟩
  have reach : u.power = s.power := by rw [← written]; rfl
  have stays : u.applyCeiling = u := applyCeiling_of_within (by rw [reach, limit]; exact low)
  rw [← reach, ← stays, e]

/-- Settles O12: the stored fields by `csrStore`, register by register. -/
theorem csrWritesLand : Obligations.CsrWritesLand := by
  unfold Obligations.CsrWritesLand
  intro s op v comb lands
  have hc : comb = fun old => csrCombine op old v := by cases op <;> rfl
  clear_value comb
  subst hc
  refine ⟨rfl, fun user => ?_, rfl, rfl, rfl, fun k => ?_, fun user n h => csrStore_user user h _, fun sup => ?_⟩
  · exact csrStore_dmr_user user (csrCombine op s.ctx.csr.dmr v)
  · show s.csrStore (0x208 + BitVec.ofNat 12 k : BitVec 12).toNat (csrCombine op (csrValue s s.ctx (0x208 + BitVec.ofNat 12 k : BitVec 12).toNat) v) = _
    rw [counterNumber, csrValue_counter, csrStore_counter]
  · have stores (n : BitVec 12) : lands n = s.csrStore n.toNat (csrCombine op (csrValue s s.ctx n.toNat) v) := rfl
    simp only [stores]
    cases s
    cases sup
    refine ⟨rfl, rfl, ?_, rfl, rfl⟩
    rintro c rfl
    rfl

end Sys2Proof.Proofs
/-! # Scalar floating point (chapter 18): SRND in S mode -/

namespace Sys2Proof.Proofs

open Sys2Proof Sys2Proof.Machine Sys2Proof.Claims Sys2Proof.Laws

/-- The supervisor runs, and the trapped context has a random word queued. -/
def supervisorWithWord : State := { State.reset with mode := .s, ctx := { Ctx.reset with rngq := [0] } }

/-- SRND is out of the supervisor's reach: its FCVT traps with QUEUE and names rngq (R246, R354). -/
theorem exec_fcvt_srnd_supervisor {s : State} {g : Guard} {d a : SReg} {dst src : EType} {nsat : Bool} (turn : Turn g s)
    (reads : Operable [a] [d] s) (sup : s.mode = .s) :
    exec (.fcvt g d a dst src nsat .srnd) s = .next (s.doubleTrap (mkTrap .queue 0 57)) := by
  rw [exec_slot (m := meaningFcvt d a dst src nsat .srnd) rfl, meaningFcvt,
    runSlot_trap turn (Nat.zero_le _) ((scalar_trap reads).trans (by rw [sup]; rfl))]
  simp [State.raise, sup, mkTrap]

/-- Refutes O4: its last clause lets FCVT with SRND pop rngq in either mode, but in S mode (`supervisorWithWord`) the instruction traps with QUEUE,
a double trap that ends in U mode, where the statement has the core go on in S mode. -/
theorem not_floatResults : ¬ Obligations.FloatResults := by
  unfold Obligations.FloatResults
  intro h
  have turn : Turn 0 supervisorWithWord := ⟨by decide +kernel, fun n => Wait.noConfusion⟩
  have reads : Operable [0] [0] supervisorWithWord := ⟨by decide, by decide, by decide, rfl⟩
  obtain ⟨-, -, -, convert⟩ := h supervisorWithWord 0 0 0 0 0 turn
  have claimed := (convert reads .f32 .f32 false .srnd).2 0 [] rfl rfl rfl
  rw [exec_fcvt_srnd_supervisor turn reads rfl, Host.Outcome.next.injEq] at claimed
  exact Mode.noConfusion (congrArg State.mode claimed : Mode.u = Mode.s)

end Sys2Proof.Proofs
/-! # What memory serves does not depend on what is sent: translation and order read neither results in flight, nor requests, nor queue entries -/

namespace Sys2Proof.Proofs

open Sys2Proof Sys2Proof.Machine Sys2Proof.Claims Sys2Proof.Laws

/-- A context but for what is in flight and for the entries of its pop ports. -/
def bareCtx (c : Ctx) : Ctx := { c with rs := stillSet c.rs, statq := [], rngq := [], sqevq := [], tapq := [], msgin := [] }

/-- A state but for what is in flight, the combining buffer, the request counter and the entries of the pop ports: what memory serves is a function of it. -/
def bare (s : State) : State := { s with comb := [], seq := 0, ctx := bareCtx s.ctx, sup := stillSet s.sup }

theorem bare_of_still {s t : State} (h : still t = still s) : bare t = bare s := by
  have keep : ∀ u : State, bare u =
    { still u with ctx := { (still u).ctx with statq := [], rngq := [], sqevq := [], tapq := [], msgin := [] } } := fun _ => rfl
  rw [keep, keep, h]

theorem bare_popped (srcs : List SReg) (s : State) : bare (popped srcs s) = bare s := by
  obtain ⟨_, _, _, _, _, e⟩ := popped_eq srcs s
  rw [e]; rfl

/-! ### Contexts and control registers -/

section
variable (s : State)

theorem bare_contexts : (bare s).contexts = if s.live then bareCtx s.ctx :: s.parked else s.parked := rfl

/-- A search of the contexts that looks at nothing the bare state leaves out finds the same one. -/
theorem bare_find {p : Ctx → Bool} (blind : p (bareCtx s.ctx) = p s.ctx) : (s.contexts.find? p = none ∧ (bare s).contexts.find? p = none)
    ∨ ∃ c, s.contexts.find? p = some c ∧ ((bare s).contexts.find? p = some c ∨ (bare s).contexts.find? p = some (bareCtx c)) := by
  rw [bare_contexts, State.contexts]
  by_cases live : s.live = true
  · rw [if_pos live, if_pos live, List.find?_cons, List.find?_cons, blind]
    cases p s.ctx with
    | true => exact .inr ⟨s.ctx, rfl, .inr rfl⟩
    | false =>
      cases h : s.parked.find? p with
      | none => exact .inl ⟨rfl, rfl⟩
      | some c => exact .inr ⟨c, rfl, .inl rfl⟩
  · rw [if_neg live, if_neg live]
    cases h : s.parked.find? p with
    | none => exact .inl ⟨rfl, rfl⟩
    | some c => exact .inr ⟨c, rfl, .inl rfl⟩

theorem bare_lookup (id : BitVec 16) : (s.findCtx id = none ∧ (bare s).findCtx id = none)
    ∨ ∃ c, s.findCtx id = some c ∧ ((bare s).findCtx id = some c ∨ (bare s).findCtx id = some (bareCtx c)) :=
  bare_find s rfl

theorem bare_bankCtx (b : Nat) : (s.bankCtx b = none ∧ (bare s).bankCtx b = none)
    ∨ ∃ c, s.bankCtx b = some c ∧ ((bare s).bankCtx b = some c ∨ (bare s).bankCtx b = some (bareCtx c)) := by
  have held : ((bare s).live && (bare s).ctx.bankHeld b) = (s.live && s.ctx.bankHeld b) := rfl
  rw [State.bankCtx, State.bankCtx, held]
  split
  · exact .inr ⟨s.ctx, rfl, .inr rfl⟩
  · exact bare_find s rfl

theorem bare_lwm : (bare s).lwm = s.lwm := by
  have stamps : (bare s).liveStamps = s.liveStamps := by
    rw [State.liveStamps, State.liveStamps, bare_contexts, State.contexts]
    by_cases live : s.live = true
    · rw [if_pos live, if_pos live]; rfl
    · rw [if_neg live, if_neg live]; rfl
  rw [State.lwm, stamps]; rfl

theorem bare_csrValue (c : Ctx) : csrValue (bare s) c = csrValue s c := by
  funext n
  rcases bare_lookup s (s.trap.ctxsel.extractLsb' 0 16) with ⟨h, h'⟩ | ⟨c', h, h' | h'⟩ <;>
    simp only [csrValue, bare_lwm, h, show (bare s).findCtx ((bare s).trap.ctxsel.extractLsb' 0 16) = _ from h'] <;> rfl

theorem csrValue_bareCtx (c : Ctx) : csrValue s (bareCtx c) = csrValue s c := rfl

/-! ### Bytes and translations -/

theorem bare_readWindow (fuel pa n : Nat) : (bare s).readWindow fuel pa n = s.readWindow fuel pa n := by
  induction fuel generalizing pa n with
  | zero => rfl
  | succ fuel ih => simp only [State.readWindow, ih]; rfl

theorem bare_readMem (pa n : Nat) : (bare s).readMem pa n = s.readMem pa n := by
  simp only [State.readMem, bare_readWindow]; rfl

theorem bare_readPa (pa n : Nat) : (bare s).readPa pa n = s.readPa pa n := by
  simp only [State.readPa, bare_readMem]
  cases placeOf pa with
  | window core off =>
    by_cases own : core = s.coreNum.toNat
    · have own' : core = (bare s).coreNum.toNat := own
      simp only [if_pos own, if_pos own']
      have window : (s.windowCtx = none ∧ (bare s).windowCtx = none)
          ∨ ∃ c, s.windowCtx = some c ∧ ((bare s).windowCtx = some c ∨ (bare s).windowCtx = some (bareCtx c)) := bare_lookup s s.wctx
      cases winPart off with
      | acm o => rcases bare_bankCtx s (o / acmBankBytes) with ⟨h, h'⟩ | ⟨c, h, h' | h'⟩ <;> simp only [h, h', bareCtx]
      | csr k o =>
        rcases window with ⟨h, h'⟩ | ⟨c, h, h' | h'⟩
        · simp only [h, h']; rfl
        · simp only [h, h', bare_csrValue]
        · simp only [h, h', bare_csrValue, csrValue_bareCtx]
      | spm o => rcases window with ⟨h, h'⟩ | ⟨c, h, h' | h'⟩ <;> simp only [h, h'] <;> rfl
      | reg k o => rcases window with ⟨h, h'⟩ | ⟨c, h, h' | h'⟩ <;> simp only [h, h'] <;> rfl
      | unassigned =>
        rcases window with ⟨h, h'⟩ | ⟨c, h, h' | h'⟩
        · simp only [h, h']; rfl
        · simp only [h, h']
        · simp only [h, h']
    · have other : ¬ core = (bare s).coreNum.toNat := own
      simp only [if_neg own, if_neg other]; rfl
  | hbm => rfl
  | host => rfl
  | staging off => rfl
  | unassigned => rfl

theorem bare_numPa (pa n : Nat) : (bare s).numPa pa n = s.numPa pa n := by
  rw [State.numPa, bare_readPa, State.numPa]

theorem bare_walk (va : Nat) (ls : List (Nat × Nat)) (tab : Nat) : (bare s).walk va ls tab = s.walk va ls tab := by
  induction ls generalizing tab with
  | nil => rfl
  | cons x ls ih => simp only [State.walk, bare_numPa, ih]

theorem bare_leafIn (atp : Word) (va : Nat) : (bare s).leafIn atp va = s.leafIn atp va := by
  simp only [State.leafIn, bare_walk]; rfl

theorem bare_versionedAt (va : Word) : (bare s).versionedAt va = s.versionedAt va := by
  simp only [State.versionedAt, bare_leafIn]; rfl

theorem bare_physIn (atp va : Word) : (bare s).physIn atp va = s.physIn atp va := by
  rw [State.physIn, bare_leafIn, State.physIn]

end

/-! ### What two states that differ in nothing else have alike -/

theorem versionedAt_of_bare {s t : State} (h : bare t = bare s) (va : Word) : t.versionedAt va = s.versionedAt va := by
  rw [← bare_versionedAt, h, bare_versionedAt]

theorem physIn_of_bare {s t : State} (h : bare t = bare s) (atp va : Word) : t.physIn atp va = s.physIn atp va := by
  rw [← bare_physIn, h, bare_physIn]

theorem blocks_of_bare {s t : State} (h : bare t = bare s) (q r : Req) : t.blocks q r = s.blocks q r := by
  have touches : ∀ x, t.touches x = s.touches x := fun x => by simp only [State.touches, physIn_of_bare h]
  simp only [State.blocks, State.overlap, touches]

/-- The memory system can perform the same requests. -/
theorem liveReqs_of_bare {s t : State} (h : bare t = bare s) (reqs : t.allReqs = s.allReqs) : t.liveReqs = s.liveReqs := by
  simp only [State.liveReqs, State.waits, reqs, blocks_of_bare h]

end Sys2Proof.Proofs
/-! # Handles and ports (chapters 17 and 18): fields, ring advances, waits on a handle, BIND and UNBIND of a port -/

namespace Sys2Proof.Proofs

open Sys2Proof Sys2Proof.Machine Sys2Proof.Claims Sys2Proof.Laws

/-! ## What a result put in flight, and a hold, leave -/

theorem still_inFlight (s : State) (lat : Nat) (a : Land) : still (s.inFlight lat a) = still s := by
  cases mode : s.mode <;> simp only [State.inFlight, State.setRs, State.rs, still, stillSet, mode]

theorem inFlight_last (s : State) (lat : Nat) (a : Land) :
    ∃ f, (s.inFlight lat a).rs.flights.getLast? = some f ∧ f.due = s.rs.tick + lat ∧ f.act = a := by
  simp

theorem inFlight_allReqs (s : State) (lat : Nat) (a : Land) : (s.inFlight lat a).allReqs = s.allReqs := by
  cases mode : s.mode <;> simp [State.inFlight, State.setRs, State.rs, mode, State.allReqs]

theorem setWait_allReqs (s : State) (w : Wait) : (s.setRs { s.rs with wait := w }).allReqs = s.allReqs := by
  cases mode : s.mode <;> simp [State.setRs, State.rs, mode, State.allReqs]

/-! ## Ring fields (R359) -/

/-- A field that has been replaced reads as the value that fits it. -/
theorem setBits_extract {n lo len v : Nat} (w : BitVec n) (h : lo + len ≤ n) (fits : v < 2 ^ len) :
    ((setBits w lo len v).extractLsb' lo len).toNat = v := by
  have e : (setBits w lo len v).extractLsb' lo len = BitVec.ofNat len v := by
    refine BitVec.eq_of_getLsbD_eq fun i hi => ?_
    rw [BitVec.getLsbD_extractLsb', setBits_getLsbD _ _ _ _ _ (by omega), if_pos (by omega), BitVec.getLsbD_ofNat, Nat.add_sub_cancel_left]
  rw [e, BitVec.toNat_ofNat, Nat.mod_eq_of_lt fits]

/-- Another field of the word reads as before. -/
theorem setBits_extract_other {n lo len lo' len' v : Nat} (w : BitVec n) (apart : lo + len ≤ lo' ∨ lo' + len' ≤ lo) (h : lo' + len' ≤ n) :
    (setBits w lo len v).extractLsb' lo' len' = w.extractLsb' lo' len' := by
  refine BitVec.eq_of_getLsbD_eq fun i hi => ?_
  rw [BitVec.getLsbD_extractLsb', BitVec.getLsbD_extractLsb', setBits_getLsbD _ _ _ _ _ (by omega), if_neg (by omega)]

/-- A ring that is not empty consumes slots at HEAD. -/
theorem ringPop_fields {v : Handle} {k : Nat} (slots : hNslot v ≠ 0) :
    hHead (ringPop k v) = (hHead v + k) % hNslot v ∧ hFilled (ringPop k v) = hFilled v - k := by
  have head : (hHead v + k) % hNslot v < 2 ^ 8 := lt_trans (Nat.mod_lt _ (by omega)) (v.extractLsb' 192 8).isLt
  have filled : hFilled v - k < 2 ^ 8 := lt_of_le_of_lt (Nat.sub_le _ _) (v.extractLsb' 216 8).isLt
  refine ⟨?_, ?_⟩
  · rw [ringPop, if_neg slots, hHead, setBits_extract_other _ (by decide) (by decide), setBits_extract _ (by decide) head]
  · rw [ringPop, if_neg slots, hFilled, setBits_extract _ (by decide) filled]

/-- One with room fills slots at TAIL. -/
theorem ringPush_fields {v : Handle} {k : Nat} (slots : hNslot v ≠ 0) (room : k + hFilled v ≤ hNslot v) :
    hTail (ringPush k v) = (hTail v + k) % hNslot v ∧ hFilled (ringPush k v) = hFilled v + k := by
  have tail : (hTail v + k) % hNslot v < 2 ^ 8 := lt_trans (Nat.mod_lt _ (by omega)) (v.extractLsb' 192 8).isLt
  have filled : hFilled v + k < 2 ^ 8 := lt_of_le_of_lt (Nat.add_comm k _ ▸ room) (v.extractLsb' 192 8).isLt
  refine ⟨?_, ?_⟩
  · rw [ringPush, if_neg slots, hTail, setBits_extract_other _ (by decide) (by decide), setBits_extract _ (by decide) tail]
  · rw [ringPush, if_neg slots, hFilled, setBits_extract _ (by decide) filled]

/-- HADV of a ring that nothing keeps, by no more slots than it has, is no misuse (R359). -/
theorem hadvTrap_none {s : State} {h : HReg} {tail : Bool} {k : Nat} (ok : handleOk (s.hreg h) = true) (ring : hKind (s.hreg h) = 2)
    (fields : ringOk (s.hreg h) = true) (port : s.portBound h = false) (copy : s.namedByCopy h = false)
    (drain : ∀ e ∈ s.ctx.allCalls, CallEntry.hd e ≠ some h) (call : tail = false → s.namedByCall h = false)
    (room : k ≤ if tail then hNslot (s.hreg h) - hFilled (s.hreg h) else hFilled (s.hreg h)) : hadvTrap h tail k s = none := by
  have undrained : (s.ctx.allCalls.any fun e => CallEntry.hd e == some h) = false := by
    rw [List.any_eq_false]; exact fun e mem => by simpa using drain e mem
  have uncalled : (!tail && s.namedByCall h) = false := by cases tail <;> simp [call]
  simp only [hadvTrap]
  rw [if_neg (by simp [ok, ring]), if_neg (by simp [fields]), if_neg (by simp [port, copy]), if_neg (by simp [undrained]), if_neg (by simp [uncalled]),
    if_neg (not_lt.mpr room)]

/-- The TAIL form releases: it holds for every request that has not been performed, and its fields land at t + 1. -/
theorem releases_then_lands (u : State) (fields : Land) :
    let ids := (u.flushComb.liveReqs.filter (·.reply.isNone)).map (·.id)
    let t := (u.flushComb.setRs { u.flushComb.rs with wait := .requests ids }).inFlight 1 fields
    t.rs.wait = .requests ids ∧ t.comb = [] ∧ still t = still u ∧ (∀ q ∈ t.liveReqs, q.reply = none → q.id ∈ ids)
      ∧ ∃ f, t.rs.flights.getLast? = some f ∧ f.due = u.rs.tick + 1 ∧ f.act = fields := by
  intro ids t
  obtain ⟨-, -, flushed⟩ := flushComb_still u
  obtain ⟨-, -, comb⟩ := flushComb_doms u
  have same : still t = still u.flushComb := (still_inFlight _ _ _).trans (still_wait _ _)
  have reqs : t.allReqs = u.flushComb.allReqs := (inFlight_allReqs _ _ _).trans (setWait_allReqs _ _)
  have tick : u.flushComb.rs.tick = u.rs.tick := by rw [State.flushComb, setRs_rs]
  refine ⟨by rw [inFlight_rs, setRs_rs], by rw [inFlight_comb, setRs_comb, comb], same.trans flushed, fun q mem open' => ?_, ?_⟩
  · rw [liveReqs_of_bare (bare_of_still same) reqs] at mem
    exact List.mem_map_of_mem (List.mem_filter.mpr ⟨mem, by rw [open']; rfl⟩)
  · have last := inFlight_last (u.flushComb.setRs { u.flushComb.rs with wait := .requests ids }) 1 fields
    rwa [setRs_rs, tick] at last

/-! ## Binding a port (R329, R330) -/

theorem bindKind_of {v : Handle} (ok : handleOk v = true) (kind : hKind v ∈ [1, 2, 5, 6, 8]) :
    ¬ (!handleOk v || !(hKind v == 1 || hKind v == 2 || hKind v == 5 || hKind v == 6 || hKind v == 8)) = true := by
  simp only [List.mem_cons, List.not_mem_nil, or_false] at kind
  rcases kind with k | k | k | k | k <;> simp only [ok, k] <;> decide

/-- No picked result lands later than the latest of all. -/
theorem lastDue_le {r : RegSet} {f : Land → Bool} {n : Nat} (h : ∀ x ∈ r.flights, x.due ≤ n) : r.lastDue f ≤ n := by
  have fold : ∀ (l : List Flight) (m : Nat), m ≤ n → (∀ x ∈ l, x.due ≤ n) → l.foldl (fun m x => max m x.due) m ≤ n := by
    intro l
    induction l with
    | nil => exact fun m hm _ => hm
    | cons x l ih => exact fun m hm hl => ih _ (max_le hm (hl x List.mem_cons_self)) fun y hy => hl y (List.mem_cons_of_mem _ hy)
  exact fold _ 0 (Nat.zero_le _) fun x mem => h x (List.mem_of_mem_filter mem)

/-! ## The obligation -/

/-- Settles O14: each form passes its checks at issue; the fields that HADV lands are those of the stepped ring (`ringPop_fields`, `ringPush_fields`). -/
theorem handlesAndPorts : Obligations.HandlesAndPorts := by
  unfold Obligations.HandlesAndPorts
  intro s g h turn v
  refine ⟨fun a f op free => ?hset, fun d f op => ?hget, ?hadv, fun ok ring => ?hwait, ?bind, ?unbind⟩
  case hset => exact exec_scalar_act (act := fun vs s => s.inFlight 1 (.hfield h f (arg vs 0))) rfl turn op free rfl
  case hget => exact exec_scalar (act := fun _ s => s.landS d 2 (getField (s.hreg h) f)) rfl turn op
  case hwait =>
    have pass : s.checkHandle 0 h = none := by
      rw [State.checkHandle, if_pos ok, ringTrap, if_pos ring]
    exact exec_scalar_act (act := fun _ s => s.setRs { s.rs with wait := .hwait h s.rs.pc }) rfl turn (operable_nil s) pass rfl
  case hadv =>
    intro a op ok ring port copy drain head tail filled
    have slots : hNslot v ≠ 0 := by omega
    have fields : ringOk v = true := by simp only [ringOk, Bool.or_eq_true, Bool.and_eq_true, decide_eq_true_eq]; exact .inr ⟨⟨head, tail⟩, filled⟩
    have same : (popped [a] s).hreg h = v := by rw [State.hreg, popped_rs]; rfl
    refine ⟨fun call few => ?_, fun room => ?_⟩
    · obtain ⟨h1, h2⟩ := ringPop_fields (k := (src [a] s 0).toNat) slots
      rw [exec_scalar_act rfl turn op (hadvTrap_none ok ring fields port copy drain (fun _ => call) few) rfl, ← h1, ← h2, ← same]; rfl
    · obtain ⟨h1, h2⟩ := ringPush_fields slots room
      have acts := exec_scalar_act (i := .hadvTail g h a) rfl turn op
        (hadvTrap_none ok ring fields port copy drain (fun no => Bool.noConfusion no) (Nat.le_sub_of_add_le room)) rfl
      obtain ⟨wait, comb, same', sent, last⟩ := releases_then_lands (popped [a] s) (.hadv h true ((hTail v + (src [a] s 0).toNat) % hNslot v)
        (hFilled v + (src [a] s 0).toNat))
      rw [popped_rs] at last
      refine ⟨_, _, acts.trans ?_, wait, comb, same', sent, last⟩
      rw [← h1, ← h2, ← same]; rfl
  case bind =>
    intro p wr peek user free ok ring kind version sole
    have others : (wr && s.ctx.ports.toList.any fun q => q.bound && q.wr && q.h == h) = false := by
      cases wr with
      | false => rfl
      | true =>
        rw [Bool.true_and, List.any_eq_false]
        intro q mem
        simpa using fun b w => sole rfl q mem b w
    have versions : (hVERS v && !(if wr then s.writerHandle v && !s.vbound h else s.vbound h)) = false := by
      by_cases vers : hVERS v = true
      · rw [version vers, Bool.not_true, Bool.and_false]
      · rw [eq_false_of_ne_true vers, Bool.false_and]
    have pass : bindTrap p h wr s = none := by
      simp only [bindTrap]
      rw [if_neg (by simp [user, free]), if_neg (bindKind_of ok kind), if_neg (by rw [others]; decide), if_neg (by rw [versions]; decide), ringTrap, if_pos ring]
    exact exec_scalar_act (act := fun _ s => s.inFlight 1 (.bindPort p h wr peek)) rfl turn (operable_nil s) pass rfl
  case unbind =>
    intro p user bound landed
    have run : exec (.unbindPort g p) s = runSlot g (meaningUnbindPort p) s := exec_slot rfl s
    have early : (meaningUnbindPort p).empty s ≤ s.rs.tick := lastDue_le fun f mem => by
      simpa [State.rs, user] using landed f (by simpa [State.rs, user] using mem)
    have pass : (meaningUnbindPort p).trap s = none := by simp [meaningUnbindPort, user, bound]
    rw [run, runSlot_act turn early pass rfl]
    refine ⟨_, rfl, ?_⟩
    simp only [meaningUnbindPort]
    have ports : (s.inFlight 1 (.unbindPort p)).ctx.ports = s.ctx.ports := inFlight_ctx_ports ..
    rw [ports]
    by_cases wr : s.ctx.ports[p.toNat].wr = true
    · rw [if_pos wr, if_pos wr]
      exact ⟨(still_wait _ _).trans (still_inFlight _ _ _), by rw [setRs_rs], by rw [setRs_rs]; exact inFlight_last ..⟩
    · rw [if_neg wr, if_neg wr]
      exact ⟨still_inFlight _ _ _, by rw [inFlight_rs], inFlight_last ..⟩

end Sys2Proof.Proofs
/-! # Matrix control (chapters 8, 17 and 18): MPSET, the regions of the accumulator memory, MLOAD, MASKLD and MCALL -/

namespace Sys2Proof.Proofs

open Sys2Proof Sys2Proof.Machine Sys2Proof.Claims Sys2Proof.Laws

/-- In U mode a bundle's trap other than MCHK is its entry. -/
theorem raise_user {s : State} (user : s.mode = .u) {x : Trap} (other : x.cause ≠ .mchk) : s.raise x = s.enterTrap x := by
  simp [State.raise, user, State.lostMet, other]

theorem sMatrixTrap_user {s : State} (user : s.mode = .u) (slot : BitVec 3) : sMatrixTrap s slot = none := by
  simp [sMatrixTrap, user]

/-- A region that is allocated is no misuse. -/
theorem unallocTrap_none {s : State} {k : BitVec 3} {r : Region} (user : s.mode = .u) (held : s.ctx.regions[k.toNat] = some r) :
    unallocTrap k s = none := by
  have h : s.ctx.region k = some r := held
  simp [unallocTrap, sMatrixTrap_user user, h]

theorem unallocTrap_some {s : State} {k : BitVec 3} (user : s.mode = .u) (free : s.ctx.regions[k.toNat] = none) :
    unallocTrap k s = some (acmTrap k) := by
  have h : s.ctx.region k = none := free
  simp [unallocTrap, sMatrixTrap_user user, h]

theorem popped_ctx (srcs : List SReg) (s : State) : (popped srcs s).ctx.kernel = s.ctx.kernel ∧ (popped srcs s).ctx.rs = s.ctx.rs := by
  obtain ⟨_, _, _, _, _, e⟩ := popped_eq srcs s
  rw [e]; exact ⟨rfl, rfl⟩

/-- Popping leaves the call queue and the accumulator memory. -/
theorem popped_matrix (srcs : List SReg) (s : State) : (popped srcs s).ctx.calls = s.ctx.calls ∧ (popped srcs s).ctx.freeBanks = s.ctx.freeBanks := by
  obtain ⟨_, _, _, _, _, e⟩ := popped_eq srcs s
  rw [e]; exact ⟨rfl, rfl⟩

theorem version_of_region {c : Ctx} {k : BitVec 3} {r : Region} (held : c.regions[k.toNat] = some r) : c.version k = r.version := by
  have h : c.region k = some r := held
  rw [Ctx.version, h]

/-- A slot instruction that holds leaves everything as it is. -/
theorem exec_scalar_hold {i : Instr} {g : Guard} {srcs dsts : List SReg} {tr : List Word → State → Option Trap} {ho : List Word → State → Bool}
    {act : List Word → State → State} {s : State} (hi : meaningOf i = some (g, Slot.scalar srcs dsts tr ho act)) (turn : Turn g s)
    (op : Operable srcs dsts s) (ht : tr (operands srcs s).1 s = none) (hh : ho (operands srcs s).1 s = true) : exec i s = .next s := by
  rw [exec_slot hi, runSlot_hold turn (Nat.zero_le _) (by rw [scalar_trap op, ht]) (by rw [scalar_hold op, hh])]

/-- ACQ of a free region and of banks that are free is no misuse (R318). -/
theorem meaningAcq_trap_none {s : State} {k : BitVec 3} {a : SReg} (user : s.mode = .u) (op : Operable [a] [] s) (uncalled : s.ctx.callNames k = false)
    (free : s.ctx.regions[k.toNat] = none) (some_bank : 1 ≤ (src [a] s 0).toNat) (most : (src [a] s 0).toNat ≤ 24)
    (room : (src [a] s 0).toNat ≤ s.ctx.freeBanks.length) : (meaningAcq k a).trap s = none := by
  have unheld : (s.ctx.region k).isSome = false := by
    have h : s.ctx.region k = none := free
    rw [h]; rfl
  have fine : ¬ ((src [a] s 0).toNat = 0 ∨ 24 < (src [a] s 0).toNat ∨ (s.ctx.region k).isSome = true ∨ s.ctx.freeBanks.length < (src [a] s 0).toNat) := by
    rw [unheld]; simp; omega
  rw [meaningAcq, scalar_trap op, sMatrixTrap_user user]
  exact (if_neg (uncalled ▸ Bool.false_ne_true)).trans (if_neg fine)

/-- MLOAD of an aligned address whose image passes its checks is no misuse (R170). -/
theorem meaningMload_trap_none {s : State} {a : SReg} {img : List (BitVec 32) × List (BitVec 64)} (user : s.mode = .u) (op : Operable [a] [] s)
    (idle : s.ctx.callCount = 0) (aligned : (src [a] s 0).toNat % 64 = 0) (image : s.readImage s.ctx.csr.atp (src [a] s 0) = .ok img) :
    (meaningMload a).trap s = none := by
  have fine : ¬ (src [a] s 0).toNat % 64 ≠ 0 := not_not_intro aligned
  rw [meaningMload, scalar_trap op, sMatrixTrap_user user]
  refine (if_neg (not_not_intro idle)).trans ((if_neg fine).trans ?_)
  have read : s.readImage s.ctx.csr.atp (arg (operands [a] s).1 0) = .ok img := image
  simp only [read]

/-- MASKLD's checks pass on a mask of 512 aligned bytes of the own SPM and a second operand of the form of R188. -/
theorem maskldTrap_none {s : State} {sa sb : Word} {i : Instr} (below : sb.toNat < 1024) (row : sb.toNat / 16 % 16 = 0)
    (col : sb.toNat / 2 % 8 ≤ 3) (aligned : sa.toNat % 64 = 0) (own : s.inOwnSpm sa 512 = true) : maskldTrap sa sb i s = none := by
  have low := low_of_inOwnSpm own
  rw [maskldTrap, if_neg (by omega), if_neg (not_not_intro low), if_neg (not_not_intro aligned), State.ownSpmTrap,
    if_neg (not_not_intro low), if_pos own]

/-- Whatever the control registers become, an image in the store leaves the registers: said apart, so that no check compares MSIMG's number. -/
theorem storedImage_rs (s : State) (tag : Nat) (csr : CtxCsr) (img : List (BitVec 32) × List (BitVec 64)) :
    ({ s with microTag := tag, ctx := { s.ctx with microTable := img.1, microWords := img.2, csr := csr } } : State).ctx.rs = s.ctx.rs := rfl

/-- The store's new contents and tag; memory and the registers stay. -/
theorem storeImage_leaves (s : State) (sa : Word) (img : List (BitVec 32) × List (BitVec 64)) :
    (s.storeImage sa img).ctx.microTable = img.1 ∧ (s.storeImage sa img).ctx.microWords = img.2 ∧ (s.storeImage sa img).microTag = s.ctx.kernel
      ∧ (s.storeImage sa img).mem = s.mem ∧ (s.storeImage sa img).ctx.rs = s.ctx.rs := by
  exact ⟨rfl, rfl, rfl, rfl, storedImage_rs s s.ctx.kernel { s.ctx.csr with msimg := msimgOf sa img.2.length } img⟩

/-- The store takes an image that passes its checks. -/
theorem mloadNow_stores {s : State} {a : SReg} {img : List (BitVec 32) × List (BitVec 64)}
    (image : (popped [a] s).readImage s.ctx.csr.atp (src [a] s 0) = .ok img) :
    (popped [a] s).mloadNow (operands [a] s).1 = (popped [a] s).storeImage (src [a] s 0) img := by
  have read : (popped [a] s).readImage (popped [a] s).ctx.csr.atp (arg (operands [a] s).1 0) = .ok img := by
    rw [popped_csr]; exact image
  simp only [State.mloadNow, read]; rfl

/-- MLOAD loads its image once no call is queued or runs (R170). -/
theorem exec_mload_stores {s : State} {g : Guard} {a : SReg} {img : List (BitVec 32) × List (BitVec 64)} (turn : Turn g s) (op : Operable [a] [] s)
    (idle : s.ctx.callCount = 0) (pass : (meaningMload a).trap s = none)
    (image : (popped [a] s).readImage s.ctx.csr.atp (src [a] s 0) = .ok img) :
    exec (.mload g a) s = .next ((popped [a] s).storeImage (src [a] s 0) img) := by
  have hold : (meaningMload a).hold s = false := by rw [meaningMload, scalar_hold op, idle]; rfl
  rw [exec_slot (m := meaningMload a) rfl, runSlot_act turn (Nat.zero_le _) pass hold, ← mloadNow_stores image]
  simp only [meaningMload, Slot.scalar, popped]

/-- Settles O16: in U mode each passes its checks at issue and adds or removes what it names. -/
theorem matrixControl : Obligations.MatrixControl := by
  unfold Obligations.MatrixControl
  intro s g k turn user
  have none_op := operable_nil s
  refine ⟨fun n a op => ?mpset, fun a op uncalled free some_bank most room => ?acq,
    fun r held => ⟨fun uncalled => ?arel, fun d op => ?aver, ?met, fun v other => ?unmet⟩, fun free v i mem => ?unheld, fun free d op => ?unread,
    fun a img op idle aligned here there => ?mload, fun a b op room below row col aligned own => ?maskld,
    fun r e pop bump ignv room rings => ?mcall⟩
  case mpset =>
    exact exec_scalar_act (act := fun vs s => s.inFlight 1 (.mp n (arg vs 0))) rfl turn op (sMatrixTrap_user user 0) rfl
  case acq =>
    have hold : (meaningAcq k a).hold s = false := by rw [meaningAcq, scalar_hold op, uncalled]
    rw [exec_slot (m := meaningAcq k a) rfl, runSlot_act turn (Nat.zero_le _)
      (meaningAcq_trap_none user op uncalled free some_bank most room) hold, ← (popped_matrix [a] s).2]
    rfl
  case arel =>
    exact exec_scalar_act (act := fun _ s => { s with ctx := { s.ctx with regions := s.ctx.regions.set k.toNat none } }) rfl turn none_op
      (unallocTrap_none user held) uncalled
  case aver =>
    rw [← version_of_region held]
    exact exec_scalar_act (act := fun _ s => s.landS d 2 ((s.ctx.version k).setWidth 64)) rfl turn op (unallocTrap_none user held) rfl
  case met =>
    exact exec_scalar_act (act := fun _ s => s.acquireL1) rfl turn none_op (unallocTrap_none user held)
      ((congrArg (· != r.version) (version_of_region held)).trans (bne_self_eq_false _))
  case unmet =>
    exact exec_scalar_hold rfl turn none_op (unallocTrap_none user held)
      ((congrArg (· != v) (version_of_region held)).trans (bne_iff_ne.mpr other.symm))
  case unheld =>
    simp only [List.mem_cons, List.not_mem_nil, or_false] at mem
    rw [← raise_user user (show Cause.acm ≠ .mchk by decide)]
    rcases mem with rfl | rfl
    · exact exec_scalar_trap rfl turn none_op (unallocTrap_some user free)
    · exact exec_scalar_trap rfl turn none_op (unallocTrap_some user free)
  case unread =>
    rw [← raise_user user (show Cause.acm ≠ .mchk by decide)]
    exact exec_scalar_trap rfl turn op (unallocTrap_some user free)
  case mload =>
    obtain ⟨table, words, tag, mem, rs⟩ := storeImage_leaves (popped [a] s) (src [a] s 0) img
    obtain ⟨kernel, rs'⟩ := popped_ctx [a] s
    exact ⟨_, exec_mload_stores turn op idle (meaningMload_trap_none user op idle aligned here) there, table, words, tag.trans kernel,
      mem.trans (popped_mem [a] s), rs.trans rs'⟩
  case maskld =>
    have pass : (meaningMaskld a b (.maskld g a b)).trap s = none := by
      rw [meaningMaskld, scalar_trap op, sMatrixTrap_user user]
      exact maskldTrap_none below row col aligned own
    have hold : (meaningMaskld a b (.maskld g a b)).hold s = false := by
      rw [meaningMaskld, scalar_hold op]; exact decide_eq_false (not_le.mpr room)
    rw [exec_slot (m := meaningMaskld a b (.maskld g a b)) rfl, runSlot_act turn (Nat.zero_le _) pass hold, ← (popped_matrix [a, b] s).1,
      ← popped_rs [a, b] s]
    rfl
  case mcall =>
    have pass : (meaningMcall r e k pop bump ignv).trap s = none := by
      simp only [meaningMcall, sMatrixTrap_user user]
      rw [List.findSome?_eq_none_iff]
      intro h mem
      rw [ringTrap, if_pos (rings h mem)]
    have hold : (meaningMcall r e k pop bump ignv).hold s = false := decide_eq_false (not_le.mpr room)
    rw [exec_slot (m := meaningMcall r e k pop bump ignv) rfl, runSlot_act turn (Nat.zero_le _) pass hold]; rfl

end Sys2Proof.Proofs
/-! # Vector instructions (chapter 19): the ports of a V slot, and its lane functions over the lanes' numbers -/

namespace Sys2Proof.Proofs

open Sys2Proof Sys2Proof.Machine Sys2Proof.Claims Sys2Proof.Laws

/-! ### The ports of a V slot -/

/-- An operand that names a port serves as the read of an X slot does. -/
theorem opd_serves {s : State} {srcs : List VOpd} {d : PortNo} (serves : ReadsAndPushes srcs d s) {a : VOpd} (named : a ∈ srcs)
    (port : a.toNat < 32) : ReadsAndPushes [(a.setWidth 5).setWidth 6] 31 s := by
  obtain ⟨user, reads, -⟩ := serves
  have same : (a.setWidth 5).setWidth 6 = a := by bv_omega
  refine ⟨user, fun b only below => ?_, fun no => absurd rfl no⟩
  rw [same, List.mem_singleton] at only
  subst only
  exact reads _ named below

/-- A port that takes one beat more does not trap the push. -/
theorem pushTrap_of_pushes {s : State} {d : PortNo} (user : s.mode = .u) (pushes : Pushes d s) (slot : BitVec 3) : s.pushTrap slot d 1 = none := by
  obtain ⟨bound, wr, ring, more, -⟩ := pushes
  simp [State.pushTrap, user, bound, wr, ringTrap, ring, more]

theorem vtrap_none {s : State} {srcs : List VOpd} {d : PortNo} (serves : ReadsAndPushes srcs d s) (k : VSlot) : vtrap k srcs d s = none := by
  have user : s.mode = .u := serves.1
  have read : ((srcs.filter isPortOpd).findSome? fun a => s.readTrap (vslotNo k) (a.setWidth 5)) = none := by
    refine List.findSome?_eq_none_iff.mpr fun a named => ?_
    obtain ⟨named, port⟩ := List.mem_filter.mp named
    exact (read_serves (opd_serves serves named (of_decide_eq_true port))).2.1 _
  simp only [vtrap, user, read]
  split
  · contradiction
  · split
    · rfl
    · exact pushTrap_of_pushes user (serves.2.2 ‹_›) _

theorem vhold_false {s : State} {srcs : List VOpd} {d : PortNo} (serves : ReadsAndPushes srcs d s) : vhold srcs d s = false := by
  refine Bool.or_eq_false_iff.mpr ⟨List.any_eq_false.mpr fun a named => ?_, ?_⟩
  · obtain ⟨named, port⟩ := List.mem_filter.mp named
    rw [(read_serves (opd_serves serves named (of_decide_eq_true port))).2.2]
    exact Bool.false_ne_true
  · by_cases none : d = 31
    · simp [none]
    · obtain ⟨-, -, -, -, room⟩ := serves.2.2 none
      rw [room, Bool.and_false]

/-- A vector instruction whose traps and holds are its ports' does its action. -/
theorem exec_vports {s : State} {i : Instr} {g : Guard} {srcs : List VOpd} {d : PortNo} {m : Slot} (k : VSlot) (turn : Turn g s)
    (serves : ReadsAndPushes srcs d s) (means : meaningOf i = some (g, m)) (empty : m.empty s = 0) (trap : m.trap s = vtrap k srcs d s)
    (hold : m.hold s = vhold srcs d s) : exec i s = .next (m.act s) :=
  (exec_slot means s).trans
    (runSlot_act turn (empty ▸ Nat.zero_le _) (trap.trans (vtrap_none serves k)) (hold.trans (vhold_false serves)))

/-- A vector instruction lands what its function makes of the beats read. -/
theorem exec_vslot {s : State} {i : Instr} {g : Guard} {k : VSlot} {t : VType} {d : PortNo} {srcs : List VOpd} {lat : Nat} {f : List Beat → State → Beat}
    (turn : Turn g s) (serves : ReadsAndPushes srcs d s) (means : meaningOf i = some (g, vslot k t d srcs lat f)) :
    exec i s = .next ((vreads t srcs s).2.landV k d lat (f (vreads t srcs s).1 s)) :=
  exec_vports k turn serves means rfl rfl rfl

/-! ### Lanes by their numbers -/

theorem lanesIn_eq (t : VType) (b : Beat) : lanesIn t b = (List.range (VType.lanes t)).map (Claims.laneAt (VType.width t) b) := rfl

/-- A function of two operands' lanes takes the lanes of one number. -/
theorem zipWith_lanesIn {α : Type} (t : VType) (f : Nat → Nat → α) (a b : Beat) : (lanesIn t a).zipWith f (lanesIn t b) =
    (List.range (VType.lanes t)).map fun i => f (Claims.laneAt (VType.width t) a i) (Claims.laneAt (VType.width t) b i) := by
  rw [lanesIn_eq, lanesIn_eq, List.zipWith_map, List.zipWith_self]

theorem lanes_pos (t : VType) : 0 < VType.lanes t := by cases t <;> decide

/-- A lane found by its number. -/
theorem getD_lanesIn (t : VType) (b : Beat) {i : Nat} (inside : i < VType.lanes t) : (lanesIn t b).getD i 0 = Claims.laneAt (VType.width t) b i := by
  rw [lanesIn_eq, List.getD_eq_getElem?_getD, List.getElem?_map, List.getElem?_range inside]; rfl

/-- The arithmetic shift of a lane, its count at most the width (R383). -/
theorem laneShr_eq (t : VType) (x n : Nat) : laneShr t x n =
    (toInt (VType.signed t) (VType.width t) x / 2 ^ min n (VType.width t) % 2 ^ VType.width t).toNat := by
  have count : (if VType.width t ≤ n then VType.width t else n) = min n (VType.width t) := by split <;> omega
  simp only [laneShr, ofIntW, laneInt, count]
  push_cast
  rfl

/-- The sums of a scan are those of the recurrence that its accumulator meets. -/
theorem scanFold_eq {f : Nat → Nat → Nat} {x acc : Nat → Nat} {k : Nat} (n : Nat) (next : ∀ i, acc (i + 1) = f (acc i) (x (i + 1))) :
    scanFold f (acc k) ((List.range' (k + 1) n).map x) = (List.range' (k + 1) n).map acc := by
  induction n generalizing k with
  | zero => rfl
  | succ n ih => rw [List.range'_succ, List.map_cons, List.map_cons, scanFold, ← next]; exact congrArg _ ih

/-- The lanes of a scan: lane 0 keeps its value, each other one adds its own (R100). -/
theorem scan_lanes {t : VType} {f : Nat → Nat → Nat} {b : Beat} {acc : Nat → Nat} (first : acc 0 = Claims.laneAt (VType.width t) b 0)
    (next : ∀ i, acc (i + 1) = f (acc i) (Claims.laneAt (VType.width t) b (i + 1))) :
    (match lanesIn t b with | [] => 0 | x :: xs => beatOf t (x :: scanFold f x xs)) = beatOf t ((List.range (VType.lanes t)).map acc) := by
  obtain ⟨n, count⟩ := Nat.exists_eq_succ_of_ne_zero (Nat.pos_iff_ne_zero.mp (lanes_pos t))
  rw [lanesIn_eq, count, List.range_eq_range', Nat.succ_eq_add_one, List.range'_succ, List.map_cons, List.map_cons, ← first]
  exact congrArg (fun xs => beatOf t (acc 0 :: xs)) (scanFold_eq n next)

/-- A lane-wise instruction of two operands lands its function of the lanes of one number. -/
theorem exec_vmap2 {s : State} {i : Instr} {g : Guard} {k : VSlot} {t : VType} {d : PortNo} {a b : VOpd} {lat : Nat} {f : State → Nat → Nat → Nat}
    (turn : Turn g s) (serves : ReadsAndPushes [a, b] d s) (means : meaningOf i = some (g, vmap2 k t d a b lat f)) :
    exec i s = .next ((vreads t [a, b] s).2.landV k d lat (beatOf t ((List.range (VType.lanes t)).map fun i =>
      f s (Claims.laneAt (VType.width t) ((vreads t [a, b] s).1.getD 0 0) i) (Claims.laneAt (VType.width t) ((vreads t [a, b] s).1.getD 1 0) i)))) := by
  rw [exec_vslot turn serves means, zipWith_lanesIn]; rfl

/-- A lane-wise instruction of one operand lands its function of each lane. -/
theorem exec_vmap1 {s : State} {i : Instr} {g : Guard} {k : VSlot} {t : VType} {d : PortNo} {a : VOpd} {lat : Nat} {f : State → Nat → Nat}
    (turn : Turn g s) (serves : ReadsAndPushes [a] d s) (means : meaningOf i = some (g, vmap1 k t d a lat f)) :
    exec i s = .next ((vread t a s).2.landV k d lat (beatOf t ((List.range (VType.lanes t)).map fun i =>
      f s (Claims.laneAt (VType.width t) (vread t a s).1 i)))) := by
  rw [exec_vslot turn serves means, lanesIn_eq, List.map_map]; rfl

/-- Settles O21: each operation is a V slot's, and its lanes are those of its two beats by their numbers. -/
theorem vectorLanes : Obligations.VectorLanes := by
  unfold Obligations.VectorLanes
  intro s k g t d a b turn serves
  refine ⟨?add, ?sub, ?mul, ?min, ?max, ?and, ?or, ?xor, fun _ => ?shl, fun _ => ?shr, fun cc => ?cmp, ?sel, ?perm, fun c => ?fma⟩
  case add => exact exec_vmap2 turn serves (f := fun s => laneAdd t s.ftz) rfl
  case sub => exact exec_vmap2 turn serves (f := fun s => laneSub t s.ftz) rfl
  case mul => exact exec_vmap2 turn serves (f := fun s => laneMul t s.ftz) rfl
  case min => exact exec_vmap2 turn serves (f := fun s => laneMin t s.ftz) rfl
  case max => exact exec_vmap2 turn serves (f := fun s => laneMax t s.ftz) rfl
  case and => exact exec_vslot (f := fun bs _ => beatArg bs 0 &&& beatArg bs 1) turn serves rfl
  case or => exact exec_vslot (f := fun bs _ => beatArg bs 0 ||| beatArg bs 1) turn serves rfl
  case xor => exact exec_vslot (f := fun bs _ => beatArg bs 0 ^^^ beatArg bs 1) turn serves rfl
  case shl => exact exec_vmap2 turn serves (f := fun _ => laneShl t) rfl
  case shr =>
    refine (exec_vmap2 turn serves (f := fun _ => laneShr t) rfl).trans ?_
    simp only [laneShr_eq]
  case cmp =>
    refine (exec_vports k (m := meaningVcmp k t d a b cc) turn serves rfl rfl rfl rfl).trans ?_
    simp only [meaningVcmp, zipWith_lanesIn, List.map_map]
    rfl
  case sel =>
    refine (exec_vports k (m := meaningVsel k t d a b) turn serves rfl rfl rfl rfl).trans ?_
    simp only [meaningVsel, vslot, List.zip, zipWith_lanesIn, List.zipWith_map_left, List.zipWith_self]
    rfl
  case perm =>
    refine (exec_vports k (m := meaningVperm k t d a b) turn serves rfl rfl rfl rfl).trans ?_
    simp only [meaningVperm, vslot, getD_lanesIn t _ (Nat.mod_lt _ (lanes_pos t))]
    rw [lanesIn_eq, List.map_map]
    rfl
  case fma =>
    refine (exec_vports k (m := meaningVfma k t d a b c) turn serves rfl rfl rfl rfl).trans ?_
    simp only [meaningVfma, vslot, List.zip, zipWith_lanesIn]
    rw [lanesIn_eq, List.zipWith_map, List.zipWith_self]
    rfl


/-- A reduction lands the value of its tree in every lane (R100). -/
theorem exec_vreduce {s : State} {i : Instr} {g : Guard} {k : VSlot} {t : VType} {d : PortNo} {a : VOpd} {f : Bool → Nat → Nat → Nat}
    (turn : Turn g s) (serves : ReadsAndPushes [a] d s) (means : meaningOf i = some (g, vreduce k t d a f)) :
    exec i s = .next ((vread t a s).2.landV k d 8 (beatOf t ((List.range (VType.lanes t)).map fun _ =>
      treeFold (f s.ftz) (Nat.log2 (VType.lanes t)) ((List.range (VType.lanes t)).map (Claims.laneAt (VType.width t) (vread t a s).1))))) := by
  rw [exec_vslot turn serves means, lanesIn_eq, List.map_const', List.length_range]; rfl

/-- Reading a vector operand leaves the random words alone. -/
theorem vread_keepsRandom (t : VType) (a : VOpd) (s : State) :
    (vread t a s).2.ctx.bundleRnd = s.ctx.bundleRnd ∧ (vread t a s).2.ctx.rngq = s.ctx.rngq := by
  have pops : ∀ n, (s.popPort n).2.ctx.bundleRnd = s.ctx.bundleRnd ∧ (s.popPort n).2.ctx.rngq = s.ctx.rngq := fun n => by
    simp only [State.popPort]
    split
    · exact ⟨rfl, rfl⟩
    · split
      · exact ⟨inFlight_ctx_bundleRnd .., inFlight_ctx_rngq ..⟩
      · exact ⟨rfl, rfl⟩
  simp only [vread]
  split
  · exact pops _
  · (repeat' split) <;> exact ⟨rfl, rfl⟩

/-- A bundle that has popped no word pops the oldest of `rngq` (R92). -/
theorem popRnd_cons {s : State} {w : BitVec 32} {ws : List (BitVec 32)} (first : s.ctx.bundleRnd = none) (queued : s.ctx.rngq = w :: ws) :
    s.popRnd = (w, { s with ctx := { s.ctx with rngq := ws, bundleRnd := some w } }) := by
  simp only [State.popRnd, first, queued, List.headD_cons, List.tail_cons]

theorem rndReady_cons {s : State} {w : BitVec 32} {ws : List (BitVec 32)} (queued : s.ctx.rngq = w :: ws) : s.rndReady 0 = true := by
  simp [State.rndReady, queued]

/-- The lanes that VCVT converts, each with the random bits of its number. -/
theorem zipWith_take_lanesIn (t : VType) (n : Nat) (f : Nat → Nat → Nat) (b : Beat) (few : n ≤ VType.lanes t) :
    ((lanesIn t b).take n).zipWith f (List.range n) = (List.range n).map fun i => f (Claims.laneAt (VType.width t) b i) i := by
  rw [lanesIn_eq, ← List.map_take, List.take_range, Nat.min_eq_left few, List.zipWith_map_left, List.zipWith_self]

/-- Settles O22: as O21, of one beat. -/
theorem vectorUnary : Obligations.VectorUnary := by
  unfold Obligations.VectorUnary
  intro s k g t d a turn serves
  refine ⟨?abs, ?neg, fun f fp p listed => ?trans, ?mov, ?sum, ?max, fun acc first next => ?scan, fun n idx => ?topk,
    fun srct rm => ⟨fun rounds => ?cvt, fun wd ws srnd first queued => ?cvtSrnd⟩, fun pushes wd ws first queued => ?rng⟩
  case abs => exact exec_vmap1 turn serves (f := fun s => laneAbs t s.ftz) rfl
  case neg => exact exec_vmap1 turn serves (f := fun s => laneNeg t s.ftz) rfl
  case trans =>
    have lands : ∀ {i : Instr} (op : Trans), meaningOf i = some (g, meaningVtrans op k t d a) → exec i s = .next ((vread t a s).2.landV k d 6
        (beatOf t ((List.range (VType.lanes t)).map fun n => fpTrans op f s.ftz (Claims.laneAt (VType.width t) (vread t a s).1 n)))) := by
      intro i op means
      refine (exec_vmap1 turn serves (f := fun s => laneTrans op t s.ftz) means).trans ?_
      simp only [laneTrans, fp]
    simp only [List.mem_cons, List.not_mem_nil, or_false] at listed
    rcases listed with rfl | rfl | rfl | rfl <;> exact lands _ rfl
  case mov => exact exec_vslot (f := fun bs _ => beatArg bs 0) turn serves rfl
  case sum => exact exec_vreduce turn serves (f := laneAdd t) rfl
  case max => exact exec_vreduce turn serves (f := laneMax t) rfl
  case scan =>
    refine (exec_vports k (m := meaningVscan k t d a) turn serves rfl rfl rfl rfl).trans ?_
    exact congrArg (fun r => Host.Outcome.next ((vread t a s).2.landV k d 8 r)) (scan_lanes (f := laneAdd t s.ftz) first next)
  case topk => exact exec_vslot (f := fun bs _ => topkBeat t (n.toNat + 1) idx (lanesIn t (beatArg bs 0))) turn serves rfl
  case cvt =>
    refine (exec_vports k (m := meaningVcvt k t d a rm srct) turn serves rfl rfl rfl ?_).trans ?_
    · simp [meaningVcvt, rounds]
    · simp only [meaningVcvt, rounds, if_false, zipWith_take_lanesIn srct _ _ _ (Nat.min_le_left ..)]
  case cvtSrnd =>
    obtain ⟨kept, words⟩ := vread_keepsRandom srct a s
    refine (exec_vports k (m := meaningVcvt k t d a rm srct) turn serves rfl rfl rfl ?_).trans ?_
    · simp [meaningVcvt, rndReady_cons queued]
    · simp only [meaningVcvt, srnd, if_true, popRnd_cons (kept.trans first) (words.trans queued), zipWith_take_lanesIn srct _ _ _ (Nat.min_le_left ..)]
  case rng =>
    refine (exec_vports k (m := meaningVrng k t d) turn pushes rfl rfl rfl ?_).trans ?_
    · simp [meaningVrng, rndReady_cons queued]
    · simp only [meaningVrng, popRnd_cons first queued]

end Sys2Proof.Proofs
/-! # Operating points (chapter 14): requests, the limit, AUTO, tokens, notices, a group's agreement and the energy counters -/

namespace Sys2Proof.Proofs

open Sys2Proof Sys2Proof.Machine Sys2Proof.Claims Sys2Proof.Laws

/-! ### The limit (R265, R276) -/

theorem floor_le_limit (s : State) : s.power.floor ≤ s.limit := by
  simp only [State.limit]
  split
  · exact BitVec.le_refl _
  · exact BitVec.not_lt.mp ‹_›

/-- A ceiling not below the floor is the limit. -/
theorem limit_eq_ceiling {s : State} (h : s.power.floor ≤ s.ceiling) : s.limit = s.ceiling := if_neg (BitVec.not_lt.mpr h)

/-- A point between the floor and the limit is within the limits. -/
theorem within_of_between {s : State} {p : BitVec 3} (above : s.power.floor ≤ p) (below : p ≤ s.limit) : s.within p = p := by
  rw [State.within, if_neg (BitVec.not_lt.mpr below), if_neg (BitVec.not_lt.mpr above)]

theorem within_le_limit (s : State) (p : BitVec 3) : s.within p ≤ s.limit := by
  simp only [State.within]
  split
  · exact BitVec.le_refl _
  · split
    · exact floor_le_limit s
    · exact BitVec.not_lt.mp ‹_›

theorem point_le_reach (p : Power) : p.point ≤ p.reach := by
  simp only [Power.reach]
  split
  · next h =>
    rw [Bool.and_eq_true, decide_eq_true_iff] at h
    exact BitVec.le_of_lt h.2
  · exact BitVec.le_refl _

/-- A change of the limits leaves the core within its limit, and the limit as it is. -/
theorem applyCeiling_within (s : State) : s.applyCeiling.power.reach ≤ s.limit ∧ s.applyCeiling.limit = s.limit := by
  simp only [State.applyCeiling]
  split
  · exact ⟨BitVec.le_refl _, rfl⟩
  · exact ⟨BitVec.not_lt.mp ‹_›, rfl⟩

/-! ### Events at statq (R207) -/

/-- A posted event changes statq and the count of dropped events; an empty statq takes it as two words. -/
theorem post_eq (s : State) (code : BitVec 16) (engine detail : BitVec 8) (bundle : Word) : ∃ q n,
    s.post code engine detail bundle = { s with ctx := { s.ctx with statq := q }, stdrop := n }
      ∧ (s.ctx.statq = [] → q = [statWord code engine detail, BitVec.ofNat 16 s.ctx.rs.tick ++ bundle.extractLsb' 0 48]) := by
  simp only [State.post, Ctx.post]
  split
  · next merged => exact ⟨_, _, rfl, fun empty => absurd merged.1 (by simp [empty])⟩
  · split
    · exact ⟨_, _, rfl, fun empty => by rw [empty]; rfl⟩
    · next full => exact ⟨_, _, rfl, fun empty => absurd full (by simp [empty, queueDepth])⟩

/-! ### Requests (R266 to R268) -/

/-- Outside a settling window a request is judged. -/
theorem exec_oppRequest {s : State} (calm : s.power.settling = false) (p : BitVec 3) : exec (.oppRequest p) s = .next (s.oppRequest p) := by
  change Host.Outcome.next (match s.oppTrap with | some t => s.raise t | none => s.oppRequest p) = _
  rw [State.oppTrap, calm]
  rfl

/-- Settles O34: a request by the branches of `oppRequest`, the limit by those of `applyCeiling`. -/
theorem operatingPointRequests : Obligations.OperatingPointRequests := by
  unfold Obligations.OperatingPointRequests
  refine ⟨fun s p => ⟨fun settling => ?trap, fun calm auto => ?auto, fun calm asked => ⟨fun same => ?same, fun new above below => ?grant,
    fun new above clipped => ?clip, fun new below => ?refuse⟩⟩, fun s => ⟨?point, ?limit⟩⟩
  case trap =>
    change Host.Outcome.next (match s.oppTrap with | some t => s.raise t | none => s.oppRequest p) = _
    rw [State.oppTrap, settling]
    rfl
  case auto => rw [exec_oppRequest calm, State.oppRequest, if_pos auto]
  case same => rw [exec_oppRequest calm, State.oppRequest, asked, same, if_neg Bool.false_ne_true, if_pos rfl]
  case grant =>
    have granted : min3 p s.limit = p := if_neg (BitVec.not_lt.mpr (limit_eq_ceiling (BitVec.le_trans above below) ▸ below))
    rw [exec_oppRequest calm, State.oppRequest, asked]
    simp only [Bool.false_eq_true, if_false, new, BitVec.not_lt.mpr above, granted, ne_eq, not_true, not_false_iff, if_true]
    rfl
  case clip =>
    have granted : min3 p s.limit = s.limit := if_pos clipped
    have less : s.limit ≠ p := BitVec.ne_of_lt clipped
    obtain ⟨q, n, posted, entered⟩ := post_eq s 0x0031 5 (p.setWidth 8) s.rs.pc
    rw [exec_oppRequest calm, State.oppRequest, asked]
    simp only [Bool.false_eq_true, if_false, new, BitVec.not_lt.mpr above, granted, ne_eq, less, not_false_iff, if_true, posted]
    by_cases there : s.limit = s.power.point
    · rw [if_neg (not_not_intro there), if_pos there]
      exact ⟨_, rfl, rfl, rfl, rfl, entered⟩
    · rw [if_pos there, if_neg there]
      exact ⟨_, rfl, rfl, rfl, rfl, entered⟩
  case refuse =>
    obtain ⟨q, n, posted, entered⟩ := post_eq s 0x0002 5 (p.setWidth 8) s.rs.pc
    rw [exec_oppRequest calm, State.oppRequest, asked]
    simp only [Bool.false_eq_true, if_false, new, below, if_true, posted]
    exact ⟨_, rfl, rfl, rfl, entered⟩
  case point => exact BitVec.le_trans (point_le_reach _) (applyCeiling_within s).1
  case limit =>
    obtain ⟨kept, same⟩ := applyCeiling_within s
    obtain ⟨p, e⟩ := applyCeiling_eq s
    exact ⟨kept, same, applyCeiling_of_within, by rw [e]⟩

end Sys2Proof.Proofs
/-! # The power controller (chapter 14) -/

namespace Sys2Proof.Proofs

open Sys2Proof Sys2Proof.Machine Sys2Proof.Claims Sys2Proof.Laws

/-! ### AUTO (R275) -/

/-- The state at a refresh: the counts of the window, and the windows in a row that meet each condition. -/
def refreshed (s : State) (tot hel spl : BitVec 15) (lo hi : Nat) : State :=
  { s with power := { s.power with total := tot, heldClk := hel, split := spl, lowRuns := lo, highRuns := hi } }

/-- A refresh on a core whose AUTO is set: the runs of windows, then the two conditions. -/
theorem exec_stallr_auto {s : State} {tot hel : BitVec 15} {lo hi : Nat} (live : s.live = true) (auto : s.ctx.csr.oppctl.getLsbD 0 = true)
    (spl : BitVec 15)
    (low : (if (s.ctx.csr.oppctl.extractLsb' 8 8).toNat ≠ 0 ∧ (s.ctx.csr.oppctl.extractLsb' 8 8).toNat * tot.toNat ≤ 256 * hel.toNat
      then s.power.lowRuns + 1 else 0) = lo)
    (high : (if (s.ctx.csr.oppctl.extractLsb' 16 8).toNat ≠ 0 ∧ 256 * hel.toNat ≤ (s.ctx.csr.oppctl.extractLsb' 16 8).toNat * tot.toNat
      then s.power.highRuns + 1 else 0) = hi) :
    exec (.stallrRefresh tot hel spl) s = .next (refreshed s tot hel spl lo hi).autoLower.autoRaise := by
  have autos : (s.live && s.ctx.csr.oppctl.getLsbD 0) = true := by rw [live, auto]; rfl
  rw [Nat.mul_comm 256] at low high
  subst low high
  exact congrArg Host.Outcome.next (if_pos autos)

theorem autoLower_rests {s : State} (few : s.power.lowRuns < 2) : s.autoLower = s := if_neg fun h => Nat.not_le.mpr few h.1

theorem autoRaise_rests {s : State} (few : s.power.highRuns < 2) : s.autoRaise = s := if_neg fun h => Nat.not_le.mpr few h.1

theorem autoLower_lowers {s : State} (runs : 2 ≤ s.power.lowRuns) (above : s.power.floor < s.power.point) : s.autoLower = s.pwcPoint (s.power.point - 1) :=
  if_pos ⟨runs, above⟩

theorem autoRaise_raises {s : State} (runs : 2 ≤ s.power.highRuns) (below : s.power.point < s.ceiling) : s.autoRaise = s.pwcPoint (s.power.point + 1) :=
  if_pos ⟨runs, below⟩

/-! ### A group's agreement (R278) -/

/-- After an agreement the core is within its limit. -/
theorem agreed_within (s : State) : s.agreed.power.reach ≤ s.agreed.limit := by
  simp only [State.agreed]
  split
  · exact BitVec.le_refl _
  · split
    · exact within_le_limit s _
    · exact BitVec.not_lt.mp ‹_›

/-- An agreement changes the power state alone. -/
theorem agreed_eq (s : State) : ∃ p, s.agreed = { s with power := p } := by
  simp only [State.agreed]
  split
  · exact ⟨_, rfl⟩
  · split <;> exact ⟨_, rfl⟩

/-- The member takes the point of the level-5 phase that has completed. -/
theorem agree_next {c : Ctx} {before : BitVec 32} (h : (c.dom 5).phc = before + 1) : c.agree before = c.takeGroup := by
  have one : before + 1 - before = 1 := by bv_omega
  simp only [Ctx.agree, h, one]
  rfl

/-- Carrying a point leaves the domains alone. -/
theorem carry_dom (c : Ctx) (l k : BitVec 3) (p : BitVec 3) (ahead : Bool) : (c.carry l p ahead).dom k = c.dom k := by
  simp only [Ctx.carry]
  split
  · rfl
  · split <;> rfl

/-- The last arrival at level 5 gives the member the least point carried to the phase (R278). -/
theorem counted_group {c : Ctx} {d : Dom} {p : BitVec 3} (completes : (d.count false).phc = (c.dom 5).phc + 1) :
    c.counted 5 d p false = { c.updDom 5 fun _ => d.count false with gopp := min3 c.carried p, carried := c.carriedNext, carriedNext := 7 } := by
  refine (agree_next ?_).trans ?_
  · rw [carry_dom, updDom_dom c (by decide), completes]
  · rw [Ctx.carry, if_neg (by simp), if_neg Bool.false_ne_true]; rfl

/-- The core follows the group where a level-5 phase of its running context has completed. -/
theorem followGroup_completed {s t : State} (live : s.live = true) (tlive : t.live = true) (same : s.ctx.id = t.ctx.id)
    (completed : (t.ctx.dom 5).phc = (s.ctx.dom 5).phc + 1) : s.followGroup t = t.agreed := by
  have new : ((s.ctx.dom 5).phc != (t.ctx.dom 5).phc) = true := bne_iff_ne.mpr (by bv_omega)
  rw [State.followGroup, live, tlive, same, new, beq_self_eq_true]
  rfl

/-! ### Thermal notices (R279) -/

/-- A limit that allows a point becomes that point with a notice of it. -/
theorem min3_noticed : ∀ a b p : BitVec 3, p ≤ min3 (min3 a 7) b → min3 (min3 a (min3 7 p)) b = p := by decide

/-- A single notice at a point that the other limits and the floor allow is the limit. -/
theorem limit_noticed {s t : State} {source : Nat} {p : BitVec 3} (none_before : s.power.notices = []) (above : s.power.floor ≤ p) (below : p ≤ s.ceiling)
    (token : t.tokenPoint = s.tokenPoint) (group : t.groupLimit = s.groupLimit) (floor : t.power.floor = s.power.floor)
    (notices : t.power.notices = [(source, p)]) : t.limit = p := by
  have was : s.thermPoint = 7 := by rw [State.thermPoint, none_before]; rfl
  have now : t.thermPoint = min3 7 p := by rw [State.thermPoint, notices]; rfl
  rw [State.ceiling, was] at below
  have ceiling : t.ceiling = p := by rw [State.ceiling, token, group, now, min3_noticed _ _ _ below]
  rw [limit_eq_ceiling (by rw [ceiling, floor]; exact above), ceiling]

/-- A settling core goes to its target or beyond. -/
theorem tgt_le_reach {p : Power} (settling : p.settling = true) : p.tgt ≤ p.reach := by
  by_cases more : p.point < p.tgt
  · rw [Power.reach, settling, decide_eq_true more]; exact BitVec.le_refl _
  · rw [Power.reach, settling, decide_eq_false more]; exact BitVec.not_lt.mp more

/-- A core at or above its limit goes to it, and no longer settles toward a point above it. -/
theorem applyCeiling_falls {s : State} {p : BitVec 3} (limit : s.limit = p) (above : p ≤ s.power.point) : s.applyCeiling.power.point = p
    ∧ (s.power.settling = true → p < s.power.tgt → s.applyCeiling.power.settling = false) := by
  by_cases lower : s.limit < s.power.reach
  · rw [State.applyCeiling, if_pos lower]
    exact ⟨limit, fun _ _ => rfl⟩
  · have point := point_le_reach s.power
    rw [applyCeiling_of_within (BitVec.not_lt.mp lower)]
    refine ⟨by bv_omega, fun settling more => absurd more ?_⟩
    have target := tgt_le_reach settling
    bv_omega

/-- What a notice changes is the power state, statq and the count of dropped events (R279). -/
theorem thermal_eq (s : State) (source : Nat) (p : BitVec 3) : ∃ q n, s.thermal source p =
    { s with ctx := { s.ctx with statq := q }, stdrop := n,
             power := (State.applyCeiling { s with power := { s.power with
               notices := s.power.notices ++ [(source, p)], earlier := some (s.power.earlier.getD s.power.point) } }).power } := by
  obtain ⟨pw, e⟩ := applyCeiling_eq { s with power := { s.power with
    notices := s.power.notices ++ [(source, p)], earlier := some (s.power.earlier.getD s.power.point) } }
  simp only [State.thermal, e]
  obtain ⟨q, n, posted, -⟩ := post_eq { s with power := pw } 0x0032 5 (p.setWidth 8) (State.nextBundle { s with power := { s.power with
    notices := s.power.notices ++ [(source, p)], earlier := some (s.power.earlier.getD s.power.point) } })
  exact ⟨q, n, posted⟩

/-- The ceiling applied changes the point, the window and the mark of a group point alone. -/
theorem applyCeiling_power (s : State) : ∃ p l b r f, s.applyCeiling.power =
    { s.power with point := p, lowered := l, settling := b, rem := r, fresh := f } := by
  simp only [State.applyCeiling]
  split <;> exact ⟨_, _, _, _, _, rfl⟩

/-- The release of the only notice goes back to the earlier point (R279). -/
theorem thermalRelease_only {s : State} {source : Nat} {p was : BitVec 3} (notice : s.power.notices = [(source, p)]) (earlier : s.power.earlier = some was)
    (below : was ≤ ({ s with power := { s.power with notices := [] } } : State).limit) (above : s.power.floor ≤ was) :
    s.thermalRelease source = { s with
      power := { s.power with
        notices := [], earlier := none, point := was, settling := false, rem := 0, fresh := none
        slowdown := s.power.slowdown && source != s.coreNum.toNat / 32 } } := by
  have named : s.power.notices.any (·.1 == source) = true := by simp [notice]
  have rest : s.power.notices.filter (·.1 != source) = [] := by simp [notice]
  simp only [State.thermalRelease, named, rest, earlier, Bool.not_true, Bool.false_eq_true, if_false, Option.getD_some, List.isEmpty_nil, if_true]
  rw [within_of_between (by exact above) (by exact below)]
  rfl

/-- A floor raised above the point takes the core to it (R265); one raised above the ceiling raises the slow-down (R279). -/
theorem oppflr_raises {s : State} {p : BitVec 3} (up : s.power.point < p) : s.oppflr p =
    if (decide (s.ceiling < p) && decide (s.power.floor < p) && !s.power.slowdown) = true then
      State.thermal { s with
          draws := s.draws + 1
          power := { s.power with floor := p, point := p, settling := false, rem := 0, fresh := none, slowdown := true } }
        (s.coreNum.toNat / 32) (BitVec.ofNat 3 (Config.pick s.draws))
    else State.pwcPoint { s with power := { s.power with floor := p } } p := by
  have lifts : (decide (s.power.point < p) || (s.power.settling && decide (s.power.tgt < p))) = true := by rw [decide_eq_true up, Bool.true_or]
  simp only [State.oppflr, lifts, if_true]
  rfl

/-- A floor that does not rise leaves the ceiling in force (R265). -/
theorem oppflr_falls {s : State} {p : BitVec 3} (down : p ≤ s.power.floor) (below : p ≤ s.power.point) (calm : s.power.settling = false) :
    s.oppflr p = State.applyCeiling { s with power := { s.power with floor := p } } := by
  have stays : (decide (s.power.point < p) || (s.power.settling && decide (s.power.tgt < p))) = false := by
    rw [calm, decide_eq_false (BitVec.not_lt.mpr below)]; rfl
  have no_rise : decide (s.power.floor < p) = false := decide_eq_false (BitVec.not_lt.mpr down)
  simp only [State.oppflr, stays, no_rise, Bool.and_false, Bool.false_and, Bool.false_eq_true, if_false]

/-! ### Energy (R280) -/

/-- The only context of the die takes the whole difference. -/
theorem energyShares_one (diff : Int) {e : Nat} (some_estimate : e ≠ 0) : energyShares diff [e] = [diff] := by
  have whole : (diff * (e : Int)).fdiv e = diff := Int.mul_fdiv_cancel _ (Int.natCast_ne_zero.mpr some_estimate)
  simp [energyShares, whole]

/-- Of two estimates the larger takes the remainder, the first where they are equal. -/
theorem energyShares_two (diff e other : Nat) : (energyShares diff [e, other]).headD 0 =
    if other ≤ e then (diff : Int) - (diff * other / (e + other) : Nat) else (diff * e / (e + other) : Nat) := by
  have share : ∀ n : Nat, ((diff : Int) * n).fdiv ((e + other : Nat) : Int) = (diff * n / (e + other) : Nat) := fun n => by
    rw [← Int.natCast_mul, Int.ofNat_fdiv]
  have shares : energyShares diff [e, other] = ([(diff * e / (e + other) : Nat), (diff * other / (e + other) : Nat)] : List Int).set
      ([e, other].findIdx (· == max e other)) (([(diff * e / (e + other) : Nat), (diff * other / (e + other) : Nat)] : List Int).getD
        ([e, other].findIdx (· == max e other)) 0 + ((diff : Int) - ((diff * e / (e + other) : Nat) + (diff * other / (e + other) : Nat)))) := by
    simp only [energyShares, List.foldl_cons, List.foldl_nil, List.map_cons, List.map_nil, Nat.zero_add, Nat.zero_max, Int.zero_add, share]
  rw [shares]
  by_cases larger : other ≤ e
  · have first : [e, other].findIdx (· == max e other) = 0 := by simp [List.findIdx_cons, larger]
    rw [first, if_pos larger]
    simp only [List.getD_cons_zero, List.set_cons_zero, List.headD_cons]
    omega
  · have second : [e, other].findIdx (· == max e other) = 1 := by
      rw [Nat.max_eq_right (by omega), List.findIdx_cons, beq_false_of_ne (by omega)]
      simp [List.findIdx_cons]
    rw [second, if_neg larger]
    rfl

/-- The reading of a die with a live core alone on it gives its context the first share. -/
theorem energyReconcile_alone {s : State} {d : Int} {sensor : Nat} {others : List Nat} (live : s.live = true) (alone : s.parked = [])
    (some_estimate : others.foldl (· + ·) s.ctx.estimate ≠ 0)
    (first : (energyShares ((sensor : Int) - (others.foldl (· + ·) s.ctx.estimate : Nat)) (s.ctx.estimate :: others)).headD 0 = d) :
    s.energyReconcile ⟨sensor, others⟩ = { s with ctx := { s.ctx.share d with estimate := 0 } } := by
  have contexts : s.contexts = [s.ctx] := by rw [State.contexts, live, alone]; rfl
  have sum : List.foldl (· + ·) 0 (s.ctx.estimate :: others) = others.foldl (· + ·) s.ctx.estimate := by rw [List.foldl_cons, Nat.zero_add]
  have shares : ∀ diff, ∃ ds, energyShares diff (s.ctx.estimate :: others) = (energyShares diff (s.ctx.estimate :: others)).headD 0 :: ds := fun diff => by
    have length : (energyShares diff (s.ctx.estimate :: others)).length = others.length + 1 := by simp [energyShares]
    obtain ⟨x, xs, e⟩ := List.exists_cons_of_length_eq_add_one length
    rw [e]
    exact ⟨xs, rfl⟩
  obtain ⟨ds, e⟩ := shares ((sensor : Int) - (others.foldl (· + ·) s.ctx.estimate : Nat))
  rw [first] at e
  simp only [State.energyReconcile, contexts, List.map_cons, List.map_nil, List.singleton_append, sum, some_estimate, if_false, e, List.zip_cons_cons,
    List.zip_nil_left, List.foldl_cons, List.foldl_nil, updCtx_running live]

/-- A share that is not negative is charged whole where no debit is left. -/
theorem share_charges {c : Ctx} (paid : c.debit = 0) (n : Nat) : c.share n = { c with csr := { c.csr with ecnt := c.csr.ecnt + BitVec.ofNat 64 n } } := by
  cases c
  subst paid
  simp [Ctx.share, Ctx.charge]

/-- A negative share becomes a debit. -/
theorem share_debits {c : Ctx} {n m : Nat} (less : n < m) : c.share ((n : Int) - m) = { c with debit := c.debit + (m - n) } := by
  have negative : (n : Int) - m < 0 := by omega
  have amount : ((n : Int) - m).natAbs = m - n := by omega
  rw [Ctx.share, if_pos negative, amount]

/-- The core's own arrival, the last of a level-5 phase, gives the group's point to its context, and the core follows it (R278). -/
theorem exec_group_arrival {s : State} (live : s.live = true) (own : (s.ctx.dom 5).own = 1) (held : (s.ctx.dom 5).held.length = 1)
    (ahead : (s.ctx.dom 5).ahead = 0) (leaving : (s.ctx.dom 5).pendingLeave = 0) (whole : (s.ctx.dom 5).broken = false) (exp : (s.ctx.dom 5).exp ≠ 0)
    (last : (s.ctx.dom 5).arrived + 1 = (s.ctx.dom 5).exp.toNat) (replied : ∀ q ∈ s.ctx.rs.reqs ++ s.sup.reqs, q.reply ≠ none) (comb : s.comb = []) :
    ∃ t, exec (.domainArrival 5 .own) s = .next t ∧ t.ctx.gopp = min3 s.ctx.carried s.tokenPoint ∧ t.ctx.carried = s.ctx.carriedNext
      ∧ t.ctx.carriedNext = 7 ∧ t.power.reach ≤ t.limit
      ∧ { t with power := s.power, ctx := { t.ctx with doms := s.ctx.doms, gopp := s.ctx.gopp, carried := s.ctx.carried, carriedNext := s.ctx.carriedNext } } = s := by
  obtain ⟨n, one⟩ := List.length_eq_one_iff.mp held
  have ready : s.arrivalReady 5 = true := arrivalReady_of_replied (by rw [one]; exact List.cons_ne_nil _ _) replied comb
  have none_counted : (s.ctx.dom 5).ownCounted = 0 := by rw [Dom.ownCounted, own, held]
  generalize counted : ({ s.ctx.dom 5 with held := (s.ctx.dom 5).held.tail } : Dom).count false = d
  have completes : d.phc = (s.ctx.dom 5).phc + 1 := by
    rw [← counted]
    exact congrArg Dom.phc (settle_completes (d := { s.ctx.dom 5 with arrived := (s.ctx.dom 5).arrived + 1, held := (s.ctx.dom 5).held.tail }) last exp own ahead leaving)
  have arrives : s.domainArrival 5 .own = { s with ctx := { s.ctx.updDom 5 fun _ => d with
      gopp := min3 s.ctx.carried s.tokenPoint, carried := s.ctx.carriedNext, carriedNext := 7 } } := by
    simp only [State.domainArrival, arrival_possible live whole (Nat.le_refl 5), Bool.false_eq_true, if_false, ready, if_true, State.ownArrive, none_counted]
    rw [show decide (1 ≤ 0) = false from rfl, counted_group (by rw [counted]; exact completes), counted]
  generalize after : ({ s with ctx := { s.ctx.updDom 5 fun _ => d with
      gopp := min3 s.ctx.carried s.tokenPoint, carried := s.ctx.carriedNext, carriedNext := 7 } } : State) = t at arrives
  have phase : (t.ctx.dom 5).phc = (s.ctx.dom 5).phc + 1 := by
    rw [← after, ← completes]
    exact congrArg Dom.phc (updDom_dom s.ctx (by decide) fun _ => d)
  have changes : s.domainArrival 5 .own ≠ s := fun same => by
    rw [arrives] at same
    rw [same] at phase
    bv_omega
  obtain ⟨p, agreed⟩ := agreed_eq t
  have acts : exec (.domainArrival 5 .own) s = .next t.agreed := by
    change Host.Outcome.next (s.followGroup (s.anyCtx fun s => s.domainArrival 5 .own)) = _
    rw [anyCtx_running live changes, arrives, followGroup_completed live (by rw [← after]; exact live) (by rw [← after]; rfl) phase]
  exact ⟨_, acts, by rw [agreed, ← after], by rw [agreed, ← after], by rw [agreed, ← after], agreed_within t, by rw [agreed, ← after]; rfl⟩

/-- Settles O35: each act by its own branch; AUTO by its runs, a notice by `applyCeiling_falls`, a group by `agreed_within`, energy by the first share. -/
theorem powerController : Obligations.PowerController := by
  unfold Obligations.PowerController
  intro s pw
  refine ⟨fun hold clear => ?settle, fun tot hel spl dead => ?dead, fun tot hel spl live auto => ?auto, ?group, fun st way => ?stage, rfl, rfl,
    fun src' p none_before above below falls => ?notice, fun src' p was notice earlier below above => ?release,
    fun p up => ⟨fun room => ?floorRises, fun beyond new calm => ?floorWins⟩, fun p down below calm => ?floorFalls,
    fun k enough => ⟨?lends, ?recalls⟩, fun k short => ⟨?lendsNot, ?recallsNot⟩, fun k room => ?borrows, fun h gr fits => ?reconciles,
    fun sensor live alone some_estimate paid more => ?charge, fun sensor live alone some_estimate less => ?debit,
    fun sensor other => ?shares⟩
  case settle =>
    have ends : (s.settlingHold && !s.power.droop) = true := by rw [hold, clear]; rfl
    exact congrArg Host.Outcome.next (if_pos ends)
  case dead =>
    have no_auto : ¬(s.live && s.ctx.csr.oppctl.getLsbD 0) = true := by rw [dead]; exact Bool.false_ne_true
    exact congrArg Host.Outcome.next (if_neg no_auto)
  case auto =>
    intro adn aup heavy light got
    refine ⟨fun low high => ?_, fun low high => ⟨fun first => ?_, fun again above => ?_⟩, fun high low => ⟨fun first => ?_, fun again below => ?_⟩⟩
    · rw [exec_stallr_auto live auto spl (if_neg low) (if_neg high), autoLower_rests (by exact Nat.zero_lt_two), autoRaise_rests (by exact Nat.zero_lt_two)]
      rfl
    · rw [exec_stallr_auto live auto spl ((if_pos low).trans (by rw [first])) (if_neg high), autoLower_rests (by exact Nat.one_lt_two),
        autoRaise_rests (by exact Nat.zero_lt_two)]
      rfl
    · rw [exec_stallr_auto live auto spl (if_pos low) (if_neg high), autoLower_lowers (by exact Nat.succ_le_succ again) (by exact above),
        autoRaise_rests (by exact Nat.zero_lt_two)]
      exact ⟨_, rfl, rfl, rfl, rfl⟩
    · rw [exec_stallr_auto live auto spl (if_neg low) ((if_pos high).trans (by rw [first])), autoLower_rests (by exact Nat.zero_lt_two),
        autoRaise_rests (by exact Nat.one_lt_two)]
      rfl
    · rw [exec_stallr_auto live auto spl (if_neg low) (if_pos high), autoLower_rests (by exact Nat.zero_lt_two),
        autoRaise_raises (by exact Nat.succ_le_succ again) (by exact below)]
      exact ⟨_, rfl, rfl, rfl, rfl⟩
  case group =>
    intro d live own held ahead leaving whole exp last replied comb
    obtain ⟨t, arrives, group⟩ := exec_group_arrival live own held ahead leaving whole exp last replied comb
    exact ⟨t, arrives, group⟩
  case stage => exact congrArg Host.Outcome.next (if_pos way)
  case notice =>
    obtain ⟨q, n, e⟩ := thermal_eq s src' p
    refine ⟨_, congrArg Host.Outcome.next e, ?_⟩
    generalize noticed : ({ s with power := { s.power with
      notices := s.power.notices ++ [(src', p)], earlier := some (s.power.earlier.getD s.power.point) } } : State) = t
    have limit : t.limit = p := by
      subst noticed
      exact limit_noticed none_before above below rfl rfl rfl (by rw [none_before]; rfl)
    obtain ⟨pt, lw, st, rm, fr, kept⟩ := applyCeiling_power t
    obtain ⟨point, window⟩ := applyCeiling_falls limit (by subst noticed; exact falls)
    refine ⟨point, ?_, ?_, ?_, rfl, rfl⟩
    · rw [kept, ← noticed, none_before]; rfl
    · rw [kept, ← noticed]
    · rw [← noticed] at window ⊢; exact window
  case release => exact congrArg Host.Outcome.next (thermalRelease_only notice earlier below above)
  case floorRises =>
    have no_slowdown : ¬(decide (s.ceiling < p) && decide (s.power.floor < p) && !s.power.slowdown) = true := by
      rcases room with low | slow
      · simp [BitVec.not_lt.mpr low]
      · simp [slow]
    exact ⟨_, congrArg Host.Outcome.next ((oppflr_raises up).trans (if_neg no_slowdown)), rfl, rfl, rfl⟩
  case floorWins =>
    have slowdown : (decide (s.ceiling < p) && decide (s.power.floor < p) && !s.power.slowdown) = true := by simp [beyond, new, calm]
    have acts := (oppflr_raises up).trans (if_pos slowdown)
    obtain ⟨q, n, e⟩ := thermal_eq { s with
        draws := s.draws + 1
        power := { s.power with floor := p, point := p, settling := false, rem := 0, fresh := none, slowdown := true } }
      (s.coreNum.toNat / 32) (BitVec.ofNat 3 (Config.pick s.draws))
    refine ⟨_, BitVec.ofNat 3 (Config.pick s.draws), congrArg Host.Outcome.next (acts.trans e), ?_⟩
    obtain ⟨pt, lw, st, rm, fr, kept⟩ := applyCeiling_power _
    rw [kept]
    exact ⟨rfl, rfl, List.mem_append_right _ (List.mem_singleton_self _), rfl, rfl⟩
  case floorFalls => exact congrArg Host.Outcome.next (oppflr_falls down below calm)
  case lends => exact congrArg Host.Outcome.next (if_pos enough)
  case recalls => exact congrArg Host.Outcome.next (if_pos enough)
  case lendsNot => exact congrArg Host.Outcome.next (if_neg (BitVec.not_le.mpr short))
  case recallsNot => exact congrArg Host.Outcome.next (if_neg (BitVec.not_le.mpr short))
  case borrows => exact congrArg Host.Outcome.next (if_pos room)
  case reconciles => exact congrArg Host.Outcome.next (if_pos fits)
  case charge =>
    have none_left : s.ctx.estimate ≠ 0 := Nat.pos_iff_ne_zero.mp some_estimate
    have whole : (sensor : Int) - (s.ctx.estimate : Nat) = (sensor - s.ctx.estimate : Nat) := by omega
    have acts := energyReconcile_alone (others := []) live alone none_left
      (congrArg (·.headD 0) ((energyShares_one _ none_left).trans (congrArg ([·]) whole)))
    exact congrArg Host.Outcome.next (acts.trans (by rw [List.headD_cons, share_charges paid]))
  case debit =>
    have none_left : s.ctx.estimate ≠ 0 := Nat.pos_iff_ne_zero.mp some_estimate
    have acts := energyReconcile_alone (sensor := sensor) (others := []) live alone none_left (congrArg (·.headD 0) (energyShares_one _ none_left))
    exact congrArg Host.Outcome.next (acts.trans (by rw [List.headD_cons, List.foldl_nil, share_debits less]))
  case shares =>
    intro e live alone some_estimate paid more diff mine
    have whole : (sensor : Int) - (e + other : Nat) = (diff : Nat) := by omega
    have first : (if other ≤ e then (diff : Int) - (diff * other / (e + other) : Nat) else (diff * e / (e + other) : Nat)) = (mine : Nat) := by
      have part : diff * other / (e + other) ≤ diff := Nat.div_le_of_le_mul (by rw [Nat.mul_comm]; exact Nat.mul_le_mul_right _ (Nat.le_add_left ..))
      simp only [mine]
      split
      · exact (Int.ofNat_sub part).symm
      · rfl
    have acts := energyReconcile_alone (sensor := sensor) (others := [other]) live alone (Nat.pos_iff_ne_zero.mp some_estimate)
      ((congrArg (fun d => (energyShares d [e, other]).headD 0) whole).trans ((energyShares_two diff e other).trans first))
    exact congrArg Host.Outcome.next (acts.trans (by rw [share_charges paid]))

end Sys2Proof.Proofs
/-! # Bring-up and the host (chapter 15) -/

namespace Sys2Proof.Proofs

open Sys2Proof Sys2Proof.Machine Sys2Proof.Claims Sys2Proof.Laws

/-! ### Interrupts of the host (R286) -/

/-- An event sets its bit of INTST; beside it only what is pending and what has been sent changes. -/
theorem interrupt_eq (h : HostIf) (n : Nat) : ∃ p ms,
    h.interrupt n = { h with intst := h.intst ||| BitVec.ofNat 5 (2 ^ n), msixPending := p, messages := ms } := by
  have vector : ∀ h : HostIf, ∃ p ms, h.vector n = { h with msixPending := p, messages := ms } := fun h => by
    simp only [HostIf.vector]
    split
    · exact ⟨_, _, rfl⟩
    · split <;> exact ⟨_, _, rfl⟩
  simp only [HostIf.interrupt]
  split
  · obtain ⟨p, ms, e⟩ := vector { h with intst := h.intst ||| BitVec.ofNat 5 (2 ^ n) }
    exact ⟨p, ms, e⟩
  · exact ⟨_, _, rfl⟩

/-- DEVST takes its value; beside it only what belongs to the interrupt changes. -/
theorem setDevst_eq (s : State) (v : BitVec 8) : ∃ i p ms,
    s.setDevst v = { s with host := { s.host with devst := v, intst := i, msixPending := p, messages := ms } } := by
  simp only [State.setDevst]
  split
  · next same => exact ⟨s.host.intst, s.host.msixPending, s.host.messages, by rw [← same]⟩
  · obtain ⟨p, ms, e⟩ := interrupt_eq { s.host with devst := v } srcDEVST
    exact ⟨_, p, ms, congrArg (fun h => { s with host := h }) e⟩

/-- An error record joins the log; beside it only what belongs to the interrupt changes. -/
theorem logError_eq (s : State) (code : BitVec 8) (detail : Word) : ∃ i p ms, s.logError code detail =
    { s with errorLog := s.errorLog ++ [(code, detail)], host := { s.host with intst := i, msixPending := p, messages := ms } } := by
  obtain ⟨p, ms, e⟩ := interrupt_eq s.host srcERRLOG
  exact ⟨_, p, ms, congrArg (fun h => { s with errorLog := s.errorLog ++ [(code, detail)], host := h }) e⟩

/-! ### What the host sends (R286, R290) -/

/-- Outside RECOVERY what the host sends is done. -/
theorem fromHost_served {s : State} (served : s.host.devst ≠ 4) (f : State → State) : s.fromHost f = f s := if_neg served

/-- In RECOVERY it is not. -/
theorem fromHost_recovery {s : State} (recovery : s.host.devst = 4) (f : State → State) : s.fromHost f = s := if_pos recovery

/-- With MSI-X off nothing pending is sent. -/
theorem sendPending_off {h : HostIf} (off : h.msixOn = false) (n : Nat) : h.sendPending n = h := by
  simp [HostIf.sendPending, off]

theorem control_off {h : HostIf} {v : Word} (off : v.getLsbD 15 = false) : h.control v = { h with msixOn := false, msixMask := v.getLsbD 14 } := by
  have none_sent : ∀ ns : List Nat, ns.foldl HostIf.sendPending { h with msixOn := false, msixMask := v.getLsbD 14 } =
      { h with msixOn := false, msixMask := v.getLsbD 14 } := fun ns => by
    induction ns with
    | nil => rfl
    | cons n ns ih => rw [List.foldl_cons, sendPending_off rfl, ih]
  rw [HostIf.control, off, none_sent]

/-! ### The dies' images (R290) -/

/-- The greatest of a number and the images' versions is one of them. -/
theorem foldl_version (is : List DieImage) (v : Nat) : v ≤ is.foldl (fun v i => max v i.version) v
    ∧ (is.foldl (fun v i => max v i.version) v ≠ v → ∃ i ∈ is, is.foldl (fun v i => max v i.version) v = i.version) := by
  induction is generalizing v with
  | nil => exact ⟨Nat.le_refl _, fun new => absurd rfl new⟩
  | cons i is ih =>
    obtain ⟨low, from_image⟩ := ih (max v i.version)
    refine ⟨Nat.le_trans (Nat.le_max_left ..) low, fun new => ?_⟩
    rw [List.foldl_cons] at new ⊢
    by_cases same : is.foldl (fun v i => max v i.version) (max v i.version) = max v i.version
    · rw [same] at new ⊢
      exact ⟨i, List.mem_cons_self, max_eq_right (le_of_not_ge fun above => new (max_eq_left above))⟩
    · obtain ⟨k, listed, e⟩ := from_image same
      exact ⟨k, List.mem_cons_of_mem _ listed, e⟩

/-- The minimum of a verified boot is the fused one or, raised, that of an image. -/
theorem raiseMinimum_eq (h : HostIf) (images : List DieImage) : ∃ v r, h.raiseMinimum images = { h with version := v, raised := r } ∧ h.version ≤ v
    ∧ (v ≠ h.version → r = true ∧ ∃ i ∈ images, i.raises = true ∧ v = i.version) := by
  obtain ⟨low, from_image⟩ := foldl_version (images.filter (·.raises)) h.version
  simp only [HostIf.raiseMinimum]
  split
  · exact ⟨_, _, rfl, Nat.le_refl _, fun new => absurd rfl new⟩
  · refine ⟨_, _, rfl, low, fun new => ⟨rfl, ?_⟩⟩
    obtain ⟨i, listed, e⟩ := from_image new
    obtain ⟨listed, raises⟩ := List.mem_filter.mp listed
    exact ⟨i, listed, raises, e⟩

/-- A mark for each entry that is not 0, at the bit of its place, leaves the bits below alone. -/
theorem marks_testBit (xs : List (BitVec 8)) (k m : Nat) (low : m < 2 ^ k) (j : Nat) :
    ((xs.zipIdx k).foldl (fun m c => if c.1 = 0 then m else m + 2 ^ c.2) m).testBit j =
      if j < k then m.testBit j else decide (xs.getD (j - k) 0 ≠ 0) := by
  induction xs generalizing k m with
  | nil =>
    split
    · rfl
    · exact Nat.testBit_lt_two_pow (Nat.lt_of_lt_of_le low (Nat.pow_le_pow_right Nat.zero_lt_two (by omega)))
  | cons x xs ih =>
    have step : (if x = 0 then m else m + 2 ^ k) < 2 ^ (k + 1) := by split <;> omega
    rw [List.zipIdx_cons, List.foldl_cons, ih (k + 1) _ step]
    rcases Nat.lt_trichotomy j k with below | here | above
    · rw [if_pos below, if_pos (Nat.lt_succ_of_lt below)]
      split
      · rfl
      · rw [Nat.add_comm, Nat.testBit_two_pow_add_gt below]
    · subst here
      rw [if_pos (Nat.lt_succ_self j), if_neg (Nat.lt_irrefl j), Nat.sub_self, List.getD_cons_zero]
      split
      · next zero => rw [zero, Nat.testBit_lt_two_pow low]; rfl
      · next marked => rw [Nat.add_comm, Nat.testBit_two_pow_add_eq, Nat.testBit_lt_two_pow low, decide_eq_true marked]; rfl
    · rw [if_neg (by omega), if_neg (by omega), show j - k = (j - (k + 1)) + 1 by omega, List.getD_cons_succ]

/-- The code of a die, by its number. -/
theorem bootCodes_getD (h : HostIf) (images : List (Option DieImage)) {d : Nat} (inside : d < 8) :
    (h.bootCodes images).getD d 0 = h.bootCode (images.getD d none) := by
  rw [HostIf.bootCodes, List.getD_eq_getElem?_getD, List.getElem?_map, List.getElem?_range inside]; rfl

/-- The failing dies as BOOTERR shows them, and the code of the lowest-numbered of them. -/
theorem failedDies (h : HostIf) (images : List (Option DieImage)) {e : Nat} (inside : e < 8) :
    (BitVec.ofNat 8 ((h.bootCodes images).zipIdx.foldl (fun m c => if c.1 = 0 then m else m + 2 ^ c.2) 0)).getLsbD e =
      decide (h.bootCode (images.getD e none) ≠ 0) := by
  rw [BitVec.getLsbD_ofNat, decide_eq_true inside, Bool.true_and, marks_testBit _ 0 0 Nat.zero_lt_one, if_neg (Nat.not_lt_zero e), Nat.sub_zero,
    bootCodes_getD h images inside]

theorem firstFailed (h : HostIf) (images : List (Option DieImage)) {d : Nat} (inside : d < 8) (failed : h.bootCode (images.getD d none) ≠ 0)
    (first : ∀ e < d, h.bootCode (images.getD e none) = 0) : (h.bootCodes images).find? (· != 0) = some (h.bootCode (images.getD d none)) := by
  have length : (h.bootCodes images).length = 8 := by rw [HostIf.bootCodes, List.length_map, List.length_range]
  refine List.find?_eq_some_iff_getElem.mpr ⟨by simpa using failed, d, by omega, ?_, fun e below => ?_⟩
  · simp [HostIf.bootCodes]
  · simpa [HostIf.bootCodes] using first e below

/-- A boot whose dies all accept their images is READY (R283). -/
theorem diesReady_boots {s : State} {images : List (Option DieImage)} {ports : List (BitVec 4)} (boot : s.host.devst = 1)
    (fine : ∀ d < 8, s.host.bootCode (images.getD d none) = 0) : ∃ v r i p ms keys un, s.diesReady images ports = { s with
      draws := s.draws + 16, peers := Vector.ofFn fun p => { s.peers[p] with member := ports.getD p.val (BitVec.ofFin p) }
      host := { s.host with devst := 2, intst := i, msixPending := p, messages := ms, version := v, raised := r, unlocked := un, keys := keys,
                            digests := Vector.ofFn fun d => ((images.getD d.val none).map (·.digest)).getD 0 } }
      ∧ s.host.version ≤ v ∧ (v ≠ s.host.version → r = true ∧ ∃ i, some i ∈ images ∧ i.raises = true ∧ v = i.version) := by
  have all_fine : (s.host.bootCodes images).all (· == 0) = true := by
    simp only [HostIf.bootCodes, List.all_map, List.all_eq_true]
    exact fun d below => by simpa using fine d (List.mem_range.mp below)
  obtain ⟨v, r, e, low, raised⟩ := raiseMinimum_eq s.host (images.filterMap id)
  simp only [State.diesReady, boot, ne_eq, not_true, if_false, all_fine, if_true, State.updHost, e]
  obtain ⟨i, p, ms, acts⟩ := setDevst_eq _ 2
  refine ⟨v, r, i, p, ms, _, _, acts, low, fun new => ?_⟩
  obtain ⟨set, k, listed, raises, version⟩ := raised new
  exact ⟨set, k, by simpa using listed, raises, version⟩

/-- A boot that a die refuses goes to RECOVERY, with the failing dies and the code of the lowest-numbered of them in BOOTERR (R290). -/
theorem diesReady_refuses {s : State} {images : List (Option DieImage)} {ports : List (BitVec 4)} {d : Nat} (boot : s.host.devst = 1) (inside : d < 8)
    (failed : s.host.bootCode (images.getD d none) ≠ 0) (first : ∀ e < d, s.host.bootCode (images.getD e none) = 0) :
    ∃ (m : BitVec 8) (i p : BitVec 5) (ms : List (BitVec 3)), s.diesReady images ports = { s with
      errorLog := s.errorLog ++ [(s.host.bootCode (images.getD d none), 0#48 ++ m ++ s.host.bootCode (images.getD d none))]
      host := { s.host with devst := 4, booterr := 0#48 ++ m ++ s.host.bootCode (images.getD d none), intst := i, msixPending := p, messages := ms } }
      ∧ ∀ e < 8, m.getLsbD e = decide (s.host.bootCode (images.getD e none) ≠ 0) := by
  have not_fine : ¬(s.host.bootCodes images).all (· == 0) = true := fun all => by
    have same := List.all_eq_true.mp all _ (List.mem_of_find?_eq_some (firstFailed s.host images inside failed first))
    exact failed (eq_of_beq same)
  simp only [State.diesReady, boot, ne_eq, not_true, if_false, not_fine, firstFailed s.host images inside failed first, Option.getD_some,
    Bool.false_eq_true]
  generalize marked : BitVec.ofNat 8 ((s.host.bootCodes images).zipIdx.foldl (fun m c => if c.1 = 0 then m else m + 2 ^ c.2) 0) = m
  obtain ⟨i, p, ms, logs⟩ := logError_eq (s.updHost fun h => { h with booterr := 0#48 ++ m ++ s.host.bootCode (images.getD d none) })
    (s.host.bootCode (images.getD d none)) (0#48 ++ m ++ s.host.bootCode (images.getD d none))
  rw [logs]
  obtain ⟨i, p, ms, acts⟩ := setDevst_eq _ 4
  exact ⟨m, i, p, ms, acts, fun e below => marked ▸ failedDies s.host images below⟩

/-- Settles O36: each step by its branch, its interrupts by `setDevst_eq` and `logError_eq`, a boot by `diesReady_boots` and `diesReady_refuses`. -/
theorem bringUpAndHost : Obligations.BringUpAndHost := by
  unfold Obligations.BringUpAndHost
  intro s hst
  refine ⟨fun reset => ?powerOn, fun boot images ports => ?diesReady, ?moduleReset,
    fun v ready asked => ⟨fun small pool => ?arms, fun large => ?badArm⟩, fun v not_ready => ?armNot, fun v served => ?clear,
    fun v served => ⟨?apbase, fun off => ?msix, ?inten, fun ready => ?hcfg, fun not_ready => ⟨?hcfgNot, ?faccNot⟩⟩,
    fun recovery => ⟨fun v => ?noClear, fun o v => ?noWrite, fun n => ?noAttest, fun wr off size v => ?noBar2⟩, fun n served => ?attest, fun asked => ?report,
    fun o v => ⟨fun recovery => ?image, fun no_recovery => ?imageNot⟩, fun thawed => ?freeze, fun frozen => ?thaw⟩
  case powerOn =>
    obtain ⟨i, p, ms, e⟩ := setDevst_eq
      (s.updHost fun h => { h with firmware := if h.recovery.isEmpty then h.firmware else h.recovery, raised := false }) 1
    exact ⟨_, congrArg Host.Outcome.next ((if_neg (not_not_intro reset)).trans e), rfl, rfl, rfl⟩
  case diesReady =>
    intro code
    have codes : ∀ d, code d = s.host.bootCode (images.getD d none) := fun d => by
      simp only [code, HostIf.bootCode]
      cases images.getD d none with
      | none => rfl
      | some i => cases signed : i.signed <;> simp [signed]
    simp only [codes]
    refine ⟨fun fine => ?_, fun d inside failed first => ?_⟩
    · obtain ⟨v, r, i, p, ms, keys, un, e, low, raised⟩ := diesReady_boots boot fine
      refine ⟨_, congrArg Host.Outcome.next e, rfl, low, rfl, fun new => ?_, fun d i listed => ?_⟩
      · obtain ⟨set, i, listed, raises, version⟩ := raised new
        exact ⟨i, listed, raises, version, set⟩
      · exact (Vector.getElem_ofFn _).trans (by rw [listed]; rfl)
    · obtain ⟨m, i, p, ms, e, marks⟩ := diesReady_refuses boot inside failed first
      refine ⟨_, congrArg Host.Outcome.next e, rfl, ?_, ?_, fun e below => ?_, rfl, rfl⟩
      · exact BitVec.extractLsb'_append_eq_right
      · exact (BitVec.extractLsb'_append_eq_of_le (by omega)).trans BitVec.extractLsb'_append_eq_left
      · rw [← marks e below]
        rw [BitVec.getLsbD_append, if_neg (by omega), Nat.add_sub_cancel_left, BitVec.getLsbD_append, if_pos below]
  case moduleReset => exact ⟨_, rfl, rfl, rfl, rfl, rfl, rfl, rfl, rfl, rfl⟩
  case arms =>
    obtain ⟨i, p, ms, e⟩ := setDevst_eq (s.updHost fun h => { h with
      facc := s.host.facc &&& s.host.feat, accepted := s.host.facc &&& s.host.feat, pool := h.vpool, staging := h.stg, package := h.pkgno }) 3
    have taken : ¬(s.host.devst ≠ 2 ∨ (!v.getLsbD 0) = true) := by simp [ready, asked]
    have fits : ¬(10 < s.host.stg.toNat ∨ 32 < s.host.vpool.toNat) := by omega
    exact ⟨_, congrArg Host.Outcome.next ((if_neg taken).trans ((if_neg fits).trans e)), rfl, rfl, rfl, rfl, rfl, rfl, rfl⟩
  case badArm =>
    have taken : ¬(s.host.devst ≠ 2 ∨ (!v.getLsbD 0) = true) := by simp [ready, asked]
    exact ⟨_, congrArg Host.Outcome.next ((if_neg taken).trans (if_pos large)), ready, rfl, rfl, rfl⟩
  case armNot => exact congrArg Host.Outcome.next (if_pos (.inl not_ready))
  case clear => exact congrArg Host.Outcome.next (fromHost_served served _)
  case apbase => exact congrArg Host.Outcome.next (fromHost_served served _)
  case msix =>
    exact congrArg Host.Outcome.next ((fromHost_served served _).trans (congrArg hst (control_off off)))
  case inten => exact congrArg Host.Outcome.next (fromHost_served served _)
  case hcfg => exact congrArg Host.Outcome.next ((fromHost_served served _).trans (congrArg hst (if_pos ready)))
  case hcfgNot => exact congrArg Host.Outcome.next ((fromHost_served served _).trans (congrArg hst (if_neg not_ready)))
  case faccNot => exact congrArg Host.Outcome.next ((fromHost_served served _).trans (congrArg hst (if_neg not_ready)))
  case noClear => exact congrArg Host.Outcome.next (fromHost_recovery recovery _)
  case noWrite => exact congrArg Host.Outcome.next (fromHost_recovery recovery _)
  case noAttest => exact congrArg Host.Outcome.next (fromHost_recovery recovery _)
  case noBar2 => exact congrArg Host.Outcome.next (fromHost_recovery recovery _)
  case attest => exact congrArg Host.Outcome.next (fromHost_served served _)
  case report =>
    obtain ⟨p, ms, e⟩ := interrupt_eq { s.host with
      attestReq := false, attestDone := true
      report := s.host.reportBody ++ bytesOf 2420 (Config.signature s.host.reportBody).toNat } srcATTEST
    have unasked : ¬(!s.host.attestReq) = true := by simp [asked]
    refine ⟨_, congrArg Host.Outcome.next ((if_neg unasked).trans (congrArg hst e)), rfl, rfl, ?_, ?_, rfl⟩
    · obtain ⟨rest, body⟩ : ∃ rest, s.host.reportBody = bytesOf 32 s.host.nonce.toNat ++ rest := ⟨_, by
        simp only [HostIf.reportBody, List.append_assoc]
        rfl⟩
      simp only [hst, body, List.append_assoc]
      exact List.take_left' (bytesOf_length ..)
    · exact (BitVec.getLsbD_or ..).trans (Bool.or_eq_true_iff.mpr (.inr rfl))
  case image => exact congrArg Host.Outcome.next (if_neg (not_not_intro recovery))
  case imageNot => exact congrArg Host.Outcome.next (if_pos no_recovery)
  case freeze =>
    obtain ⟨i, p, ms, e⟩ := setDevst_eq (s.updHost fun h => { h with frozen := true, thawed := h.devst }) 5
    exact ⟨_, congrArg Host.Outcome.next ((if_neg (by rw [thawed]; exact Bool.false_ne_true)).trans e), rfl, rfl, rfl, rfl⟩
  case thaw =>
    obtain ⟨i, p, ms, e⟩ := setDevst_eq (s.updHost fun h => { h with frozen := false }) s.host.thawed
    exact ⟨_, congrArg Host.Outcome.next ((if_pos frozen).trans e), rfl, rfl, rfl⟩

end Sys2Proof.Proofs
/-! # The sealing of a KV page (chapter 13): where it writes, and a page that runs over the end of its stack -/

namespace Sys2Proof.Proofs

open Sys2Proof Sys2Proof.Machine Sys2Proof.Claims Sys2Proof.Laws

/-! ### The bytes of a chunk (R257, R258) -/

theorem joinNibbles_length (bs : List Byte) (ts : List Nat) : (joinNibbles bs ts).length ≤ 2 * bs.length := by
  induction bs, ts using joinNibbles.induct with
  | case1 b bs t u ts ih => simp only [joinNibbles, List.length_cons]; omega
  | case2 bs ts none_left => rw [joinNibbles]; exact Nat.zero_le _; exact none_left

/-- A slot expands to at most 2,048 bytes. -/
theorem expandSlot_length {ls : List Nat} {form : Byte} {slot bs : List Byte} (whole : slot.length = 2048) (e : expandSlot ls form slot = some bs) :
    bs.length ≤ 2048 := by
  simp only [expandSlot] at e
  split at e
  · split at e
    · rw [← Option.some.inj e, whole]
    · cases e
  · split at e
    · rw [← Option.some.inj e, List.length_replicate]
    · split at e
      · obtain ⟨ts, -, rfl⟩ := Option.map_eq_some_iff.mp e
        refine Nat.le_trans (joinNibbles_length ..) ?_
        rw [List.length_take]
        omega
      · cases e

theorem chunkBytes_length {s : State} {hdr page c : Nat} {bs : List Byte} (e : s.chunkBytes hdr page c = some bs) : bs.length ≤ 2048 := by
  simp only [State.chunkBytes] at e
  split at e
  · exact expandSlot_length (read_length ..) e
  · rw [← Option.some.inj e, read_length]

/-- A chunk is stored within its slot. -/
theorem storeChunk_length (ls : List Nat) {bs : List Byte} (fits : bs.length ≤ 2048) : (storeChunk ls bs).2.length ≤ 2048 := by
  simp only [storeChunk]
  split
  · exact Nat.one_le_ofNat
  · split
    · next few => dsimp only; omega
    · exact fits

/-! ### What sealing writes (R258, R260) -/

/-- Bytes stored elsewhere leave a byte alone. -/
theorem get_write_other {m : Mem} (wf : Memory.wf m = true) {a x : Nat} {bs : List Byte} (outside : ¬(a ≤ x ∧ x < a + bs.length)) :
    Memory.get (Memory.write m a bs) x = Memory.get m x := by
  rw [stored_write wf a bs x, if_neg outside]

theorem kvError_wf {s : State} (wf : Memory.wf s.mem = true) (pa : Nat) : Memory.wf (s.kvError pa).mem = true := by
  simp only [State.kvError]
  split
  · exact wf
  · split
    · exact wf
    · exact set_wf wf _ _

theorem countBad_wf {s : State} (wf : Memory.wf s.mem = true) (page : Nat) : Memory.wf (s.countBad page).mem = true := by
  rw [State.countBad]
  generalize List.range 32 = cs
  induction cs generalizing s with
  | nil => exact wf
  | cons c cs ih => exact ih (kvError_wf wf _)

/-- One chunk of the second pass: its form, and the memory with what it stores. -/
def storeForm (s : State) (hdr page : Nat) (ls : List Nat) (acc : List Byte × Mem) (c : Nat) : List Byte × Mem :=
  match s.chunkBytes hdr page c with
  | some bs => let x := storeChunk ls bs; (acc.1 ++ [x.1], Memory.write acc.2 (page + 2048 * c) x.2)
  | none => (acc.1 ++ [Memory.get s.mem (hdr + 8 + c) &&& 0x1F], acc.2)

theorem storePage_eq (s : State) (hdr page : Nat) (ls : List Nat) :
    s.storePage hdr page ls = (List.range 32).foldl (storeForm s hdr page ls) ([], s.mem) := rfl

/-- A chunk of the page is stored in the page, with one form. -/
theorem storeForm_within (s : State) (hdr : Nat) {page : Nat} (ls : List Nat) {acc : List Byte × Mem} {c x : Nat} (wf : Memory.wf acc.2 = true) (inside : c < 32)
    (outside : ¬(page ≤ x ∧ x < page + 65536)) : (storeForm s hdr page ls acc c).1.length = acc.1.length + 1
      ∧ Memory.wf (storeForm s hdr page ls acc c).2 = true ∧ Memory.get (storeForm s hdr page ls acc c).2 x = Memory.get acc.2 x := by
  rw [storeForm]
  cases read : s.chunkBytes hdr page c with
  | none => exact ⟨List.length_append, wf, rfl⟩
  | some bs =>
    have fits := storeChunk_length ls (chunkBytes_length read)
    exact ⟨List.length_append, write_wf wf _ _, get_write_other wf (by omega)⟩

/-- The second pass stores within the page, with a form for each of its chunks. -/
theorem storePage_outside {s : State} (wf : Memory.wf s.mem = true) (hdr : Nat) {page : Nat} (ls : List Nat) {x : Nat}
    (outside : ¬(page ≤ x ∧ x < page + 65536)) : (s.storePage hdr page ls).1.length = 32 ∧ Memory.wf (s.storePage hdr page ls).2 = true
      ∧ Memory.get (s.storePage hdr page ls).2 x = Memory.get s.mem x := by
  have pass : ∀ n ≤ 32, ((List.range n).foldl (storeForm s hdr page ls) ([], s.mem)).1.length = n
      ∧ Memory.wf ((List.range n).foldl (storeForm s hdr page ls) ([], s.mem)).2 = true
      ∧ Memory.get ((List.range n).foldl (storeForm s hdr page ls) ([], s.mem)).2 x = Memory.get s.mem x := fun n few => by
    induction n with
    | zero => exact ⟨rfl, wf, rfl⟩
    | succ n ih =>
      obtain ⟨length, wf, same⟩ := ih (by omega)
      obtain ⟨length', wf', same'⟩ := storeForm_within s hdr ls wf few outside
      rw [List.range_succ, List.foldl_append, List.foldl_cons, List.foldl_nil]
      exact ⟨by rw [length', length], wf', by rw [same', same]⟩
  exact storePage_eq s hdr page ls ▸ pass 32 (Nat.le_refl 32)

/-- Outside the page and its header the seal leaves what the counting of failed chunks leaves. -/
theorem sealPage_outside {s : State} {page : BitVec 40} {hdr x : Nat} (wf : Memory.wf s.mem = true) (feature : s.feature featKVC = true)
    (header : s.kvPageHeader page.toNat = some (hdr, 0)) (asked : (Memory.get s.mem (hdr + 40)).getLsbD 0 = true)
    (not_header : ¬(hdr ≤ x ∧ x < hdr + 64)) (not_page : ¬(page.toNat ≤ x ∧ x < page.toNat + 65536)) :
    Memory.get (s.sealPage page).mem x = Memory.get (s.countBad page.toNat).mem x := by
  simp only [State.sealPage, header, feature, asked, Bool.not_true, Bool.or_self, Bool.false_eq_true, if_false]
  generalize codeLengths _ = ls
  obtain ⟨forms, stored, same⟩ := storePage_outside (countBad_wf wf page.toNat) hdr ls not_page
  refine (get_write_other (setNum_wf stored _ _ _) ?_).trans ((get_setNum_other stored _ (by omega)).trans same)
  rw [List.length_append, List.length_cons, List.length_replicate, forms]
  omega

/-- Two stacks with a page each: that of stack 0 asks for its seal, and begins 2,048 bytes before the stack's end, since its window does; the page of
stack 1 is sealed, and its first chunk cannot be expanded. -/
def runningOver : State :=
  { State.reset with
    host := { HostIf.reset with accepted := BitVec.allOnes 256 }
    bde := #v[⟨0xFFFFFF800, 1, 0x200000, 0⟩, ⟨0, 1, 0x300000, 0⟩, ⟨0, 0, 0, 0⟩, ⟨0, 0, 0, 0⟩, ⟨0, 0, 0, 0⟩, ⟨0, 0, 0, 0⟩, ⟨0, 0, 0, 0⟩, ⟨0, 0, 0, 0⟩]
    mem := [(0x200028, 1), (0x1000300008, 1), (0x1000300028, 2)] }

theorem runningOver_countBad : Memory.get (runningOver.countBad 0xFFFFFF800).mem 0x1000300028 = 6 := by decide +kernel

/-- Refutes O37, in its clause on the seal: KVWB is any number of 36 bits, so a page may begin in the last 64 KiB of a stack. A chunk of it that lies in the next
stack is counted there when it fails, in that stack's page header, which is neither the sealed page's nor in the page. -/
theorem not_windowPortsAndErrors : ¬ Obligations.WindowPortsAndErrors := by
  unfold Obligations.WindowPortsAndErrors
  intro h
  obtain ⟨-, -, -, -, -, -, -, -, -, -, seals⟩ := h runningOver (by decide)
  have header : runningOver.kvPageHeader (0xFFFFFF800 : BitVec 40).toNat = some (0x200000, 0) := by decide
  have asked : (Memory.get runningOver.mem (0x200000 + 40)).getLsbD 0 = true := by decide
  obtain ⟨t, done, -, -, -, elsewhere, -⟩ := seals 0xFFFFFF800 0x200000 (by decide) header asked
  have after : t = runningOver.sealPage 0xFFFFFF800 := (Host.Outcome.next.inj done).symm
  have kept := elsewhere 0x1000300028 (by decide) (by decide)
  rw [after, sealPage_outside (by decide) (by decide) header asked (by decide) (by decide)] at kept
  exact absurd (runningOver_countBad.symm.trans kept) (by decide)

end Sys2Proof.Proofs
/-! # Scalar memory instructions (chapters 6, 17 and 18): what sending a request changes, and each access at its issue -/

namespace Sys2Proof.Proofs

open Sys2Proof Sys2Proof.Machine Sys2Proof.Claims Sys2Proof.Laws

/-! ### A state but for what has been sent -/

/-- `s` with another register set in use, another combining buffer and another request counter. -/
def sent (s : State) (r : RegSet) (comb : List Req) (seq : Nat) : State := { s.setRs r with comb := comb, seq := seq }

@[simp] theorem sent_rs (s : State) (r : RegSet) (c : List Req) (n : Nat) : (sent s r c n).rs = r := by
  cases mode : s.mode <;> simp [sent, State.setRs, State.rs, mode]

@[simp] theorem sent_setRs (s : State) (r r' : RegSet) (c : List Req) (n : Nat) : (sent s r c n).setRs r' = sent s r' c n := by
  cases mode : s.mode <;> simp [sent, State.setRs, mode]

@[simp] theorem sent_sent (s : State) (r r' : RegSet) (c c' : List Req) (n n' : Nat) : sent (sent s r c n) r' c' n' = sent s r' c' n' := by
  cases mode : s.mode <;> simp [sent, State.setRs, mode]

theorem sent_self (s : State) : sent s s.rs s.comb s.seq = s := by
  simp only [sent, State.setRs, State.rs]
  cases s
  split <;> rfl

@[simp] theorem sent_mode (s : State) (r : RegSet) (c : List Req) (n : Nat) : (sent s r c n).mode = s.mode := setRs_mode ..

/-- The requests, the results in flight and the wait are no part of what an instruction leaves still. -/
theorem still_sent {s : State} {r : RegSet} (same : stillSet r = stillSet s.rs) (c : List Req) (n : Nat) : still (sent s r c n) = still s := by
  cases mode : s.mode <;> simp only [State.rs, mode] at same <;> simp only [sent, State.setRs, still, mode, same]

/-- What a state has beside its request counter and register set decides what a request carries. -/
theorem newReq_sent (s : State) {r : RegSet} (pc : r.pc = s.rs.pc) (tick : r.tick = s.rs.tick) (c : List Req) (kind : ReqKind) (va : Word) (n : Nat)
    (ord : Order) (scope : Scope) (rcn : BitVec 4) : (sent s r c s.seq).newReq kind va n ord scope rcn = s.newReq kind va n ord scope rcn := by
  have ctx : (sent s r c s.seq).ctx = (s.setRs r).ctx := rfl
  simp only [State.newReq, sent_rs, pc, tick, ctx, sent_mode, Ctx.copyView, setRs_ctx_txn, setRs_ctx_snap, setRs_ctx_csr]
  rfl

/-! ### Sending -/

theorem flushComb_sent (s : State) : s.flushComb = sent s { s.rs with reqs := s.rs.reqs ++ s.comb } [] s.seq := by
  cases mode : s.mode <;> simp [State.flushComb, sent, State.setRs, State.rs, mode]

theorem flushWord_sent (s : State) (va : Word) (n : Nat) : ∃ more c, s.flushWord va n = sent s { s.rs with reqs := s.rs.reqs ++ more } c s.seq := by
  generalize hits : (fun q : Req => (s.touches q).any fun a => sameWords a.1 a.2 (s.physOf va) n) = hit
  refine ⟨s.comb.filter hit, s.comb.filter (fun q => !hit q), ?_⟩
  subst hits
  cases mode : s.mode <;> simp [State.flushWord, sent, State.setRs, State.rs, mode]

theorem enqueue_sent (s : State) (kind : ReqKind) (va : Word) (n : Nat) (ord : Order) (scope : Scope) (rcn : BitVec 4) :
    s.enqueue kind va n ord scope rcn = sent s { s.rs with reqs := s.rs.reqs ++ [s.newReq kind va n ord scope rcn] } s.comb (s.seq + 1) := by
  cases mode : s.mode <;> simp [State.enqueue, sent, State.setRs, State.rs, mode]

/-- An atomic's word leaves the L1 as it issues (R135); any other request leaves the L1 alone. -/
theorem atomicIssues_cases (s : State) (kind : ReqKind) (va : Word) (n : Nat) :
    ((kind.acc = .read ∨ kind.acc = .write) ∧ s.atomicIssues kind va n = s)
      ∨ ((kind.acc = .atomic ∨ kind.acc = .cas) ∧ s.atomicIssues kind va n = s.evictL1 (s.physOf va) n) := by
  cases kind with
  | load _ | touch | loadFe _ | grab | csrRemote _ | loadH _ => exact .inl ⟨.inl rfl, rfl⟩
  | store _ | storeFe _ | storeH _ _ | vpub _ => exact .inl ⟨.inr rfl, rfl⟩
  | atomic _ _ | atomicRemote _ _ _ _ | red _ _ => exact .inr ⟨.inl rfl, rfl⟩
  | cas _ _ _ => exact .inr ⟨.inr rfl, rfl⟩

/-- A request joins those sent, behind what it flushes of the combining buffer (R138). -/
theorem send_issued (s : State) (kind : ReqKind) (va : Word) (n : Nat) (ord : Order) (scope : Scope) (rcn : BitVec 4) : ∃ more c,
    s.send kind va n ord scope rcn = sent (s.atomicIssues kind va n) { s.rs with reqs := s.rs.reqs ++ more ++ [s.newReq kind va n ord scope rcn] } c (s.seq + 1) := by
  have kept : (s.atomicIssues kind va n).rs = s.rs ∧ (s.atomicIssues kind va n).seq = s.seq
      ∧ (s.atomicIssues kind va n).newReq kind va n ord scope rcn = s.newReq kind va n ord scope rcn := by
    rcases atomicIssues_cases s kind va n with ⟨-, e⟩ | ⟨-, e⟩ <;> rw [e] <;> exact ⟨rfl, rfl, rfl⟩
  simp only [State.send]
  generalize s.atomicIssues kind va n = w at kept ⊢
  obtain ⟨rs, seq, req⟩ := kept
  have flushes : ∃ more c, (if ordReleases ord then w.flushComb else w.flushWord va n) = sent w { w.rs with reqs := w.rs.reqs ++ more } c w.seq := by
    split
    · exact ⟨_, _, flushComb_sent w⟩
    · exact flushWord_sent w va n
  obtain ⟨more, c, e⟩ := flushes
  refine ⟨more, c, ?_⟩
  rw [e, enqueue_sent, newReq_sent w (r := { w.rs with reqs := w.rs.reqs ++ more }) rfl rfl, sent_rs, sent_sent, req, ← rs, ← seq]
  rfl

/-- One that is no atomic leaves the L1. -/
theorem send_sent (s : State) {kind : ReqKind} (plain : kind.acc = .read ∨ kind.acc = .write) (va : Word) (n : Nat) (ord : Order) (scope : Scope) (rcn : BitVec 4) :
    ∃ more c, s.send kind va n ord scope rcn = sent s { s.rs with reqs := s.rs.reqs ++ more ++ [s.newReq kind va n ord scope rcn] } c (s.seq + 1) := by
  rcases atomicIssues_cases s kind va n with ⟨-, e⟩ | ⟨acc, -⟩
  · have issued := send_issued s kind va n ord scope rcn
    rwa [e] at issued
  · rcases plain with h | h <;> rcases acc with h' | h' <;> rw [h] at h' <;> cases h'

/-- An atomic drops its word from the L1. -/
theorem send_atomic (s : State) {kind : ReqKind} (acc : kind.acc = .atomic ∨ kind.acc = .cas) (va : Word) (n : Nat) (ord : Order) (scope : Scope)
    (rcn : BitVec 4) : ∃ more c, s.send kind va n ord scope rcn =
      sent (s.evictL1 (s.physOf va) n) { s.rs with reqs := s.rs.reqs ++ more ++ [s.newReq kind va n ord scope rcn] } c (s.seq + 1) := by
  rcases atomicIssues_cases s kind va n with ⟨plain, -⟩ | ⟨-, e⟩
  · rcases plain with h | h <;> rcases acc with h' | h' <;> rw [h] at h' <;> cases h'
  · have issued := send_issued s kind va n ord scope rcn
    rwa [e] at issued

/-- The result that awaits the request sent last. -/
theorem await_sent (s : State) (r : RegSet) (c : List Req) (n lat : Nat) (a : Land) :
    (sent s r c n).await lat a = sent s { r with flights := r.flights ++ [⟨r.tick + lat, r.tick, n, some (n - 1), a⟩] } c n := by
  simp only [State.await, sent_rs, sent_setRs]
  rfl

theorem waitPerformed_sent (s : State) (r : RegSet) (c : List Req) (n : Nat) :
    (sent s r c n).waitPerformed = sent s { r with wait := .performed (n - 1) } c n := by
  simp only [State.waitPerformed, sent_rs, sent_setRs]
  rfl

theorem holdIfVersioned_sent (s : State) (r : RegSet) (c : List Req) (n : Nat) (joins : Bool) (va : Word) :
    ∃ w, (sent s r c n).holdIfVersioned joins va = sent s { r with wait := w } c n := by
  simp only [State.holdIfVersioned]
  split
  · exact ⟨_, waitPerformed_sent s r c n⟩
  · exact ⟨r.wait, rfl⟩

/-! ### What the claims say of a state that has sent -/

theorem sentLast_sent {u s : State} {r : RegSet} {kind : ReqKind} {va : Word} {n : Nat} {ord : Order} {scope : Scope} {rcn : BitVec 4} {reqs : List Req}
    (last : r.reqs = reqs ++ [u.newReq kind va n ord scope rcn]) (c : List Req) (k : Nat) : SentLast u (sent s r c k) kind va n ord scope rcn := by
  refine ⟨u.seq, ?_⟩
  rw [sent_rs, last, List.getLast?_append_of_ne_nil _ (List.cons_ne_nil _ _)]
  rfl

theorem awaitsLast_sent {s : State} {r : RegSet} {q : Req} {reqs : List Req} {flights : List Flight} {tick order lat k : Nat} {a : Land} {c : List Req}
    (last : r.reqs = reqs ++ [q]) (awaits : r.flights = flights ++ [⟨r.tick + lat, tick, order, some q.id, a⟩]) : AwaitsLast (sent s r c k) lat a := by
  refine ⟨q, ⟨r.tick + lat, tick, order, some q.id, a⟩, ?_, ?_, rfl, ?_, rfl⟩
  · rw [sent_rs, last, List.getLast?_append_of_ne_nil _ (List.cons_ne_nil _ _)]; rfl
  · rw [sent_rs, awaits, List.getLast?_append_of_ne_nil _ (List.cons_ne_nil _ _)]; rfl
  · rw [sent_rs]

/-- An access whose data a register awaits. -/
theorem loads_sent (u : State) {kind : ReqKind} (plain : kind.acc = .read ∨ kind.acc = .write) (va : Word) (n : Nat) (ord : Order) (scope : Scope) (rcn : BitVec 4)
    (lat : Nat) (a : Land) : let t := (u.send kind va n ord scope rcn).await lat a
      SentLast u t kind va n ord scope rcn ∧ AwaitsLast t lat a ∧ still t = still u := by
  obtain ⟨more, c, e⟩ := send_sent u plain va n ord scope rcn
  rw [e, await_sent]
  exact ⟨sentLast_sent rfl c _, awaitsLast_sent rfl rfl, still_sent (by rfl) c _⟩

/-- An atomic whose result a register awaits: a page that is versioned adds a hold. -/
theorem atomics_sent (u : State) {kind : ReqKind} (acc : kind.acc = .atomic ∨ kind.acc = .cas) (va : Word) (n : Nat) (ord : Order) (scope : Scope) (lat : Nat)
    (a : Land) : let t := ((u.send kind va n ord scope 0).holdIfVersioned false va).await lat a
      SentLast u t kind va n ord scope 0 ∧ AwaitsLast t lat a ∧ still t = still (u.evictL1 (u.physOf va) n) := by
  obtain ⟨more, c, e⟩ := send_atomic u acc va n ord scope 0
  obtain ⟨w, holds⟩ := holdIfVersioned_sent (u.evictL1 (u.physOf va) n) { u.rs with reqs := u.rs.reqs ++ more ++ [u.newReq kind va n ord scope 0] } c (u.seq + 1) false va
  rw [e, holds, await_sent]
  exact ⟨sentLast_sent rfl c _, awaitsLast_sent rfl rfl, still_sent (by rfl) c _⟩

/-! ### The combining buffer (R138) -/

theorem tlbFor_eq (s : State) (atp va : Word) : ∃ x y, s.tlbFor atp va = { s with tlb := x, dieTlb := y } := by
  simp only [State.tlbFor]
  split <;> exact ⟨_, _, rfl⟩

/-- A RED that enters the buffer joins it, or an entry of its word takes it in; a full buffer sends its oldest. -/
theorem enterComb_sent (s : State) (q : Req) : ∃ reqs c, s.enterComb q = sent s { s.rs with reqs := reqs } c s.seq
    ∧ (s.comb = [] → c = [q] ∧ reqs = s.rs.reqs) ∧ ∀ e, s.comb = [e] → e.merges q = true → c = [e.merge q] ∧ reqs = s.rs.reqs := by
  have buffered : ∀ c, ({ s with comb := c } : State) = sent s s.rs c s.seq := fun c => by
    simp only [sent, State.setRs, State.rs]
    cases s
    split <;> rfl
  simp only [State.enterComb]
  split
  · next merges =>
    refine ⟨s.rs.reqs, _, buffered _, fun empty => ?_, fun e only taken => ?_⟩
    · rw [empty] at merges; cases merges
    · rw [only]; exact ⟨if_pos taken, rfl⟩
  · next unmerged =>
    have alone : ∀ e, s.comb = [e] → e.merges q = true → False := fun e only taken => unmerged (by rw [only]; simp [taken])
    split
    · next old rest comb =>
      split
      · next full =>
        refine ⟨s.rs.reqs ++ [old], rest ++ [q], ?_, fun empty => ?_, fun e only taken => (alone e only taken).elim⟩
        · rw [buffered, sent_setRs]
        · rw [empty] at comb; cases comb
      · refine ⟨s.rs.reqs, _, buffered _, fun empty => ?_, fun e only taken => (alone e only taken).elim⟩
        rw [empty] at comb; cases comb
    · exact ⟨s.rs.reqs, _, buffered _, fun _ => ⟨rfl, rfl⟩, fun e only taken => (alone e only taken).elim⟩

/-- The translations that a state has cached are apart from what it has sent. -/
theorem sent_tlb (s : State) (x y x' y' : List TlbEntry) (r : RegSet) (c : List Req) (n : Nat) :
    ({ sent { s with tlb := x, dieTlb := y } r c n with tlb := x', dieTlb := y' } : State) = sent { s with tlb := x', dieTlb := y' } r c n := by
  cases mode : s.mode <;> simp [sent, State.setRs]

/-- A relaxed RED is sent where its translation fails or names a versioned page, else it enters the combining buffer (R138). -/
theorem sendRed_sent (u : State) (op : AtomOp) (v va : Word) (n : Nat) (scope : Scope) :
    let w := u.evictL1 (u.physOf va) n
    let q := u.newReq (.red op v) va n .rlx scope 0
    ∃ x y reqs c, u.sendRed op v va n scope = sent { w with tlb := x, dieTlb := y } { u.rs with reqs := reqs } c (u.seq + 1)
      ∧ ((∀ p, w.resolve q = .ok p → p.v = true) → ∃ rs, reqs = rs ++ [q])
      ∧ ∀ p, w.resolve q = .ok p → p.v = false → (u.comb = [] → c = [{ q with pa := some p }] ∧ reqs = u.rs.reqs)
        ∧ ∀ e, u.comb = [e] → e.merges { q with pa := some p } = true → c = [e.merge { q with pa := some p }] ∧ reqs = u.rs.reqs := by
  intro w q
  have alone : w.enqueue (.red op v) va n .rlx scope 0 = sent { w with tlb := w.tlb, dieTlb := w.dieTlb } { u.rs with reqs := u.rs.reqs ++ [q] } w.comb (u.seq + 1) :=
    enqueue_sent w _ va n _ scope 0
  have acts : u.sendRed op v va n scope = match w.resolve q with
    | .error _ => w.enqueue (.red op v) va n .rlx scope 0
    | .ok p => if p.v then w.enqueue (.red op v) va n .rlx scope 0
      else { (w.tlbFor q.atp va).enterComb { q with pa := some p } with seq := w.seq + 1 } := rfl
  rw [acts]
  cases place : w.resolve q with
  | error f => exact ⟨_, _, _, _, alone, fun _ => ⟨_, rfl⟩, fun p e => by cases e⟩
  | ok p =>
    cases versioned : p.v with
    | true =>
      refine ⟨_, _, _, _, (if_pos versioned).trans alone, fun _ => ⟨_, rfl⟩, fun p' e plain => ?_⟩
      cases e
      exact absurd (versioned.symm.trans plain) (by decide)
    | false =>
      obtain ⟨x, y, filled⟩ := tlbFor_eq w q.atp va
      obtain ⟨reqs, c, entered, first, merged⟩ := enterComb_sent (w.tlbFor q.atp va) { q with pa := some p }
      rw [filled] at entered first merged
      refine ⟨x, y, reqs, c, ?_, fun all => absurd ((all p rfl).symm.trans versioned) (by decide), fun p' e _ => ?_⟩
      · refine (if_neg (by rw [versioned]; exact Bool.false_ne_true)).trans ?_
        rw [filled, entered]
        rfl
      · cases e
        exact ⟨first, merged⟩

/-- Settles O9: each access by what it sends (`loads_sent`, `atomics_sent`, `send_sent`), a relaxed RED by `sendRed_sent`. -/
theorem scalarAccesses : Obligations.ScalarAccesses := by
  unfold Obligations.ScalarAccesses
  intro s g d a b c disp size ord scope lat op turn n low
  refine ⟨fun op' => ?loads, fun op' => ?stores, fun op' => ?amo, fun op' fa => ?cas⟩
  case loads =>
    intro u va
    have act : ∀ {i : Instr} {f : List Word → State → State}, meaningOf i = some (g, Slot.scalar [a] [d] noTrap noHold f) →
        exec i s = .next (f (operands [a] s).1 u) := fun means => exec_scalar_act means turn op' rfl rfl
    refine ⟨fun sx register => ?_, fun sx none => ?_, fun peek => ?_, ?_, fun csr => ⟨fun aligned => ?_, fun misaligned => ?_⟩⟩
    · refine ⟨_, (act rfl).trans (congrArg _ (if_neg register)), loads_sent u (.inl rfl) va n ord scope 0 _ _⟩
    · obtain ⟨more, c, e⟩ := send_sent u (kind := .touch) (.inl rfl) va n ord scope 0
      refine ⟨_, (act rfl).trans (congrArg _ ((if_pos none).trans e)), sentLast_sent rfl c _, ?_, still_sent (by rfl) c _⟩
      rw [sent_rs, ← popped_rs [a] s]
    · exact ⟨_, act rfl, loads_sent u (.inl rfl) va n ord scope 0 _ _⟩
    · refine ⟨_, act rfl, ?_⟩
      rw [enqueue_sent, await_sent]
      exact ⟨sentLast_sent rfl _ _, awaitsLast_sent rfl rfl, still_sent (by rfl) _ _⟩
    · have place : (8 : Word) * csr.setWidth 64 = BitVec.ofNat 64 (8 * csr.toNat) := by bv_omega
      rw [place]
      exact ⟨_, exec_scalar_act rfl turn op' (if_neg (not_not_intro aligned)) rfl, loads_sent u (.inl rfl) _ 8 _ _ 0 _ _⟩
    · exact exec_scalar_trap rfl turn op' (if_pos misaligned)
  case stores =>
    intro u va v w
    have act : ∀ {i : Instr} {f : List Word → State → State}, meaningOf i = some (g, Slot.scalar [a, b] [] noTrap noHold f) →
        exec i s = .next (f (operands [a, b] s).1 u) := fun means => exec_scalar_act means turn op' rfl rfl
    have kept : u.rs = s.rs := popped_rs [a, b] s
    refine ⟨?st, ?stfe, fun strict => ?red, fun relaxed => ?relaxed⟩
    case st =>
      obtain ⟨more, c, e⟩ := send_sent u (kind := .store v) (.inr rfl) va n ord scope u.storeCount
      obtain ⟨x, holds⟩ := holdIfVersioned_sent u { u.rs with reqs := u.rs.reqs ++ more ++ [u.newReq (.store v) va n ord scope u.storeCount] } c (u.seq + 1) true va
      have count : u.storeCount = s.ctx.csr.rcnt := by rw [State.storeCount, popped_csr]
      refine ⟨_, (act rfl).trans (congrArg _ ((congrArg (·.holdIfVersioned true va) e).trans holds)), ?_, ?_, still_sent (by rfl) c _⟩
      · rw [← count]; exact sentLast_sent rfl c _
      · rw [sent_rs, ← kept]
    case stfe =>
      obtain ⟨more, c, e⟩ := send_sent u (kind := .storeFe v) (.inr rfl) va n ord scope 0
      refine ⟨_, (act rfl).trans (congrArg _ ((congrArg (·.waitPerformed) e).trans (waitPerformed_sent ..))), sentLast_sent rfl c _, ?_,
        still_sent (by rfl) c _, u.newReq (.storeFe v) va n ord scope 0, ?_, ?_⟩
      · rw [sent_rs, ← kept]
      · rw [sent_rs, List.getLast?_append_of_ne_nil _ (List.cons_ne_nil _ _)]; rfl
      · rw [sent_rs]; rfl
    case red =>
      obtain ⟨more, c, e⟩ := send_atomic u (kind := .red op v) (.inl rfl) (src [a, b] s 0) n ord scope 0
      obtain ⟨x, holds⟩ := holdIfVersioned_sent w { u.rs with reqs := u.rs.reqs ++ more ++ [u.newReq (.red op v) (src [a, b] s 0) n ord scope 0] } c (u.seq + 1) false
        (src [a, b] s 0)
      refine ⟨_, (act rfl).trans (congrArg _ ((congrArg (·.holdIfVersioned false (src [a, b] s 0)) ((if_neg strict).trans e)).trans holds)),
        sentLast_sent rfl c _, ?_, still_sent (by rfl) c _⟩
      rw [sent_rs, ← kept]
    case relaxed =>
      intro q
      obtain ⟨tlb, dieTlb, comb⟩ : u.tlb = s.tlb ∧ u.dieTlb = s.dieTlb ∧ u.comb = s.comb := by
        obtain ⟨_, _, _, _, _, e⟩ := popped_eq [a, b] s
        simp only [u, e, and_self]
      obtain ⟨x, y, reqs, c, e, single, enters⟩ := sendRed_sent u op v (src [a, b] s 0) n scope
      obtain ⟨h, holds⟩ := holdIfVersioned_sent { w with tlb := x, dieTlb := y } { u.rs with reqs := reqs } c (u.seq + 1) false (src [a, b] s 0)
      refine ⟨_, (act rfl).trans (congrArg _ ((congrArg (·.holdIfVersioned false (src [a, b] s 0)) ((if_pos relaxed).trans e)).trans holds)), ?_, ?_,
        fun versioned => ?_, fun p place plain => ⟨fun empty => ?_, fun entry z only kind summed word bytes same => ?_⟩⟩
      · rw [sent_rs, ← kept]
      · rw [sent_tlb]
        rw [← tlb, ← dieTlb]
        exact still_sent (by rfl) _ _
      · obtain ⟨rs, last⟩ := single versioned
        exact sentLast_sent (reqs := rs) last c _
      · obtain ⟨first, -⟩ := enters p place plain
        obtain ⟨buffer, none_sent⟩ := first (comb.trans empty)
        exact ⟨buffer, by rw [sent_rs, none_sent, kept]⟩
      · obtain ⟨-, merged⟩ := enters p place plain
        have merges : entry.merges { q with pa := some p } = true := by simp [Req.merges, kind, q, State.newReq, summed, word, bytes, same]
        have result : entry.merge { q with pa := some p } = { entry with kind := .red op (combineOp op z v n), last := q.id } := by
          simp only [Req.merge, kind, q, State.newReq, bytes]
        obtain ⟨buffer, none_sent⟩ := merged entry (comb.trans only) merges
        exact ⟨buffer.trans (congrArg ([·]) result), by rw [sent_rs, none_sent, kept]⟩
  case amo =>
    exact ⟨_, exec_scalar_act rfl turn op' rfl rfl, atomics_sent _ (.inl rfl) _ n ord scope _ _⟩
  case cas =>
    exact ⟨_, exec_scalar_act rfl turn op' rfl rfl, atomics_sent _ (.inr rfl) _ n ord scope _ _⟩

end Sys2Proof.Proofs
/-! # AMOR, HLD, HST and FENCE (chapters 6, 17 and 18) -/

namespace Sys2Proof.Proofs

open Sys2Proof Sys2Proof.Machine Sys2Proof.Claims Sys2Proof.Laws

/-! ### Requests sent one after another -/

/-- Steps that each send one request, and keep what has been sent before, send one request each. -/
theorem fold_sends {s : State} {step : State → Nat → State} {made : Nat → RegSet → Prop}
    (lasts : ∀ i r r', r.reqs ⊆ r'.reqs → r.flights ⊆ r'.flights → made i r → made i r')
    (one : ∀ i r c, stillSet r = stillSet s.rs → ∃ r' c', step (sent s r c (s.seq + i)) i = sent s r' c' (s.seq + (i + 1)) ∧ stillSet r' = stillSet s.rs
      ∧ r.reqs ⊆ r'.reqs ∧ r.flights ⊆ r'.flights ∧ made i r') (n : Nat) :
    ∃ r c, (List.range n).foldl step s = sent s r c (s.seq + n) ∧ stillSet r = stillSet s.rs ∧ ∀ i < n, made i r := by
  induction n with
  | zero => exact ⟨s.rs, s.comb, (sent_self s).symm, rfl, fun i none => absurd none (Nat.not_lt_zero i)⟩
  | succ n ih =>
    obtain ⟨r, c, e, same, before⟩ := ih
    obtain ⟨r', c', e', same', reqs, flights, now⟩ := one n r c same
    refine ⟨r', c', by rw [List.range_succ, List.foldl_append, e]; exact e', same', fun i inside => ?_⟩
    rcases Nat.lt_succ_iff_lt_or_eq.mp inside with earlier | rfl
    · exact lasts i r r' reqs flights (before i earlier)
    · exact now

/-- What `stillSet` leaves in has the same tick. -/
theorem stillSet_tick {r r' : RegSet} (same : stillSet r = stillSet r') : r.tick = r'.tick :=
  show (stillSet r).tick = (stillSet r').tick by rw [same]

/-! ### HLD and HST (R362) -/

/-- One word of HLD: its request, and the result that awaits it. -/
def wordLoaded (u : State) (h : HReg) (va : Word) (ord : Order) (i : Nat) (r : RegSet) : Prop :=
  ∃ q ∈ r.reqs, ∃ f ∈ r.flights, q.kind = .loadH i ∧ q.va = va + BitVec.ofNat 64 (8 * i) ∧ q.bytes = 8 ∧ q.ord = ord
    ∧ f.req = some q.id ∧ f.due = u.rs.tick + 1 ∧ f.act = .hfield h (wordField i) 0

theorem hld_sends (u : State) (h : HReg) (va : Word) (ord : Order) (scope : Scope) : ∃ r c,
    (List.range 4).foldl (fun s i => (s.send (.loadH i) (va + BitVec.ofNat 64 (8 * i)) 8 ord scope 0).await 1 (.hfield h (wordField i) 0)) u =
      sent u r c (u.seq + 4) ∧ stillSet r = stillSet u.rs ∧ ∀ i < 4, wordLoaded u h va ord i r := by
  refine fold_sends (made := wordLoaded u h va ord) ?lasts (fun i r c same => ?one) 4
  case lasts =>
    rintro i r r' reqs flights ⟨q, mem, f, flies, rest⟩
    exact ⟨q, reqs mem, f, flights flies, rest⟩
  case one =>
    obtain ⟨more, c', e⟩ := send_sent (sent u r c (u.seq + i)) (kind := .loadH i) (.inl rfl) (va + BitVec.ofNat 64 (8 * i)) 8 ord scope 0
    rw [e, await_sent, sent_sent]
    refine ⟨_, c', rfl, ?_, ?_, ?_, _, List.mem_append_right _ (List.mem_singleton_self _), _, List.mem_append_right _ (List.mem_singleton_self _), rfl, rfl, rfl, rfl,
      rfl, ?_, rfl⟩
    · rw [← same, sent_rs]; rfl
    · rw [sent_rs]
      exact fun q mem => List.mem_append_left _ (List.mem_append_left _ mem)
    · rw [sent_rs]
      exact List.subset_append_left _ _
    · rw [sent_rs, ← stillSet_tick same]

/-- One word of HST: its request, numbered in order. -/
def wordStored (u : State) (img : Handle) (va : Word) (ord : Order) (i : Nat) (r : RegSet) : Prop :=
  ∃ q ∈ r.reqs, q.kind = .storeH i (handleWord img i) ∧ q.va = va + BitVec.ofNat 64 (8 * i) ∧ q.bytes = 8 ∧ q.ord = ord ∧ q.rcn = u.storeCount
    ∧ q.id = u.seq + i

theorem hst_sends (u : State) (img : Handle) (va : Word) (ord : Order) (scope : Scope) : ∃ r c,
    (List.range 4).foldl (fun s i => s.send (.storeH i (handleWord img i)) (va + BitVec.ofNat 64 (8 * i)) 8 ord scope s.storeCount) u =
      sent u r c (u.seq + 4) ∧ stillSet r = stillSet u.rs ∧ ∀ i < 4, wordStored u img va ord i r := by
  refine fold_sends (made := wordStored u img va ord) ?lasts (fun i r c same => ?one) 4
  case lasts =>
    rintro i r r' reqs - ⟨q, mem, rest⟩
    exact ⟨q, reqs mem, rest⟩
  case one =>
    have count : (sent u r c (u.seq + i)).storeCount = u.storeCount := congrArg CtxCsr.rcnt (setRs_ctx_csr u r)
    obtain ⟨more, c', e⟩ := send_sent (sent u r c (u.seq + i)) (kind := .storeH i (handleWord img i)) (.inr rfl) (va + BitVec.ofNat 64 (8 * i)) 8 ord scope
      (sent u r c (u.seq + i)).storeCount
    rw [e, sent_sent]
    refine ⟨_, c', rfl, ?_, ?_, ?_, _, List.mem_append_right _ (List.mem_singleton_self _), rfl, rfl, rfl, rfl, count, rfl⟩
    · rw [← same, sent_rs]; rfl
    · rw [sent_rs]
      exact fun q mem => List.mem_append_left _ (List.mem_append_left _ mem)
    · rw [sent_rs]
      exact List.Subset.refl _

/-! ### AMOR (R136, R323) -/

/-- An arrival changes the domains alone. -/
theorem arrive_eq (s : State) (l : BitVec 3) : (s.arrive l).rs = s.rs ∧ { s.arrive l with ctx := { (s.arrive l).ctx with doms := s.ctx.doms } } = s := by
  refine ⟨?_, rfl⟩
  cases mode : s.mode <;> simp [State.arrive, State.rs, Ctx.updDom, mode]

/-- An atomic sent, with the hold that a versioned page adds, leaves the domains. -/
theorem atomic_sends (u : State) {kind : ReqKind} (acc : kind.acc = .atomic ∨ kind.acc = .cas) (va : Word) (n : Nat) (ord : Order) (scope : Scope) :
    let t := (u.send kind va n ord scope 0).holdIfVersioned false va
    SentLast u t kind va n ord scope 0 ∧ t.ctx.doms = u.ctx.doms ∧ still t = still (u.evictL1 (u.physOf va) n) := by
  obtain ⟨more, c, e⟩ := send_atomic u acc va n ord scope 0
  obtain ⟨x, holds⟩ := holdIfVersioned_sent (u.evictL1 (u.physOf va) n) { u.rs with reqs := u.rs.reqs ++ more ++ [u.newReq kind va n ord scope 0] } c
    (u.seq + 1) false va
  rw [e, holds]
  exact ⟨sentLast_sent rfl c _, setRs_ctx_doms _ _, still_sent (by rfl) c _⟩

/-! ### FENCE (R138, R362) -/

/-- A fence goes on once nothing that it orders is open. -/
theorem fenceHold_false {s : State} {sc : Bool} {ord : Order}
    (acquires : (sc || ordAcquires ord) = true → ¬∃ q ∈ s.liveReqs, q.reply = none ∧ q.kind.reads = true)
    (releases : (sc || ordReleases ord) = true → s.comb = [] ∧ ¬∃ q ∈ s.liveReqs, q.reply = none ∧ q.kind.writes = true) : fenceHold sc ord s = false := by
  have closed : ∀ k : ReqKind → Bool, (¬∃ q ∈ s.liveReqs, q.reply = none ∧ k q.kind = true) →
      s.liveReqs.any (fun q => q.reply.isNone && k q.kind) = false := fun k none_open =>
    List.any_eq_false.mpr fun q mem => fun h => none_open ⟨q, mem, by simpa using h⟩
  refine Bool.or_eq_false_iff.mpr ⟨?_, ?_⟩
  · cases acq : sc || ordAcquires ord with
    | false => rfl
    | true => exact closed _ (acquires acq)
  · cases rel : sc || ordReleases ord with
    | false => rfl
    | true =>
      obtain ⟨comb, none_open⟩ := releases rel
      rw [comb, closed _ none_open]; rfl

/-- It holds while something is. -/
theorem fenceHold_true {s : State} {sc : Bool} {ord : Order}
    (open' : (sc || ordAcquires ord) = true ∧ (∃ q ∈ s.liveReqs, q.reply = none ∧ q.kind.reads = true)
      ∨ (sc || ordReleases ord) = true ∧ (s.comb ≠ [] ∨ ∃ q ∈ s.liveReqs, q.reply = none ∧ q.kind.writes = true)) : fenceHold sc ord s = true := by
  have found : ∀ k : ReqKind → Bool, (∃ q ∈ s.liveReqs, q.reply = none ∧ k q.kind = true) →
      s.liveReqs.any (fun q => q.reply.isNone && k q.kind) = true := fun k ⟨q, mem, reply, kind⟩ =>
    List.any_eq_true.mpr ⟨q, mem, by rw [reply, kind]; rfl⟩
  rcases open' with ⟨acq, reads⟩ | ⟨rel, comb | writes⟩
  · simp only [fenceHold, acq, found _ reads, Bool.and_self, Bool.true_or]
  · have some_left : s.comb.isEmpty = false := List.isEmpty_eq_false_iff.mpr comb
    simp only [fenceHold, rel, some_left, Bool.not_false, Bool.true_or, Bool.and_self, Bool.or_true]
  · simp only [fenceHold, rel, found _ writes, Bool.or_true, Bool.and_self]

/-- What a fence that goes on does: the buffer is sent, an acquire drops the words not owned, a release gates the requests before it. -/
def fenced (s : State) (acq rel : Bool) : State :=
  let t := if acq then s.flushComb.acquireL1 else s.flushComb
  if rel then { t.bothSets (RegSet.fence t.seq) with seq := t.seq + 1 } else t

/-- The gate of a release fence comes behind the requests of both register sets. -/
theorem gated_rs (t : State) (n k : Nat) :
    ({ t.bothSets (RegSet.fence n) with seq := k } : State).rs.reqs = t.rs.reqs.map fun q => if !q.away then { q with gate := some (q.gate.getD n) } else q := by
  have gate : (fun q : Req => if q.away then q else { q with gate := some (q.gate.getD n) }) =
      fun q => if !q.away then { q with gate := some (q.gate.getD n) } else q := funext fun q => by cases q.away <;> rfl
  cases mode : t.mode <;> simp only [State.bothSets, State.rs, mode, RegSet.fence, gate]

theorem fenced_changes (s : State) (acq rel : Bool) : (fenced s acq rel).comb = [] ∧ (fenced s acq rel).rs.reqs = (s.rs.reqs ++ s.comb).map (fun q =>
      if rel && !q.away then { q with gate := some (q.gate.getD s.seq) } else q)
    ∧ (fenced s acq rel).l1 = (if acq then s.l1.filter (·.owned) else s.l1) ∧ still { fenced s acq rel with l1 := s.l1 } = still s := by
  obtain ⟨-, -, flushed⟩ := flushComb_still s
  obtain ⟨-, -, comb⟩ := flushComb_doms s
  have reqs : s.flushComb.rs.reqs = s.rs.reqs ++ s.comb := by rw [flushComb_sent, sent_rs]
  have seq : s.flushComb.seq = s.seq := by rw [flushComb_sent]; rfl
  have l1 : s.flushComb.l1 = s.l1 := by rw [State.flushComb, setRs_l1]
  generalize acquired : (if acq then s.flushComb.acquireL1 else s.flushComb) = t
  have after : t.comb = [] ∧ t.rs.reqs = s.rs.reqs ++ s.comb ∧ t.seq = s.seq ∧ t.l1 = (if acq then s.l1.filter (·.owned) else s.l1)
      ∧ still { t with l1 := s.l1 } = still s := by
    subst acquired
    cases acq with
    | true => exact ⟨comb, reqs, seq, congrArg _ l1, by rw [← flushed, ← l1]; rfl⟩
    | false => exact ⟨comb, reqs, seq, l1, by rw [← flushed, ← l1]; rfl⟩
  obtain ⟨comb, reqs, seq, l1, same⟩ := after
  rw [fenced, acquired]
  cases rel with
  | true => exact ⟨comb, by rw [if_pos rfl, gated_rs, reqs, seq]; rfl, l1, same⟩
  | false => exact ⟨comb, reqs.trans (List.map_id _).symm, l1, same⟩

/-- Settles O10: AMOR by `send_atomic` and `arrive_eq`, the images by `hld_sends` and `hst_sends`, FENCE by `fenced_changes`. -/
theorem domainAtomicsImagesAndFences : Obligations.DomainAtomicsImagesAndFences := by
  unfold Obligations.DomainAtomicsImagesAndFences
  intro s g turn
  refine ⟨fun d a b op size l op' level ok near => ?amor, fun h a disp ord scope op' => ⟨fun free => ?hld, ?hst⟩,
    fun sc ord scope => ⟨fun reads writes => ?fence, fun rel open' => ?releases, fun acq open' => ?acquires⟩⟩
  case amor =>
    generalize u_is : popped [a, b, d] s = u
    generalize kind_is : ReqKind.atomicRemote op (sizeMask (sizeBytes size) (src [a, b, d] s 1)) (src [a, b, d] s 2) l = kind
    obtain ⟨last, kept, same⟩ := atomic_sends u (kind := kind) (.inl (by rw [← kind_is]; rfl)) (src [a, b, d] s 0) (sizeBytes size) .rel l
    have doms : u.ctx.doms = s.ctx.doms := by
      obtain ⟨_, _, _, _, _, e⟩ := popped_eq [a, b, d] s
      rw [← u_is, e]
    have near' : ¬2 ≤ (u.ctx.dom l).own := by rw [Ctx.dom, doms, ← Ctx.dom]; omega
    have domain : (if amorLevelOk l && s.ctx.levelOk l then none else some (barrierTrap s l)) = none := by
      simp only [List.mem_cons, List.not_mem_nil, or_false] at level
      rw [ok]
      rcases level with rfl | rfl | rfl <;> rfl
    have acts := exec_scalar_act (i := .amor g d a b op size l) rfl turn op' domain rfl
    rw [u_is] at acts
    have sends := acts.trans (congrArg Host.Outcome.next ((if_neg near').trans
      (congrArg (fun k => ((u.send k (src [a, b, d] s 0) (sizeBytes size) .rel l 0).holdIfVersioned false (src [a, b, d] s 0)).arrive l) kind_is)))
    generalize (u.send kind (src [a, b, d] s 0) (sizeBytes size) .rel l 0).holdIfVersioned false (src [a, b, d] s 0) = t at last kept same sends
    obtain ⟨rs, still'⟩ := arrive_eq t l
    refine ⟨_, sends, ?sent, ?own, ?still⟩
    case sent =>
      obtain ⟨id, last⟩ := last
      exact ⟨id, by rw [rs, last, ← kind_is]; rfl⟩
    case own =>
      rw [State.arrive, updDom_dom _ (level_lt_of_levelOk ok), Ctx.dom, kept, doms, ← Ctx.dom]
    case still => rw [← doms, ← kept, still', same]
  case hld =>
    obtain ⟨r, c, e, same, words⟩ := hld_sends (popped [a] s) h (src [a] s 0 + disp.signExtend 64) ord scope
    refine ⟨_, (exec_scalar_act (i := .hld g h a disp ord scope) rfl turn op' free rfl).trans (congrArg _ e), still_sent same _ _, fun i inside => ?_⟩
    rw [sent_rs]
    have loaded := words i inside
    rwa [wordLoaded, popped_rs] at loaded
  case hst =>
    obtain ⟨r, c, e, same, words⟩ := hst_sends (popped [a] s) ((popped [a] s).hreg h) (src [a] s 0 + disp.signExtend 64) ord scope
    generalize u_is : popped [a] s = u at e same words
    have acts := exec_scalar_act (i := .hst g h a disp ord scope) rfl turn op' rfl rfl
    rw [u_is] at acts
    have sends := acts.trans (congrArg (fun t : State => Host.Outcome.next (if t.versionedAt (src [a] s 0 + disp.signExtend 64) && t.ctx.txn.isNone then
      t.setRs { t.rs with wait := .requests ((List.range 4).map (u.seq + ·)) } else t)) e)
    have versions : (sent u r c (u.seq + 4)).versionedAt (src [a] s 0 + disp.signExtend 64) = s.versionedAt (src [a] s 0 + disp.signExtend 64) :=
      versionedAt_of_bare ((bare_of_still (still_sent same _ _)).trans (u_is ▸ bare_popped [a] s)) _
    refine ⟨_, sends, ?still, fun i inside => ?words⟩
    case still =>
      refine Eq.trans ?_ (still_sent same c (u.seq + 4))
      split
      · exact still_wait _ _
      · rfl
    case words =>
      obtain ⟨q, mem, kind, va, bytes, order, count, id⟩ := words i inside
      refine ⟨q, ?_, ?_, va, bytes, order, ?_, fun versioned outside => ⟨(List.range 4).map (u.seq + ·), ?_, ?_⟩⟩
      · split
        · rw [setRs_rs, sent_rs]; exact mem
        · rw [sent_rs]; exact mem
      · rw [kind, ← u_is, State.hreg, popped_rs]; rfl
      · rw [count, ← u_is, State.storeCount, popped_csr]
      · have txn : (sent u r c (u.seq + 4)).ctx.txn = none := by
          obtain ⟨_, _, _, _, _, e⟩ := popped_eq [a] s
          rw [sent, setRs_ctx_txn, ← u_is, e]
          exact outside
        rw [versions, versioned, txn, if_pos (by rfl), setRs_rs]
      · exact List.mem_map.mpr ⟨i, List.mem_range.mpr inside, id.symm⟩
  case fence => exact ⟨fenced s _ _, (exec_slot rfl s).trans (runSlot_act (m := meaningFence sc ord) turn (Nat.zero_le _) rfl (fenceHold_false reads writes)),
      fenced_changes s _ _⟩
  case releases =>
    exact (exec_slot rfl s).trans (runSlot_hold (m := meaningFence sc ord) turn (Nat.zero_le _) rfl (fenceHold_true (.inr ⟨rel, open'⟩)))
  case acquires =>
    exact (exec_slot rfl s).trans (runSlot_hold (m := meaningFence sc ord) turn (Nat.zero_le _) rfl (fenceHold_true (.inl ⟨acq, open'⟩)))

end Sys2Proof.Proofs
/-! # TLBI, CFLUSH, CINV and ERET (chapters 12, 17, 18 and 19) -/

namespace Sys2Proof.Proofs

open Sys2Proof Sys2Proof.Machine Sys2Proof.Claims Sys2Proof.Laws

/-! ### TLBI (R380) -/

/-- What the sources pop is nothing that a TLBI looks at. -/
theorem popped_translations (srcs : List SReg) (s : State) : (popped srcs s).tlb = s.tlb ∧ (popped srcs s).dieTlb = s.dieTlb
    ∧ (popped srcs s).comb = s.comb ∧ (popped srcs s).l1 = s.l1 ∧ (popped srcs s).allReqs = s.allReqs := by
  obtain ⟨_, _, _, _, _, e⟩ := popped_eq srcs s
  rw [e]
  exact ⟨rfl, rfl, rfl, rfl, rfl⟩

/-- A TLBI in S mode while nothing is open removes what it names, and holds for nothing. -/
theorem exec_tlbi {i : Instr} {g : Guard} {srcs : List SReg} {s : State} {hit : List Word → BitVec 16 → Nat → Nat → Bool} (turn : Turn g s)
    (op : Operable srcs [] s) (sup : s.mode = .s) (closed : s.liveReqs = []) (comb : s.comb = [])
    (means : meaningOf i = some (g, Slot.scalar srcs [] (fun _ s => privTrap s) noHold fun vs s => s.tlbi (hit vs))) :
    let keep := fun e : TlbEntry => !hit (operands srcs s).1 e.asid e.va.toNat e.bits
    exec i s = .next ({ popped srcs s with tlb := s.tlb.filter keep, dieTlb := s.dieTlb.filter keep }.setRs { s.sup with wait := .requests [] }) := by
  have may : privTrap s = none := by simp [privTrap, sup]
  have rs : s.rs = s.sup := by simp only [State.rs, sup]
  obtain ⟨tlb, dieTlb, buffer, -, reqs⟩ := popped_translations srcs s
  have live : (popped srcs s).liveReqs = [] := (liveReqs_of_bare (bare_popped srcs s) reqs).trans closed
  refine (exec_scalar_act means turn op may rfl).trans ?_
  simp only [State.tlbi, live, buffer, comb, List.append_nil, List.filter_nil, List.map_nil, popped_rs, rs, tlb, dieTlb]

/-- A PRIV trap in U mode. -/
theorem exec_priv {i : Instr} {g : Guard} {tr : List Word → State → Option Trap} {act : List Word → State → State} {s : State} (turn : Turn g s)
    (user : s.mode = .u) (means : meaningOf i = some (g, Slot.scalar [] [] tr noHold act)) (traps : tr (operands [] s).1 s = some (mkTrap .priv 0 0)) :
    exec i s = .next (s.enterTrap (mkTrap .priv 0 0)) :=
  (exec_scalar_trap means turn (operable_nil s) traps).trans (congrArg _ (raise_user user (by decide)))

/-! ### CFLUSH and CINV (R334) -/

/-- The stores of a range are among those that a flush of it holds for. -/
theorem mem_storesIn {s : State} {sa len : Word} {id : Nat} : id ∈ s.storesIn sa len ↔ ∃ q ∈ s.liveReqs, q.id = id ∧ q.reply = none ∧ q.kind.writes = true
    ∧ sa.toNat < rangeEnd sa len ∧ q.va.toNat < rangeEnd sa len ∧ sa.toNat < q.va.toNat + q.bytes := by
  simp only [State.storesIn, List.mem_map, List.mem_filter, Bool.and_eq_true, decide_eq_true_iff, Option.isNone_iff_eq_none]
  constructor
  · rintro ⟨q, ⟨mem, ⟨⟨⟨reply, writes⟩, range⟩, below⟩, above⟩, id⟩
    exact ⟨q, mem, id, reply, writes, range, below, above⟩
  · rintro ⟨q, mem, id, reply, writes, range, below, above⟩
    exact ⟨q, ⟨mem, ⟨⟨⟨reply, writes⟩, range⟩, below⟩, above⟩, id⟩

/-! ### ERET (R247, R347) -/

/-- A context with nothing to load goes on. -/
theorem doLoad_none {s : State} (nothing : s.ctx.load = .none) (store : s.ctx.csr.msimg = 0 ∨ s.microTag = s.ctx.kernel) : s.doLoad = s := by
  have none_needed : s.needsStore = false := by
    rcases store with h | h <;> simp [State.needsStore, h]
  simp only [State.doLoad, nothing, none_needed]
  split
  · rfl
  · rfl

/-- The return of a handler that served a trap and wrote no command. -/
theorem supReturn_back {s : State} (trap : s.atNotice = false) (none_written : s.trap.ctxcmd = none) :
    s.supReturn = State.doLoad { s.trapReturn with trap := { s.trapReturn.trap with ctxcmd := none } } := by
  simp only [State.supReturn, none_written, trap, Bool.false_eq_true, if_false]

/-- Settles O13: TLBI by `exec_tlbi`, the flushes by `mem_storesIn`, ERET by `supReturn_back`, which then has nothing to load. -/
theorem translationsCachesAndEret : Obligations.TranslationsCachesAndEret := by
  unfold Obligations.TranslationsCachesAndEret
  intro s g a b turn
  refine ⟨fun sup closed comb => ⟨?all, fun op => ?asid, fun op low => ?page⟩, fun user i listed => ?priv, fun op => ?flush, fun op => ?cinv,
    fun sup cause command aligned load wait store => ?eret⟩
  case all => exact exec_tlbi (hit := fun _ _ _ _ => true) turn (operable_nil s) sup closed comb rfl
  case asid => exact exec_tlbi (hit := fun vs asid _ _ => asid == (arg vs 0).setWidth 16) turn op sup closed comb rfl
  case page =>
    have high : (arg (operands [a, b] s).1 0).extractLsb' 48 16 = 0 := BitVec.eq_of_toNat_eq (by
      rw [BitVec.extractLsb'_toNat, Nat.shiftRight_eq_div_pow, Nat.div_eq_of_lt (by exact low)]; rfl)
    have same : ∀ e : TlbEntry, (e.asid == (arg (operands [a, b] s).1 1).setWidth 16 && (arg (operands [a, b] s).1 0).extractLsb' 48 16 == (0 : BitVec 16)
        && e.va.toNat / 2 ^ e.bits == (arg (operands [a, b] s).1 0).toNat / 2 ^ e.bits) =
          (e.asid == (src [a, b] s 1).setWidth 16 && decide ((src [a, b] s 0).toNat / 2 ^ e.bits = e.va.toNat / 2 ^ e.bits)) := fun e => by
      rw [high, beq_self_eq_true, Bool.and_true, BEq.comm (a := e.va.toNat / 2 ^ e.bits)]; rfl
    refine (exec_tlbi (hit := fun vs asid va bits => asid == (arg vs 1).setWidth 16 && (arg vs 0).extractLsb' 48 16 == (0 : BitVec 16)
      && va / 2 ^ bits == (arg vs 0).toNat / 2 ^ bits) turn op sup closed comb rfl).trans ?_
    simp only [same]
  case priv =>
    simp only [List.mem_cons, List.not_mem_nil, or_false] at listed
    rcases listed with rfl | rfl
    · exact exec_priv turn user rfl (by simp [privTrap, user])
    · exact exec_priv turn user rfl (by simp [eretTrap, user])
  case flush =>
    have kept := popped_rs [a, b] s
    refine ⟨(popped [a, b] s).storesIn (src [a, b] s 0) (src [a, b] s 1), fun id mem => ?_, fun range q mem reply writes below above => ?_, ?_, ?_⟩
    · obtain ⟨q, mem, id, reply, writes, -⟩ := mem_storesIn.mp mem
      exact ⟨q, mem, id, reply, writes⟩
    · exact mem_storesIn.mpr ⟨q, mem, rfl, reply, writes, range, below, above⟩
    · rw [← kept]; exact (exec_scalar_act (i := .cflush g a b) rfl turn op rfl rfl)
    · rw [← kept]; exact (exec_scalar_act (i := .cinv g a b true) rfl turn op rfl rfl)
  case cinv =>
    obtain ⟨-, -, -, l1, -⟩ := popped_translations [a, b] s
    refine ⟨(popped [a, b] s).invalidateRange (src [a, b] s 0) (src [a, b] s 1), exec_scalar_act (i := .cinv g a b false) rfl turn op rfl rfl, ?_,
      fun w mem => ?_, fun w mem owned => ?_⟩
    · rw [← l1]; rfl
    · rw [← l1]; exact (List.mem_filter.mp mem).1
    · rw [← l1] at mem
      exact List.mem_filter.mpr ⟨mem, by rw [owned]; rfl⟩
  case eret =>
    have trap : s.atNotice = false := by rw [State.atNotice, beq_false_of_ne cause, Bool.and_false]
    have pass : eretTrap s = none := by simp [eretTrap, sup, aligned]
    refine ⟨_, (exec_scalar_act (i := .eret g) rfl turn (operable_nil s) pass rfl).trans
      (congrArg Host.Outcome.next ((supReturn_back trap command).trans (doLoad_none load store))), rfl, rfl, ?_, rfl, rfl, rfl, ?_, ?_, rfl, rfl, rfl, rfl, rfl⟩
    all_goals simp only [State.trapReturn, RegSet.resume, wait]; rfl

end Sys2Proof.Proofs
